-- ==== Sys2Proof/Word.lean ====
section
/-!
DEFINITION. The word types and their plainest arithmetic.
-/

namespace Sys2Proof

/-- A 64-bit scalar register value (R76). -/
abbrev Word := BitVec 64

/-- A byte of memory. -/
abbrev Byte := BitVec 8

/-- A 512-bit vector register value (R131). -/
abbrev VWord := BitVec 512

/-- A 6-bit operand field D, A, B or C (R36). -/
abbrev Field := BitVec 6

/-- An integer cut to `n` bits (R5's pseudocode rule: a value is cut when it is assigned). -/
def cut (n : Nat) (x : Int) : BitVec n := BitVec.ofInt n x

/-- The bits `[lo + len - 1 : lo]` of a word, as a number. -/
def Word.bits (x : Word) (lo len : Nat) : Nat := (x.toNat >>> lo) % 2 ^ len

/-- Replace bits `[lo + len - 1 : lo]` of a word. -/
def Word.setBits (x : Word) (lo len : Nat) (v : Nat) : Word :=
  let m : Nat := (2 ^ len - 1) <<< lo
  BitVec.ofNat 64 ((x.toNat &&& (2 ^ 64 - 1 - m)) ||| ((v % 2 ^ len) <<< lo))

/-- One bit of a word. -/
def Word.bit (x : Word) (i : Nat) : Bool := x.getLsbD i

/-- 1 or 0, the value a comparison writes. -/
def Word.ofBool (b : Bool) : Word := if b then 1 else 0

end Sys2Proof
end

