-- ==== Sys2Proof/Config.lean ====
section
/-!
DEFINITION. What the specification leaves open and no rule fixes: free values, each an opaque constant applied to a
counter that the step advances, or to the operands the value depends on. Nothing in Lean can evaluate one.
The widths and depths that the specification gives are plain numbers beside them.
-/

namespace Sys2Proof.Config

/-- The nominal cycles that one step of the model takes (R375, R318: timing is not modelled). (DESIGN CHOICE: log entry 7.) -/
opaque cycles : Nat → Nat

/-- Which of the agents that can move does so at a tick (R161 rule 3, R197, R248: order the spec leaves open). (DESIGN CHOICE: log entry 6.) -/
opaque schedule : Nat → Nat

/-- Whether a translation that a TLB may hold is still held at a tick (R357). -/
opaque tlbHeld : Nat → Bool

/-- Whether a fetched line that the core may hold is still held at a tick (R34, R209). -/
opaque lineHeld : Nat → Bool

/-- Whether a sealed line that the data cache may hold is still held at a tick (R178, R190). -/
opaque replicaHeld : Nat → Bool

/-- A read that the core performs early at a tick (R192): the context, and the global address. (DESIGN CHOICE: log entry 11.) -/
opaque earlyRead : Nat → Option (Fin 11 × Nat)

/-- Whether a read that issues at a tick is one that was performed early (R192). (DESIGN CHOICE: log entry 11.) -/
opaque takesEarly : Nat → Bool

/-- Whether a walk finds every walker of its cluster busy at a tick (R357). (DESIGN CHOICE: log entry 10.) -/
opaque walkersBusy : Nat → Bool

/-- Whether the package that owns a pool region has it sealed, for the granule at an offset of a port, and what a byte of it holds
(R185). (DESIGN CHOICE: log entry 74.) -/
opaque ownerSealed : BitVec 4 → Nat → Nat → Bool
opaque poolByte : BitVec 4 → Nat → BitVec 8

/-- How many elements after the first an engine visits at a tick before other agents move (R237, R248). (DESIGN CHOICE: log entry 105.) -/
opaque burst : Nat → Nat

/-- Whether the back-off of an access that an engine or a service core makes again ends at a tick (R164, R385). (DESIGN CHOICE: log
entry 105.) -/
opaque backOffEnds : Nat → Bool

/-- The sequence number of an answer of the host at a tick (R383): its row carries none. (DESIGN CHOICE: log entry 26.) -/
opaque answerSeq : Nat → BitVec 16

/-- Whether the management core of another package has reopened a reset cluster of it at a tick (R382). (DEDUCED: log entry 31.) -/
opaque reopened : Nat → BitVec 18 × BitVec 7 → Bool

/-- Whether every other core of the package has acknowledged a termination notice at a tick (R330). (DESIGN CHOICE: log entry 103.) -/
opaque packageAcked : Nat → Bool

/-- Whether the reply of an access already performed at a home of a cluster that is reset is lost, by the request (R382). (DESIGN
CHOICE: log entry 102.) -/
opaque replyLost : Nat → Bool

/-- Whether the other members of a gang come to the same outcome or target at a tick (R64). -/
opaque peersAgree : Nat → Bool

/-- Whether another member of a gang takes a trap in the instruction issued at a tick (R64). -/
opaque peersTrap : Nat → Bool

/-- Whether every other member of a gang is ready at a tick (R63). -/
opaque peersReady : Nat → Bool

/-- Whether the core of a gang's leader selects the ganged context at a tick (R63), and the line that the leader executes, where
another core leads. (DESIGN CHOICE: log entry 87.) -/
opaque leaderSelects : Nat → Bool
opaque leaderLine : Nat → Option (List (BitVec 8))

/-- Whether a member of a gang on another core is pre-empted, or its cluster reset, at a tick (R64). (DESIGN CHOICE: log entry 87.) -/
opaque peersGone : Nat → Bool

/-- Whether the write of an `mrd` that was in flight has landed at a tick, by its register (R72, R227). (DESIGN CHOICE: log entry 88.) -/
opaque landed : Nat → Nat → Bool

/-- Whether the neighbour has read an entry of the channel numbered by the second argument at a tick (R60). (DEDUCED: log entry 14.) -/
opaque neighbourReads : Nat → Nat → Bool

/-- Which entries of a channel survive a change of CHMODE made while they are present or in transit (R61). -/
opaque survives : Nat → Nat → Bool

/-- The key that places one update of a command among its others (R248: the order is not defined), by the position, at a tick. (DESIGN CHOICE: log entry 8.) -/
opaque order : Nat → Nat → Nat

/-- The die's Bellows at a boundary, by its cycle: the other active units, and the units of lower number that request a start, and
stop, then (R235: the other units of the die). (DESIGN CHOICE: log entry 68.) -/
opaque bellows : Nat → Nat × Nat × Nat

/-- The cycles that a streaming `mma` loses to bank conflicts at this core's scratchpad (R242, R408: its beats are not stated).
(DESIGN CHOICE: log entry 86.) -/
opaque streamExtra : Nat → Nat

/-- FILLCNT one step after its largest value (R236: not stated). (DESIGN CHOICE: log entry 67.) -/
opaque fillcntAfter : Nat → BitVec 32

/-- What the other cores make of the clock at a release (R208, R404): whether every other core of the cluster took part, how many
cycles before this core's first arrival the episode's first came, how many cycles before the release the cluster's last came, and
whether a step up is granted. (DESIGN CHOICE: log entry 64.) -/
opaque clusterTookPart : Nat → Bool
opaque earlierBy : Nat → Nat
opaque lastBefore : Nat → Nat
opaque stepGranted : Nat → Bool

/-- FADDR after a trap whose cause has no rule that gives it, at a tick (R341). (DEDUCED: log entry 16.) -/
opaque faddr : Nat → Word

/-- The extent of the system in LX and in LY, 1 to 128 each, learnt at enumeration (R388). -/
opaque extentX : Nat
opaque extentY : Nat

/-- The capacity in bytes of the device behind a package's CXL port, 0 without a device (R184). -/
opaque cxlCapacity : BitVec 18 → BitVec 4 → Nat

/-- Whether every boot-flash image passes the root-of-trust core's check at a package reset (R399), given the images written
since the package was made. -/
opaque firmwareVerified : List (BitVec 2 × List (BitVec 8)) → Bool

/-- The version of the firmware (R389). (DESIGN CHOICE: log entry 45.) -/
opaque firmwareVersion : BitVec 64

/-- SHAKE256 with 32 bytes of output (R389, R400, R402): its rounds are no part of the specification. (DESIGN CHOICE: log entry 45.) -/
opaque shake256 : List (BitVec 8) → BitVec 256

/-- What the summary says of a cluster that is not the core's and is neither closed nor off (R389), at a tick. -/
opaque clusterState : Nat → Nat → BitVec 8

/-- Counts of the RESYNC summary that other cores, dies and service cores make (R389): by the summary's doubleword, at a
tick. -/
opaque elsewhere : Nat → Nat → BitVec 64

/-- Whether every other core of the cluster is idle at a tick (R398), and the lowest power state of the other clusters. -/
opaque coresIdle : Nat → Bool
opaque lowestPower : Nat → Nat

/-- What a device-space register of another core reads as (R256), by its address, at a tick. -/
opaque deviceWord : Nat → Nat → BitVec 64

/-- What a debug-module register of another cluster, or the image of another core's context, reads as (R390), by the place
read, at a tick. -/
opaque debugWord : Nat → Nat → BitVec 64

/-- Whether a halt of another cluster fires the package cross-trigger (R391), at a tick. -/
opaque crossTrigger : Nat → Bool

/-- What stops another core of the cluster at a tick, if anything (R391 to R393): how it stops (0 `brk` under BRKH, 1 `halt`, 2 a
vector failure, 3 a step done), the core, its context and VCAUSE. (DESIGN CHOICE: log entry 94.) -/
opaque otherStops : Nat → Option (Nat × Nat × Nat × Nat)

/-- Whether the port refuses a command about a core or context outside the machine at a tick: it is not halted, not live, or its
cluster off (R390, R396, R401). (DESIGN CHOICE: log entry 44.) -/
opaque portRefuses : Nat → Bool

/-- Whether the management core gives a reset cluster up at a tick (R389, R398). (DESIGN CHOICE: log entry 95.) -/
opaque clusterFails : Nat → Bool

/-- PTB of core 0 of a cluster, where that core is not the followed one (R395), at a tick. -/
opaque rootOf : Nat → Nat → BitVec 64

/-- The nonces of the root-of-trust core (R390), by the number of CHALs before. (DESIGN CHOICE: log entry 45.) -/
opaque nonce : Nat → BitVec 256

/-- The SHAKE256 digest of the device identity key, and the Hentik debug key (R400). (DESIGN CHOICE: log entry 45.) -/
opaque identityDigest : BitVec 256
opaque debugKey : List (BitVec 8)

/-- PCYC of another package at a tick (R320), which a task record there is stamped with (R327, R328). (DESIGN CHOICE: log entry 106.) -/
opaque pcycOf : Nat → Nat → BitVec 64

/-- Whether the context of a trace session of another core of the cluster has ended at a tick, by the session's place (R396, R397).
(DESIGN CHOICE: log entry 107.) -/
opaque sessionEnds : Nat → Nat → Bool

/-- A signature holds for a message under a key (R399, R400): SLH-DSA-SHAKE-256s. (DESIGN CHOICE: log entry 45.) -/
opaque verifies : (key message signature : List (BitVec 8)) → Bool

/-- The signature of a message with the device identity key (R402): its bytes, and how many there are. (DESIGN CHOICE: log entry 45.) -/
opaque signature : List (BitVec 8) → Nat → BitVec 8
def signatureBytes : Nat := 29792

/-- The digest and the security version of the firmware of the management, service and memory cores (R402), given the
images written. (DESIGN CHOICE: log entry 45.) -/
opaque firmwareDigest : List (BitVec 2 × List (BitVec 8)) → Nat → BitVec 256
opaque securityVersion : List (BitVec 2 × List (BitVec 8)) → Nat → BitVec 16

/-- An ownership record is signed by Hentik (R400), and the owner key that it names. (DESIGN CHOICE: log entry 45.) -/
opaque recordSigned : List (BitVec 8) → Bool
opaque recordKey : List (BitVec 8) → BitVec 512

/-- The headroom reserved for a cluster from a forecast that is not zero (R403). (DEDUCED: log entry 75.) -/
opaque headroomOf : Nat → Nat

/-- The bin of temperature and voltage that an hour counts in (R406), at a tick. -/
opaque hourBin : Nat → Nat

/-- Whether a group has a member in a package (R377). -/
opaque memberOn : BitVec 12 → BitVec 4 → BitVec 18 → Bool

/-- Whether a group has a member in a cluster of a package (R313). -/
opaque memberIn : BitVec 12 → BitVec 4 → BitVec 18 → Nat → Bool

/-- The entries of each return queue (R239). -/
def queueDepth (q : Nat) : Nat := if q = 5 then 64 else if q = 7 then 32 else 16

/-- The entries of a channel (R60). -/
def channelDepth : Nat := 4

/-- The words of a staging buffer (R238), and the commands of an engine queue (R216, R237). -/
def stageDepth : Nat := 16

/-- The outstanding accesses of a core (R160). -/
def outstanding : Nat := 2048

/-- The entries of a store-hold buffer (R309). -/
def holdDepth : Nat := 128

/-- The instructions a window may hold (R308). -/
def windowLength : Nat := 1024

/-- The entries of a slice's retry list and of its refusal queue (R163, R166). -/
def retryDepth : Nat := 256
def refusalDepth : Nat := 64

/-- The scalar and vector granules of the pool (R55). -/
def scalarGranules : Nat := 32
def vectorGranules : Nat := 24

/-- The notices a KICK queue holds (R251). -/
def kickDepth : Nat := 16

/-- The entries of a group table (R297). -/
def groupEntries : Nat := 8

/-- The 64-byte lines of a data cache of 32 KiB (R18). -/
def cacheLines : Nat := 512

end Sys2Proof.Config
end

