-- ==== Sys2Proof/Syntax.lean ====
section
/-!
DEFINITION. The operand shapes and the one inductive `Instr`, a constructor for each row of the opcode table.
A row with an encoding carries the fields of that encoding (R35, R36 and the chapter's own form table).
A row without one is a step of another agent of the machine (a reply that arrives, a command that starts, a host
transaction): it carries what that agent brings with it.
-/

namespace Sys2Proof

/-- The C64 wait and signal fields (R36, R37). -/
structure Sync where
  we : Bool
  ws : BitVec 8
  wt : BitVec 8
  se : Bool
  ss : BitVec 8
  sk : BitVec 6
  deriving DecidableEq, Repr

/-- No wait and no signal. -/
def Sync.none : Sync := ⟨false, 0, 0, false, 0, 0⟩

/-- The common S32 vector layout with a second source that may be a scalar or floating register (R133). -/
structure VArgs where
  d : Field
  a : Field
  b : Field
  s : Bool
  z : Bool
  k : BitVec 3
  w : BitVec 2
  deriving DecidableEq, Repr

/-- The common layout with vector sources only. -/
structure VArgs3 where
  d : Field
  a : Field
  b : Field
  z : Bool
  k : BitVec 3
  w : BitVec 2
  deriving DecidableEq, Repr

/-- The common layout with one source. -/
structure VArgs2 where
  d : Field
  a : Field
  z : Bool
  k : BitVec 3
  w : BitVec 2
  deriving DecidableEq, Repr

/-- The operand bits of every `mma` (R222), less STR, which the row itself says. -/
structure MmaArgs where
  d : Field
  a : Field
  b : Field
  c : Field
  nc : BitVec 6
  mc : BitVec 2
  sa : Bool
  sb : Bool
  clr : Bool
  rpt : Bool
  deriving DecidableEq, Repr

/-- The operand bits of `mrd` (R226). -/
structure MrdArgs where
  d : Field
  fmt : BitVec 4
  rm : BitVec 3
  part : BitVec 3
  index : BitVec 6
  dir : Bool
  shift : BitVec 6
  ev : Bool
  acc : BitVec 2
  deriving DecidableEq, Repr

/-- The near-bank integer operations of `amo` (R173, R174). -/
inductive AmoOp where
  | add | and | or | xor | swap | min | max | minu | maxu
  deriving DecidableEq, Repr

/-- The near-bank floating operations (R175). -/
inductive AmofOp where
  | add | min | max
  deriving DecidableEq, Repr

/-- The operations of `barv` (R204); `cred` has the first five (R306). -/
inductive RedOp where
  | add | min | max | minu | maxu | and | or | xor
  deriving DecidableEq, Repr

/-- The access kinds of translation (R6, R356). -/
inductive Access where
  | load | store | atomic | fetch
  deriving DecidableEq, Repr

/-- What a request asks its home to do (R163, R169, R174 to R179, R248, R327, R328). -/
inductive MemOp where
  /-- A plain read of `n` bytes (`n` up to 64). -/
  | read (n : Nat)
  /-- A message of a vector load (R148): the bytes of one 32-byte sector that the mask names. -/
  | sector (mask : BitVec 32)
  /-- Plain writes of the listed bytes, each at its distance from the request's address. -/
  | write (bytes : List (Nat × Byte))
  | ldfe
  | ldfeE
  | stfe (v : Word)
  | feset
  | feclr
  | amo (op : AmoOp) (n : Nat) (b : Word)
  | amof (op : AmofOp) (fmt : Nat) (b : Word)
  | cas (n : Nat) (expected new : Word)
  | tnew (count : Word)
  | tdec
  | seal
  | unseal
  deriving DecidableEq, Repr

/-- A request of another agent that reaches a home of this model. -/
structure ForeignReq where
  ga : Word
  op : MemOp
  /-- The requesting core, a job-wide number. -/
  src : Nat
  deriving DecidableEq, Repr

/-- Which request reaches its home: one this core sent, by its number, or one from elsewhere. -/
inductive ReqSel where
  | own (id : Nat)
  | foreign (r : ForeignReq)
  deriving DecidableEq, Repr

/-- The answer that a party outside the model gives to a request this core sent there: a value, or an error's cause
and sub-code with the information word of R205, R377. -/
structure ExtReply where
  value : Nat
  cause : Nat
  sub : Nat
  info : Word
  deriving DecidableEq, Repr

/-- An arrival at a collective group's network (R300). -/
inductive Vote where
  | any (p : Bool)
  | all (p : Bool)
  | cred (op : RedOp) (v : Word)
  | leave
  deriving DecidableEq, Repr

/-- An event on its way to a Drone front end (R265). -/
structure Ev where
  dest : BitVec 41
  dgen : BitVec 8
  slot : BitVec 6
  src : BitVec 41
  n : Bool
  sgen : BitVec 8
  ts : BitVec 32
  payload : List (BitVec 32)
  ret : Bool
  rgen : BitVec 8
  deriving DecidableEq, Repr

/-- A transfer notice of `kick` (R251). -/
structure Notice where
  ga : Word
  len : BitVec 24
  ack : Bool
  sem : BitVec 8
  sender : BitVec 29
  deriving DecidableEq, Repr

/-- The operations of the queue controller (R329 to R332). -/
inductive QOp where
  | claim | steal | pub (item : Word) | len | claims | steals | fail | reset
  | bind (desc next : Word) (base : Word) (words : List Word)
  | unbind | fcast | done (pos : BitVec 32) (stamp : Word)
  deriving DecidableEq, Repr

/-- A host or management-port failure status is R385's; the port's commands answer R390's. -/
abbrev Status := Nat

/-- The control registers' numbers are 10 bits (R338). -/
abbrev Creg := BitVec 10

/-- Which queue request reaches a controller (R325): one this core sent, by its number, or one from elsewhere. -/
inductive QSel where
  | own (id : Nat)
  /-- The claimer: its core in bits 28:0, its context in bits 35:32 (R324). -/
  | foreign (qid : BitVec 16) (op : QOp) (claimer : BitVec 36)
  deriving DecidableEq, Repr

/-- A migration request as it reaches the memory core (R361): the page and its leaf entry, the old and the new
frame, the size as a power of two, and the semaphore of the requesting core to signal. -/
structure MigReq where
  va : Word
  leaf : Nat
  old : Nat
  new : Nat
  bits : Nat
  sem : Option (BitVec 8)
  sender : BitVec 29
  deriving DecidableEq, Repr

/-- The two registers of a debug module (R391). -/
inductive DbgReg where
  | dctl | dstat
  deriving DecidableEq, Repr

/-- The TRACE command (R390, R396). -/
inductive TraceCmd where
  | openSession (lcore : BitVec 29) (ctx : BitVec 4) (gen : BitVec 8) (buf : Word) (log2 : Nat) (mask : BitVec 16)
      (period : BitVec 20)
  | closeSession (lcore : BitVec 29) (ctx : BitVec 4) (gen : BitVec 8)
  deriving DecidableEq, Repr

/-- One constructor for each row of the opcode table. -/
inductive Instr where
  /-- R42: Does nothing and continues at the next head. -/
  | nop
  /-- R347: Takes trap TRAP with the code in FINFO when ga is non-zero, and otherwise does nothing. -/
  | trap (a : Field) (code : BitVec 10)
  /-- R347: Always takes trap SYSC with the code in FINFO. -/
  | sysc (code : BitVec 10)
  /-- R348: As an ordering point, returns from a trap to EPC and restores privilege and interrupt enable. -/
  | rte
  /-- R349: Reads the named control register into gd. -/
  | rdc (d : Field) (n : BitVec 10)
  /-- R349: Writes ga, field by field, to a control register that has no row of its own. -/
  | wrc (a : Field) (n : BitVec 10)
  /-- R337: Writes STATUS, with NEST cleared by writing 1 and PIE, IE and PPL set. -/
  | wrcStatus (a : Field)
  /-- R115: Writes FRM after every earlier floating instruction has set its flags, ignoring RM values of 5-7. -/
  | wrcFrm (a : Field)
  /-- R345: Sets the delay time, and sets PDLY at once when PCYC has already passed it. -/
  | wrcDtime (a : Field)
  /-- R61: Changes the channel mode and discards every entry present in the core's own channels. -/
  | wrcChmode (a : Field)
  /-- R201: Writes the barrier expectations, which take effect from the next episode. -/
  | wrcBarcfg (a : Field)
  /-- R240: Clears the sticky semaphore overflow bit by writing 1. -/
  | wrcSemstat (a : Field)
  /-- R214: Writes a tile shape register, held at issue while any queued matrix command names the tile, with COLS clamped to the new EW. -/
  | wrcTshape (a : Field) (t : BitVec 3)
  /-- R215: Writes an accumulator configuration, trapping ACCBUSY while the accumulator is owned. -/
  | wrcAcfg (a : Field) (k : BitVec 2)
  /-- R414: Sets RATE, after which NOW first advances RATE nominal cycles later. -/
  | wrcEtcfg (a : Field)
  /-- R320: Writes FORECAST, clamping CTX to 11, as the power manager's input. -/
  | wrcForecast (a : Field)
  /-- R236: Writes the die's start allowances, which take effect from the next Bellows boundary. -/
  | wrcRampup (a : Field)
  /-- R236: Writes the die's stop allowances, which take effect from the next Bellows boundary. -/
  | wrcRampdn (a : Field)
  /-- R358: Fences stores, then removes translations of a range from every TLB in scope and waits for all acknowledgements. -/
  | tlbinv (a : Field) (b : Field) (s : BitVec 4)
  /-- R358: Fences stores, then removes every translation in scope and waits for all acknowledgements. -/
  | tlbinvAll (s : BitVec 4)
  /-- R350: Blocks with IDLE until an interrupt is pending or a wake arrives, or completes at once when one is already there. -/
  | wfi
  /-- R351: Sends a service request to the host through the quadrant's service core and writes a ticket. -/
  | hcall (d : Field) (a : Field) (b : Field)
  /-- R361: Requests migration of one page to a new frame, writing 0 when accepted or 1 when it is already migrating. -/
  | migr (d : Field) (a : Field) (b : Field) (se : Bool) (x : BitVec 8)
  /-- R365: Saves a context into a 4 KiB image, bringing it to its quiet point and freeing it. -/
  | ssave (d : Field) (a : Field) (b : Field)
  /-- R368: Drains or stops the engines and saves the core's state into a 32 KiB image. -/
  | ssaveCore (d : Field) (b : Field)
  /-- R369: Reports a quiet core to the cluster controller, after which its slice refuses other requests with RNR. -/
  | ssaveAck (d : Field)
  /-- R366: Restores a context image into a context, waiting for its granules. -/
  | srest (d : Field) (a : Field) (b : Field)
  /-- R368: Restores a core image, refills the run lists and re-queues the saved commands. -/
  | srestCore (d : Field) (b : Field)
  /-- R352: Asks the management core for the RESYNC summary and waits until it is written. -/
  | resync (d : Field) (a : Field)
  /-- R66: Starts the lowest free helper with granules, an entry and an argument, blocking until one is free. -/
  | start (d : Field) (a : Field) (b : Field) (n : BitVec 3) (v : BitVec 3) (p : BitVec 2)
  /-- R66: Starts the lowest free helper, writing 0 instead of blocking when none or too few granules are free. -/
  | startNb (d : Field) (a : Field) (b : Field) (n : BitVec 3) (v : BitVec 3) (p : BitVec 2)
  /-- R66: Starts the named helper, blocking until it and the granules are free. -/
  | startAt (d : Field) (a : Field) (b : Field) (c : Field) (n : BitVec 3) (v : BitVec 3) (p : BitVec 2)
  /-- R66: Starts the named helper, writing 0 instead of blocking. -/
  | startAtNb (d : Field) (a : Field) (b : Field) (c : Field) (n : BitVec 3) (v : BitVec 3) (p : BitVec 2)
  /-- R67: Waits for the context's replies, then frees a helper, releasing its granules and waiters, or idles the control context. -/
  | exit
  /-- R68: Blocks until the current incarnation of a helper exits. -/
  | cwait (d : Field) (a : Field)
  /-- R69: Ends the context's turn, placing it last of its priority. -/
  | yield
  /-- R70: Consumes the wake token, or blocks with PARK until a wake arrives. -/
  | park
  /-- R70: Wakes a context of the core according to its block state, or sets its wake token. -/
  | wake (a : Field)
  /-- R71: Raises the allotment, blocking in pool order until the granules are granted. -/
  | grow (d : Field) (n : BitVec 6) (v : BitVec 6)
  /-- R71: Raises the allotment at once, or writes 0 when granules are short or a request is waiting. -/
  | growNb (d : Field) (n : BitVec 6) (v : BitVec 6)
  /-- R72: Lowers the allotment after draining in-flight writes and releases the highest granules. -/
  | shrink (n : BitVec 6) (v : BitVec 6)
  /-- R73: Writes the status word of a context of the core. -/
  | allot (d : Field) (a : Field)
  /-- R62: Waits to form a gang within the quad with the given member mask. -/
  | gangQuad (d : Field) (a : Field)
  /-- R62: Waits to form a gang within the cluster with the given member mask. -/
  | gangClus (d : Field) (a : Field)
  /-- R62: Once every masked core waits with a matching gang, the gang forms and its members issue in lock-step. -/
  | gangFormed
  /-- R74: Dissolves the gang in which it is executed. -/
  | split
  /-- R69: Writes the old priority and sets a new one. -/
  | prio (d : Field) (a : Field)
  /-- R81: Adds two registers modulo 2^64. -/
  | add (d : Field) (a : Field) (b : Field)
  /-- R81: Subtracts two registers modulo 2^64. -/
  | sub (d : Field) (a : Field) (b : Field)
  /-- R81: Writes the low 64 bits of the product. -/
  | mul (d : Field) (a : Field) (b : Field)
  /-- R81: Writes the high 64 bits of the signed product. -/
  | mulh (d : Field) (a : Field) (b : Field)
  /-- R81: Writes the high 64 bits of the unsigned product. -/
  | mulhu (d : Field) (a : Field) (b : Field)
  /-- R82: Performs signed division truncating toward zero, without trapping. -/
  | div (d : Field) (a : Field) (b : Field)
  /-- R82: Performs unsigned division, without trapping. -/
  | divu (d : Field) (a : Field) (b : Field)
  /-- R82: Writes the signed remainder with the dividend's sign. -/
  | rem (d : Field) (a : Field) (b : Field)
  /-- R82: Writes the unsigned remainder. -/
  | remu (d : Field) (a : Field) (b : Field)
  /-- R83: Writes the bitwise AND. -/
  | and (d : Field) (a : Field) (b : Field)
  /-- R83: Writes the bitwise OR. -/
  | or (d : Field) (a : Field) (b : Field)
  /-- R83: Writes the bitwise XOR. -/
  | xor (d : Field) (a : Field) (b : Field)
  /-- R83: Writes a AND NOT b. -/
  | andn (d : Field) (a : Field) (b : Field)
  /-- R83: Writes a OR NOT b. -/
  | orn (d : Field) (a : Field) (b : Field)
  /-- R83: Shifts left by b[5:0]. -/
  | shl (d : Field) (a : Field) (b : Field)
  /-- R83: Shifts right logically by b[5:0]. -/
  | shr (d : Field) (a : Field) (b : Field)
  /-- R83: Shifts right arithmetically by b[5:0]. -/
  | sra (d : Field) (a : Field) (b : Field)
  /-- R83: Rotates left by b[5:0]. -/
  | rot (d : Field) (a : Field) (b : Field)
  /-- R84: Counts the leading zeros. -/
  | clz (d : Field) (a : Field)
  /-- R84: Counts the trailing zeros. -/
  | ctz (d : Field) (a : Field)
  /-- R84: Counts the one bits. -/
  | popc (d : Field) (a : Field)
  /-- R84: Writes the absolute value, wrapping at -2^63. -/
  | abs (d : Field) (a : Field)
  /-- R85: Writes the signed minimum. -/
  | min (d : Field) (a : Field) (b : Field)
  /-- R85: Writes the signed maximum. -/
  | max (d : Field) (a : Field) (b : Field)
  /-- R85: Writes the unsigned minimum. -/
  | minu (d : Field) (a : Field) (b : Field)
  /-- R85: Writes the unsigned maximum. -/
  | maxu (d : Field) (a : Field) (b : Field)
  /-- R86: Sign-extends the low n bits. -/
  | sext (d : Field) (a : Field) (n : BitVec 6)
  /-- R86: Zero-extends the low n bits. -/
  | zext (d : Field) (a : Field) (n : BitVec 6)
  /-- R87: Extracts a bit field, zero-extended. -/
  | bfx (d : Field) (a : Field) (pos : BitVec 6) (len : BitVec 6)
  /-- R87: Extracts a bit field, sign-extended. -/
  | bfxS (d : Field) (a : Field) (pos : BitVec 6) (len : BitVec 6)
  /-- R87: Deposits the low len bits of a into the destination at pos. -/
  | bfi (d : Field) (a : Field) (pos : BitVec 6) (len : BitVec 6)
  /-- R88: Writes (a << s) + b. -/
  | shadd (d : Field) (a : Field) (b : Field) (s : BitVec 4)
  /-- R88: Copies a register, queue or channel entry. -/
  | mov (d : Field) (a : Field)
  /-- R88: Selects b or c by whether a is non-zero, reading all three sources. -/
  | sel (d : Field) (a : Field) (b : Field) (c : Field)
  /-- R89: Writes 1 when the register condition holds, and 0 otherwise. -/
  | cmp (d : Field) (a : Field) (b : Field) (c : BitVec 4)
  /-- R90: Adds a 10-bit signed immediate. -/
  | addi (d : Field) (a : Field) (i : BitVec 10)
  /-- R90: ANDs a sign-extended immediate. -/
  | andi (d : Field) (a : Field) (i : BitVec 10)
  /-- R90: ORs a sign-extended immediate. -/
  | ori (d : Field) (a : Field) (i : BitVec 10)
  /-- R90: XORs a sign-extended immediate. -/
  | xori (d : Field) (a : Field) (i : BitVec 10)
  /-- R90: Shifts left by an immediate. -/
  | shli (d : Field) (a : Field) (s : BitVec 6)
  /-- R90: Shifts right logically by an immediate. -/
  | shri (d : Field) (a : Field) (s : BitVec 6)
  /-- R90: Shifts right arithmetically by an immediate. -/
  | srai (d : Field) (a : Field) (s : BitVec 6)
  /-- R90: Rotates left by an immediate. -/
  | roti (d : Field) (a : Field) (s : BitVec 6)
  /-- R89: Compares a register with a 22-bit signed immediate under a condition. -/
  | cmpi (d : Field) (a : Field) (c : BitVec 4) (i : BitVec 22)
  /-- R91: Loads a 26-bit sign-extended immediate. -/
  | ldi26 (d : Field) (i : BitVec 26)
  /-- R91: Loads a 64-bit immediate. -/
  | ldi64 (d : Field) (i : BitVec 64)
  /-- R94: Tests two registers under a condition and branches PC-relative. -/
  | br (d : Field) (a : Field) (c : BitVec 4) (i : BitVec 22)
  /-- R95: Branches when the register is zero. -/
  | bz (d : Field) (i : BitVec 26)
  /-- R95: Branches when the register is non-zero. -/
  | bnz (d : Field) (i : BitVec 26)
  /-- R96: Jumps PC-relative. -/
  | j (i : BitVec 26)
  /-- R96: Jumps PC-relative and writes the link. -/
  | jal (d : Field) (i : BitVec 26)
  /-- R97: Jumps to the address in a register. -/
  | jr (a : Field)
  /-- R97: Jumps to the address in a register and writes the link. -/
  | jalr (d : Field) (a : Field)
  /-- R98: Performs a bounded jump through a table of 32-bit offsets read by a waited load. -/
  | jtab (d : Field) (a : Field) (b : Field)
  /-- R95: Decrements the counter and branches while it is non-zero. -/
  | loop (d : Field) (i : BitVec 26)
  /-- R99: Stops issue on the whole core until the debug module resumes it. -/
  | halt
  /-- R100: Takes BRK, or halts the cluster under DCTL.BRKH. -/
  | brk (code : BitVec 10)
  /-- R122: Performs an FP32 add with one rounding. -/
  | fadd (d : Field) (a : Field) (b : Field) (m : BitVec 3)
  /-- R122: Performs an FP32 subtract. -/
  | fsub (d : Field) (a : Field) (b : Field) (m : BitVec 3)
  /-- R122: Performs an FP32 multiply. -/
  | fmul (d : Field) (a : Field) (b : Field) (m : BitVec 3)
  /-- R122: Performs a fused multiply-add. -/
  | fma (d : Field) (a : Field) (b : Field) (c : Field) (m : BitVec 3)
  /-- R122: Performs a fused negated multiply-add. -/
  | fnma (d : Field) (a : Field) (b : Field) (c : Field) (m : BitVec 3)
  /-- R122: Performs an FP32 divide. -/
  | fdiv (d : Field) (a : Field) (b : Field) (m : BitVec 3)
  /-- R122: Performs an FP32 square root. -/
  | fsqrt (d : Field) (a : Field) (m : BitVec 3)
  /-- R123: Writes the lesser FP32 operand. -/
  | fmin (d : Field) (a : Field) (b : Field)
  /-- R123: Writes the greater FP32 operand. -/
  | fmax (d : Field) (a : Field) (b : Field)
  /-- R123: Copies the sign of b. -/
  | fsgnCp (d : Field) (a : Field) (b : Field)
  /-- R123: Applies the negated sign of b. -/
  | fsgnNeg (d : Field) (a : Field) (b : Field)
  /-- R123: XORs the signs of a and b. -/
  | fsgnXor (d : Field) (a : Field) (b : Field)
  /-- R124: Compares two FP32 values under a condition. -/
  | fcmp (d : Field) (a : Field) (b : Field) (c : BitVec 3)
  /-- R125: Writes a one-hot class of a value in the named format. -/
  | fclass (d : Field) (a : Field) (f : BitVec 4)
  /-- R126: Converts one value between two formats. -/
  | fcvt (d : Field) (a : Field) (m : BitVec 3) (dst : BitVec 4) (src : BitVec 4)
  /-- R127: Copies a floating register. -/
  | fmovFF (d : Field) (a : Field)
  /-- R127: Copies a scalar register into a floating register. -/
  | fmovFG (d : Field) (a : Field)
  /-- R127: Copies a floating register into a scalar register. -/
  | fmovGF (d : Field) (a : Field)
  /-- R127: Writes a 64-bit immediate to a floating register. -/
  | fldi (d : Field) (i : BitVec 64)
  /-- R128: Converts with stochastic rounding using the random bits in gb. -/
  | fsr (d : Field) (a : Field) (b : Field) (dst : BitVec 4) (src : BitVec 4)
  /-- R128: Writes one random draw and advances SRCOUNT. -/
  | fsrDraw (d : Field)
  /-- R129: Builds an E8M0 scale byte from a block's largest magnitude. -/
  | fscl (d : Field) (a : Field) (byte : BitVec 3) (fmt : BitVec 4)
  /-- R136: Adds vector elements, with optional saturation. -/
  | vadd (v : VArgs) (sat : BitVec 2)
  /-- R136: Subtracts vector elements, with optional saturation. -/
  | vsub (v : VArgs) (sat : BitVec 2)
  /-- R136: Writes the low bits of the element products. -/
  | vmul (v : VArgs)
  /-- R136: Writes the high bits of the signed element products. -/
  | vmulh (v : VArgs)
  /-- R136: Writes the high bits of the unsigned element products. -/
  | vmulhU (v : VArgs)
  /-- R136: Multiplies elements and accumulates into vd. -/
  | vmacc (v : VArgs) (sat : BitVec 2)
  /-- R136: Writes the element minima. -/
  | vmin (v : VArgs) (u : Bool)
  /-- R136: Writes the element maxima. -/
  | vmax (v : VArgs) (u : Bool)
  /-- R136: Writes the element absolute values. -/
  | vabs (v : VArgs2) (sat : Bool)
  /-- R136: Writes the element AND. -/
  | vand (v : VArgs)
  /-- R136: Writes the element OR. -/
  | vor (v : VArgs)
  /-- R136: Writes the element XOR. -/
  | vxor (v : VArgs)
  /-- R136: Writes the element AND NOT. -/
  | vandn (v : VArgs)
  /-- R136: Shifts elements left. -/
  | vshl (v : VArgs)
  /-- R136: Shifts elements right logically. -/
  | vshr (v : VArgs)
  /-- R136: Shifts elements right arithmetically. -/
  | vsra (v : VArgs)
  /-- R137: Performs a rounding right shift with a clamp, for requantisation. -/
  | vrshr (v : VArgs) (range : BitVec 2) (ev : Bool)
  /-- R138: Accumulates short dot products into each element. -/
  | vdot (v : VArgs3) (f : BitVec 6)
  /-- R139: Compares elements and writes a mask. -/
  | vcmp (v : VArgs) (fp : Bool) (c : BitVec 4)
  /-- R140: Selects elements by a mask. -/
  | vsel (d : Field) (a : Field) (b : Field) (k : BitVec 3) (w : BitVec 2)
  /-- R140: Broadcasts a scalar or floating value to the elements. -/
  | vsplat (v : VArgs2) (fp : Bool)
  /-- R140: Copies the active elements. -/
  | vmov (v : VArgs2)
  /-- R140: Extracts one element into a scalar register. -/
  | vmovX (d : Field) (a : Field) (c : Field) (sx : Bool) (w : BitVec 2)
  /-- R140: Inserts a scalar value into one element. -/
  | vmovI (d : Field) (a : Field) (c : Field) (w : BitVec 2)
  /-- R141: Permutes elements by index. -/
  | vperm (v : VArgs3)
  /-- R141: Permutes elements from two sources by index. -/
  | vperm2 (v : VArgs3) (c : Field)
  /-- R141: Slides the concatenated sources down. -/
  | vslideDn (v : VArgs3) (c : Field)
  /-- R141: Slides the concatenated sources up. -/
  | vslideUp (v : VArgs3) (c : Field)
  /-- R141: Interleaves the low halves. -/
  | vzipLo (v : VArgs3)
  /-- R141: Interleaves the high halves. -/
  | vzipHi (v : VArgs3)
  /-- R141: Takes the even elements of the pair. -/
  | vunzipEv (v : VArgs3)
  /-- R141: Takes the odd elements of the pair. -/
  | vunzipOd (v : VArgs3)
  /-- R142: Sums the active elements, in integer or a fixed floating tree. -/
  | vredadd (d : Field) (a : Field) (k : BitVec 3) (w : BitVec 2) (u : Bool) (fp : Bool)
  /-- R142: Reduces the active elements to their minimum. -/
  | vredmin (d : Field) (a : Field) (k : BitVec 3) (w : BitVec 2) (u : Bool) (fp : Bool)
  /-- R142: Reduces the active elements to their maximum. -/
  | vredmax (d : Field) (a : Field) (k : BitVec 3) (w : BitVec 2) (u : Bool) (fp : Bool)
  /-- R143: Adds floating elements. -/
  | vfadd (v : VArgs) (m : BitVec 3)
  /-- R143: Subtracts floating elements. -/
  | vfsub (v : VArgs) (m : BitVec 3)
  /-- R143: Multiplies floating elements. -/
  | vfmul (v : VArgs) (m : BitVec 3)
  /-- R143: Performs a fused multiply-add on floating elements. -/
  | vfma (v : VArgs) (c : Field) (m : BitVec 3)
  /-- R143: Performs a fused negated multiply-add on floating elements. -/
  | vfnma (v : VArgs) (c : Field) (m : BitVec 3)
  /-- R143: Writes the floating element minima. -/
  | vfmin (v : VArgs)
  /-- R143: Writes the floating element maxima. -/
  | vfmax (v : VArgs)
  /-- R144: Converts elements between formats, by part. -/
  | vcvt (d : Field) (a : Field) (k : BitVec 3) (z : Bool) (m : BitVec 3) (p : BitVec 3) (dst : BitVec 4) (src : BitVec 4)
  /-- R145: Narrows two integer vectors into one. -/
  | vpack (v : VArgs3) (sat : BitVec 2)
  /-- R145: Widens half of an integer vector. -/
  | vunpack (v : VArgs2) (sx : Bool) (hi : Bool)
  /-- R146: ANDs two masks. -/
  | kopAnd (d : Field) (a : Field) (b : Field)
  /-- R146: ORs two masks. -/
  | kopOr (d : Field) (a : Field) (b : Field)
  /-- R146: XORs two masks. -/
  | kopXor (d : Field) (a : Field) (b : Field)
  /-- R146: Writes ka AND NOT kb. -/
  | kopAndn (d : Field) (a : Field) (b : Field)
  /-- R146: Inverts a mask. -/
  | kopNot (d : Field) (a : Field)
  /-- R146: Writes a scalar register to a mask. -/
  | kopFromg (d : Field) (a : Field)
  /-- R146: Writes a mask to a scalar register. -/
  | kopTog (d : Field) (a : Field)
  /-- R146: Sets the low ga bits of a mask. -/
  | kopLo (d : Field) (a : Field)
  /-- R146: Counts the ones of a mask within the view. -/
  | kpop (d : Field) (a : Field) (w : BitVec 2)
  /-- R146: Writes the index of the lowest one of a mask. -/
  | kfirst (d : Field) (a : Field) (w : BitVec 2)
  /-- R147: Loads a contiguous vector, element by element, faulting precisely at the first bad element. -/
  | vld (d : Field) (a : Field) (k : BitVec 3) (w : BitVec 2) (disp : BitVec 21)
  /-- R147: Stores a contiguous vector in one message per sector. -/
  | vst (d : Field) (a : Field) (k : BitVec 3) (w : BitVec 2) (disp : BitVec 21)
  /-- R147: Loads a strided vector. -/
  | vlds (d : Field) (a : Field) (b : Field) (k : BitVec 3) (w : BitVec 2)
  /-- R147: Gathers elements by vector indices. -/
  | vldx (d : Field) (a : Field) (b : Field) (sc : BitVec 2) (k : BitVec 3) (w : BitVec 2)
  /-- R147: Scatters elements by vector indices. -/
  | vstx (d : Field) (a : Field) (b : Field) (sc : BitVec 2) (k : BitVec 3) (w : BitVec 2)
  /-- R169: Performs a waited plain load of 1-8 bytes. -/
  | ld (d : Field) (a : Field) (sz : BitVec 2) (sx : Bool) (disp : BitVec 23)
  /-- R169: Performs a posted plain store in the ordered class. -/
  | st (d : Field) (a : Field) (sz : BitVec 2) (disp : BitVec 23)
  /-- R169: Performs a posted store in the adaptive class REQ-A. -/
  | stA (d : Field) (a : Field) (sz : BitVec 2) (disp : BitVec 23)
  /-- R170: Reads a word once its full-empty bit is full. -/
  | ldfe (d : Field) (a : Field) (disp : BitVec 23)
  /-- R170: Reads a word once it is full, and sets it empty. -/
  | ldfeE (d : Field) (a : Field) (disp : BitVec 23)
  /-- R170: Writes a word once it is empty, and sets it full. -/
  | stfe (d : Field) (a : Field) (disp : BitVec 23)
  /-- R170: Posts a request that sets a word's full-empty bit. -/
  | feset (a : Field)
  /-- R170: Posts a request that clears a word's full-empty bit. -/
  | feclr (a : Field)
  /-- R174: Performs an atomic add at the home. -/
  | amoAdd (d : Field) (a : Field) (b : Field) (sz : BitVec 2) (p : Bool)
  /-- R174: Performs an atomic AND at the home. -/
  | amoAnd (d : Field) (a : Field) (b : Field) (sz : BitVec 2) (p : Bool)
  /-- R174: Performs an atomic OR at the home. -/
  | amoOr (d : Field) (a : Field) (b : Field) (sz : BitVec 2) (p : Bool)
  /-- R174: Performs an atomic XOR at the home. -/
  | amoXor (d : Field) (a : Field) (b : Field) (sz : BitVec 2) (p : Bool)
  /-- R174: Performs an atomic swap at the home. -/
  | amoSwap (d : Field) (a : Field) (b : Field) (sz : BitVec 2) (p : Bool)
  /-- R174: Performs an atomic signed minimum at the home. -/
  | amoMin (d : Field) (a : Field) (b : Field) (sz : BitVec 2) (p : Bool)
  /-- R174: Performs an atomic signed maximum at the home. -/
  | amoMax (d : Field) (a : Field) (b : Field) (sz : BitVec 2) (p : Bool)
  /-- R174: Performs an atomic unsigned minimum at the home. -/
  | amoMinu (d : Field) (a : Field) (b : Field) (sz : BitVec 2) (p : Bool)
  /-- R174: Performs an atomic unsigned maximum at the home. -/
  | amoMaxu (d : Field) (a : Field) (b : Field) (sz : BitVec 2) (p : Bool)
  /-- R175: Performs an atomic floating add at the home. -/
  | amofAdd (d : Field) (a : Field) (b : Field) (fmt : BitVec 2) (p : Bool)
  /-- R175: Performs an atomic floating minimum at the home. -/
  | amofMin (d : Field) (a : Field) (b : Field) (fmt : BitVec 2) (p : Bool)
  /-- R175: Performs an atomic floating maximum at the home. -/
  | amofMax (d : Field) (a : Field) (b : Field) (fmt : BitVec 2) (p : Bool)
  /-- R176: Performs an atomic compare and swap at the home. -/
  | cas (d : Field) (a : Field) (b : Field) (c : Field) (sz : BitVec 2)
  /-- R171: Fills a data-cache line for an own-slice or sealed address. -/
  | prefC (a : Field) (disp : BitVec 23)
  /-- R171: Installs a translation in the data TLB. -/
  | prefT (a : Field) (disp : BitVec 23)
  /-- R171: Asks a memory core to bring a CXL unit into its sector buffer. -/
  | prefX (a : Field) (disp : BitVec 23)
  /-- R178: Translates the region, then seals its granules and page entries and removes writable translations in scope. -/
  | seal (a : Field) (b : Field) (s : BitVec 4)
  /-- R178: Clears the seal of a region and drops its replicas in scope. -/
  | unseal (a : Field) (b : Field) (s : BitVec 4)
  /-- R179: Reports whether a page is sealed, unsealed or changing. -/
  | sealq (d : Field) (a : Field)
  /-- R182: Gives a held scratchpad buffer to another core of the cluster. -/
  | hgive (a : Field) (b : Field)
  /-- R182: Reports whether the core holds a buffer. -/
  | htake (d : Field) (a : Field)
  /-- R182: A given handle arrives, and the target core holds the buffer from then on. -/
  | handleArrival (buf : BitVec 10) (core : BitVec 4)
  /-- R181: Loads from a held scratchpad buffer. -/
  | spld (d : Field) (a : Field) (sz : BitVec 2) (sx : Bool) (disp : BitVec 23)
  /-- R181: Stores to a held scratchpad buffer. -/
  | spst (d : Field) (a : Field) (sz : BitVec 2) (disp : BitVec 23)
  /-- R172: Writes the effective address. -/
  | lea (d : Field) (a : Field) (disp : BitVec 23)
  /-- R172: Writes the global address translated for a load. -/
  | leaG (d : Field) (a : Field) (disp : BitVec 23)
  /-- R172: Writes the global address translated for a store. -/
  | leaGs (d : Field) (a : Field) (disp : BitVec 23)
  /-- R195: Holds back later reads to homes in scope. -/
  | fenceLd (s : BitVec 4)
  /-- R195: Waits until earlier stores to homes in scope are acknowledged. -/
  | fenceSt (s : BitVec 4)
  /-- R195: Waits for earlier stores in scope and holds back later reads. -/
  | fence (s : BitVec 4)
  /-- R195: Waits also for every engine command of the context to complete. -/
  | fenceEng (s : BitVec 4)
  /-- R203: Fences, then arrives at the barrier of the scope and blocks until the release. -/
  | bar (s : BitVec 4)
  /-- R204: Runs a barrier that returns the wrapping sum of the contributed values. -/
  | barvAdd (d : Field) (a : Field) (s : BitVec 4)
  /-- R204: Runs a barrier that returns the signed minimum. -/
  | barvMin (d : Field) (a : Field) (s : BitVec 4)
  /-- R204: Runs a barrier that returns the signed maximum. -/
  | barvMax (d : Field) (a : Field) (s : BitVec 4)
  /-- R204: Runs a barrier that returns the unsigned minimum. -/
  | barvMinu (d : Field) (a : Field) (s : BitVec 4)
  /-- R204: Runs a barrier that returns the unsigned maximum. -/
  | barvMaxu (d : Field) (a : Field) (s : BitVec 4)
  /-- R204: Runs a barrier that returns the AND of the values. -/
  | barvAnd (d : Field) (a : Field) (s : BitVec 4)
  /-- R204: Runs a barrier that returns the OR of the values. -/
  | barvOr (d : Field) (a : Field) (s : BitVec 4)
  /-- R204: Runs a barrier that returns the XOR of the values. -/
  | barvXor (d : Field) (a : Field) (s : BitVec 4)
  /-- R202: A core's arrival signal reaches the scope's network, which counts it toward the episode. -/
  | barrierArrival (scope : BitVec 4) (core : BitVec 29) (vals : List (RedOp × Word))
  /-- R202: The episode's release reaches a member core, unblocking its contexts and returning any reduction. -/
  | barrierRelease (scope : BitVec 4)
  /-- R209: Fences stores, then has every core in scope discard fetched lines of a range and waits for the acknowledgements. -/
  | icinv (a : Field) (b : Field) (s : BitVec 4)
  /-- R209: An invalidation reaches a core, which discards its fetched lines of the range and acknowledges. -/
  | icinvDiscard (base len : Word)
  /-- R210: Waits for every earlier access and engine command of the context to complete. -/
  | dsync
  /-- R211: Waits for stores and tlbinv, then refetches under the current tables. -/
  | tsync
  /-- R303: Makes the context a member of a collective group. -/
  | cjoin (d : Field) (a : Field) (b : Field) (s : BitVec 4)
  /-- R304: Leaves the group by a departure, or tidies up a broken group. -/
  | cleave (d : Field)
  /-- R305: Votes on the any-predicate and runs ahead on the hinted path. -/
  | cbrAny (d : Field) (hint : Bool) (i : BitVec 26)
  /-- R305: Votes on the all-predicate and runs ahead on the hinted path. -/
  | cbrAll (d : Field) (hint : Bool) (i : BitVec 26)
  /-- R306: Takes part in a reduction by wrapping sum and blocks for the result. -/
  | credAdd (d : Field) (a : Field)
  /-- R306: Takes part in a signed-minimum reduction. -/
  | credMin (d : Field) (a : Field)
  /-- R306: Takes part in a signed-maximum reduction. -/
  | credMax (d : Field) (a : Field)
  /-- R306: Takes part in an unsigned-minimum reduction. -/
  | credMinu (d : Field) (a : Field)
  /-- R306: Takes part in an unsigned-maximum reduction. -/
  | credMaxu (d : Field) (a : Field)
  /-- R307: Writes CGRP. -/
  | cstatGrp (d : Field)
  /-- R307: Writes CSEQ. -/
  | cstatSeq (d : Field)
  /-- R307: Writes the speculation status word. -/
  | cstatSpec (d : Field)
  /-- R300: A vote, value or departure reaches the group's network, which resolves the episode or breaks the group. -/
  | collectiveArrival (gid : BitVec 12) (scope : BitVec 4) (seq : BitVec 16) (count : BitVec 33) (vote : Vote)
  /-- R305: The result reaches a member, releasing its held stores or squashing it to the checkpoint. -/
  | collectiveResult (gid : BitVec 12) (scope : BitVec 4)
  /-- R313: A member's wait passes CTIMEO and the group times out. -/
  | cbtimeo (gid : BitVec 12) (scope : BitVec 4)
  /-- R313: A break notice reaches a core, which sets BRK and traps the affected members. -/
  | cbbroken (gid : BitVec 12) (scope : BitVec 4) (reason : BitVec 4) (info : BitVec 29)
  /-- R219: Queues a load of a tile from the scratchpad by rows or columns. -/
  | tld (d : Field) (c1 : BitVec 12) (c0 : BitVec 12) (lt : BitVec 6) (dir : Bool) (y : Sync)
  /-- R219: Queues a store of a tile to the scratchpad. -/
  | tst (d : Field) (c1 : BitVec 12) (c0 : BitVec 12) (lt : BitVec 6) (dir : Bool) (y : Sync)
  /-- R220: Queues a zeroing of a tile. -/
  | tzero (d : Field) (y : Sync)
  /-- R220: Queues a zeroing of an accumulator. -/
  | mzero (d : Field) (y : Sync)
  /-- R223: Queues a BF16 multiply into an FA48 accumulator. -/
  | mmaBf16 (m : MmaArgs) (y : Sync)
  /-- R223: Queues an FP16 multiply. -/
  | mmaF16 (m : MmaArgs) (y : Sync)
  /-- R223: Queues an E4M3 multiply with optional block scales. -/
  | mmaE4m3 (m : MmaArgs) (y : Sync)
  /-- R223: Queues an E5M2 by E4M3 multiply. -/
  | mmaE5e4 (m : MmaArgs) (y : Sync)
  /-- R223: Queues an E4M3 by E5M2 multiply. -/
  | mmaE4e5 (m : MmaArgs) (y : Sync)
  /-- R223: Queues an INT8 multiply into an INT48 accumulator. -/
  | mmaI8 (m : MmaArgs) (y : Sync)
  /-- R223: Queues a UINT8 by INT8 multiply. -/
  | mmaUi8i8 (m : MmaArgs) (y : Sync)
  /-- R223: Queues an E2M1 multiply. -/
  | mmaE2m1 (m : MmaArgs) (y : Sync)
  /-- R223: Queues a TW8 by INT8 multiply in units of 2^-6. -/
  | mmaTw8i8 (m : MmaArgs) (y : Sync)
  /-- R223: Queues a TW8 by E4M3 multiply. -/
  | mmaTw8e4 (m : MmaArgs) (y : Sync)
  /-- R223: Queues a TW8 by BF16 multiply over two B tiles. -/
  | mmaTw8bf (m : MmaArgs) (y : Sync)
  /-- R224: Queues a streaming multiply that reads B from the scratchpad and writes the converted columns back. -/
  | mmaStream (op : BitVec 8) (m : MmaArgs) (y : Sync)
  /-- R227: Waits on its semaphore, then reads out an accumulator row or column into a vector register, trapping ACCBUSY while it is owned. -/
  | mrd (m : MrdArgs) (y : Sync)
  /-- R228: Queues a read-out of an accumulator to the scratchpad. -/
  | mst (d : Field) (fmt : BitVec 4) (rm : BitVec 3) (lt : BitVec 6) (dir : Bool) (rpt : Bool) (y : Sync)
  /-- R228: Queues a raw restore of an accumulator from the scratchpad. -/
  | mstIn (d : Field) (fmt : BitVec 4) (rm : BitVec 3) (lt : BitVec 6) (dir : Bool) (rpt : Bool) (y : Sync)
  /-- R229: Blocks until every command in the matrix queue at issue has completed. -/
  | mwait
  /-- R229: Blocks until an accumulator is no longer owned by an earlier command. -/
  | mwaitAcc (a : Field)
  /-- R229: Writes an accumulator's ownership and flags. -/
  | mstat (d : Field) (a : Field)
  /-- R229: Writes an accumulator's status and clears its flags. -/
  | mstatC (d : Field) (a : Field)
  /-- R231: Sends a matrix command to another core's queue under a capability. -/
  | mcmd (d : Field) (a : Field) (b : Field) (c : Field) (r : BitVec 6) (x : BitVec 8)
  /-- R231: Sets the capability expected of remote commands. -/
  | mcap (a : Field)
  /-- R231: A remote matrix command arrives, is checked and accepted when its queue has room, and its sequence number is returned. -/
  | mcmdAtTarget (x : BitVec 8) (r : Field) (tail : Word) (cap : BitVec 32) (sender : BitVec 29) (note : Option (BitVec 8)) (req : Option Nat)
  /-- R216: A matrix command at the queue head starts once its wait is met and no earlier command it depends on is unfinished. -/
  | matrixCommandStart (id : Nat)
  /-- R235: At each 4-cycle step boundary, the Bellows grants starts and stops by the ramp tables and orders filler. -/
  | bellowsBoundary (active requestsBelow stopsBelow : Nat)
  /-- R216: A matrix command completes, signals and pushes its status record. -/
  | matrixCommandComplete (id : Nat)
  /-- R248: Queues a box copy between layout entries. -/
  | cpy (slt : BitVec 6) (dlt : BitVec 6) (rank : BitVec 4) (res : Bool) (rpt : Bool) (y : Sync)
  /-- R248: Queues a box copy whose writes are indivisible reductions at the home. -/
  | cpyr (slt : BitVec 6) (dlt : BitVec 6) (rank : BitVec 4) (res : Bool) (op : BitVec 3) (fmt : BitVec 4) (rpt : Bool) (y : Sync)
  /-- R249: Queues a gather by index list into a layout entry. -/
  | gath (slt : BitVec 6) (ilt : BitVec 6) (dlt : BitVec 6) (res : Bool) (rpt : Bool) (y : Sync)
  /-- R249: Queues a gather that pushes the elements to q5. -/
  | gathQ (slt : BitVec 6) (ilt : BitVec 6) (res : Bool) (rpt : Bool) (y : Sync)
  /-- R250: Queues a compaction by mask. -/
  | pack (slt : BitVec 6) (mlt : BitVec 6) (dlt : BitVec 6) (rpt : Bool) (y : Sync)
  /-- R252: Queues a copy command that takes a KICK notice and reads its bytes remotely. -/
  | pull (c1 : BitVec 12) (c0 : BitVec 12) (lt : BitVec 6) (rpt : Bool) (y : Sync)
  /-- R251: Posts a transfer notice to a receiver after the source's stores are acknowledged. -/
  | kick (d : Field) (a : Field) (b : Field) (c : Field)
  /-- R251: A transfer notice reaches the receiver, which queues it or refuses it when full. -/
  | kickNoticeArrival (n : Notice) (req : Option Nat)
  /-- R252: A pull acknowledgement reaches the sender and adds 1 to its semaphore. -/
  | pullAckArrival (sem : BitVec 8)
  /-- R245: A copy or gather command starts after its predecessor completes and its wait is met, failing on a buffer not held. -/
  | engineCommandStart (gather : Bool)
  /-- R237: A copy or gather command completes when its writes are performed, pushing its record and giving its signal. -/
  | engineCommandComplete (gather : Bool)
  /-- R253: Makes later commands of the masked queues wait for the commands present at issue. -/
  | qfence (m : BitVec 4)
  /-- R255: Adds to a semaphore, saturating at 65535. -/
  | sinc (s : BitVec 8) (n : BitVec 16)
  /-- R255: Blocks until a semaphore reaches n, then subtracts n. -/
  | swait (s : BitVec 8) (n : BitVec 16)
  /-- R255: Subtracts and writes 1 when the semaphore covers n, and writes 0 otherwise. -/
  | swaitNb (d : Field) (s : BitVec 8) (n : BitVec 16)
  /-- R255: Reads a semaphore. -/
  | sget (d : Field) (s : BitVec 8)
  /-- R255: Sets a semaphore to an immediate. -/
  | sset (s : BitVec 8) (n : BitVec 16)
  /-- R255: Sets a semaphore to ga[15:0]. -/
  | ssetReg (a : Field) (s : BitVec 8)
  /-- R244: Loads and checks a layout-table entry image from memory. -/
  | lyt (a : Field) (lt : BitVec 6)
  /-- R244: Reads one doubleword of a layout entry. -/
  | lytq (d : Field) (lt : BitVec 6) (w : BitVec 4)
  /-- R278: Queues the creation of a resident object. -/
  | onew (d : Field) (b : BitVec 6) (c : BitVec 6) (rpt : Bool) (y : Sync)
  /-- R278: At the target, writes the record and marks the directory entry live, or reports it busy. -/
  | onewAtTarget (index : BitVec 12) (off : BitVec 24) (cfg : Word) (sender : BitVec 29) (req : Option Nat)
  /-- R279: Queues the deletion of an object. -/
  | odel (d : Field) (rpt : Bool) (y : Sync)
  /-- R279: At the target, bumps GEN, dequeues the object and sends retractions from its fan-out list. -/
  | odelAtTarget (index : BitVec 12) (sender : BitVec 29) (req : Option Nat)
  /-- R283: Writes a neuron's leak. -/
  | ocfgLeak (a : Field) (b : Field)
  /-- R283: Writes a neuron's threshold. -/
  | ocfgTheta (a : Field) (b : Field)
  /-- R283: Writes an object's user word. -/
  | ocfgUser (a : Field) (b : Field)
  /-- R283: Writes an object's handler type. -/
  | ocfgType (a : Field) (b : Field)
  /-- R284: Reads an object's state block into vector registers. -/
  | oget (d : Field) (a : Field)
  /-- R284: Reads an object's REF block. -/
  | ogetRef (d : Field) (a : Field)
  /-- R284: Reads an object's shadow block. -/
  | ogetSh (d : Field) (a : Field)
  /-- R284: Reads one state word. -/
  | ogetW (d : Field) (a : Field) (w : BitVec 5)
  /-- R284: Reads one header doubleword. -/
  | ogetHd (d : Field) (a : Field) (n : BitVec 3)
  /-- R284: Writes an object's state and recomputes its residual. -/
  | oput (d : Field) (a : Field)
  /-- R284: Writes one state word and recomputes the residual. -/
  | oputW (d : Field) (a : Field) (w : BitVec 5)
  /-- R285: Reads a slot into vector registers. -/
  | eslot (d : Field) (a : Field) (b : Field)
  /-- R285: Reads a slot tag. -/
  | eslotTag (d : Field) (a : Field) (b : Field)
  /-- R285: Subtracts a slot from the state, zeroes it and frees its tag. -/
  | eslotFree (a : Field) (b : Field)
  /-- R280: Queues one event with a single payload word. -/
  | esend (d : Field) (b : BitVec 6) (c : BitVec 6) (y : Sync)
  /-- R280: Queues one event with up to 28 payload words. -/
  | esendv (d : Field) (b : BitVec 6) (c : BitVec 6) (n : BitVec 5) (y : Sync)
  /-- R286: Blends a computed message with its predecessor by beta. -/
  | edamp (d : Field) (a : Field) (b : Field) (c : Field) (fc : Bool) (z : Bool) (k : BitVec 3)
  /-- R281: Queues the setting of an object's fan-out list. -/
  | efan (d : Field) (b : BitVec 6) (c : BitVec 6) (y : Sync)
  /-- R287: Advances NOW by ga. -/
  | etick (d : Field) (a : Field)
  /-- R287: Sets NOW unless that would move it back. -/
  | etickSet (d : Field) (a : Field)
  /-- R287: Reads NOW. -/
  | enow (d : Field)
  /-- R288: Opens a consistent cut at a future time. -/
  | esnap (d : Field) (a : Field) (b : Field)
  /-- R288: Closes the open cut. -/
  | esnapClose (d : Field)
  /-- R282: Queues a read of objects, current or at a cut, into q7. -/
  | esread (d : Field) (b : BitVec 6) (cut : BitVec 8) (cur : Bool) (y : Sync)
  /-- R282: At the target, reads each object indivisibly and returns its words to q7. -/
  | esreadAtTarget (first : BitVec 12) (count : Nat) (cut : BitVec 8) (cur : Bool) (sender : BitVec 29) (req : Option Nat)
  /-- R290: Reads the count of unsettled objects. -/
  | cvqUn (d : Field)
  /-- R290: Reads the largest residual. -/
  | cvqRes (d : Field)
  /-- R290: Reads LATE. -/
  | cvqLate (d : Field)
  /-- R290: Reads STALE. -/
  | cvqStale (d : Field)
  /-- R290: Reads DROP. -/
  | cvqDrop (d : Field)
  /-- R290: Reads the pending event count. -/
  | cvqPend (d : Field)
  /-- R290: Reads the count of events sent and accepted. -/
  | cvqSent (d : Field)
  /-- R290: Reads the count of events received. -/
  | cvqRecv (d : Field)
  /-- R290: Reads SNAPLATE. -/
  | cvqSlate (d : Field)
  /-- R290: Reads and clears LATE. -/
  | cvqLateC (d : Field)
  /-- R290: Reads and clears STALE. -/
  | cvqStaleC (d : Field)
  /-- R290: Reads and clears DROP. -/
  | cvqDropC (d : Field)
  /-- R290: Reads and clears SNAPLATE. -/
  | cvqSlateC (d : Field)
  /-- R291: Writes or invalidates a handler-table entry. -/
  | hnd (a : Field) (b : Field) (c : Field) (t : BitVec 6)
  /-- R293: Sets HOLD and writes the Drone state back to the slice. -/
  | ehold (d : Field)
  /-- R293: Clears HOLD and restores the residual queue. -/
  | eholdRel (d : Field)
  /-- R293: Reads HOLD. -/
  | eholdQ (d : Field)
  /-- R293: The write-back of the pending entries and residual queue ends, completing the ehold. -/
  | droneWritebackDone
  /-- R267: An event reaches the front end and is accepted into the pending store, marked late, or refused with RNR when full. -/
  | eventAccept (e : Ev) (req : Option Nat)
  /-- R261: Every RATE nominal cycles NOW advances, making events due. -/
  | nowAdvance
  /-- R269: A due event is delivered and integrated into its object, saving shadows and updating the residual. -/
  | eventDelivery
  /-- R274: The head of the residual queue starts a handler helper once a helper and granules are free. -/
  | handlerStart
  /-- R327: Arms a task record at its home with a predecessor count. -/
  | tnew (d : Field) (a : Field) (b : Field)
  /-- R327: At the home, checks the record, sets PRED, and appends it when ready. -/
  | tnewAtHome (r : ReqSel)
  /-- R328: Posts a predecessor decrement to a task record's home. -/
  | tdec (a : Field)
  /-- R328: A decrement arrives at the home, lowering PRED and appending the task at zero, or counting a drop. -/
  | taskDecrement (r : ReqSel)
  /-- R322: The head of the highest non-empty run list starts on a free helper with its granules. -/
  | runListStart
  /-- R329: Claims the oldest item of a work queue. -/
  | qclaim (d : Field) (a : Field)
  /-- R329: Publishes an item to a work queue. -/
  | qpub (d : Field) (a : Field) (b : Field)
  /-- R329: Steals the oldest item of a work queue. -/
  | qsteal (d : Field) (a : Field)
  /-- R329: Reads a queue's length. -/
  | qlen (d : Field) (a : Field)
  /-- R329: Reads a queue's claim count. -/
  | qlenClaims (d : Field) (a : Field)
  /-- R329: Reads a queue's steal count. -/
  | qlenSteals (d : Field) (a : Field)
  /-- R329: Reads a queue's failed-steal count. -/
  | qlenFail (d : Field) (a : Field)
  /-- R330: Empties a queue and sends a termination notice to every core of the package. -/
  | qreset (d : Field) (a : Field)
  /-- R330: Binds a queue slot from a descriptor. -/
  | qresetBind (d : Field) (a : Field) (b : Field)
  /-- R330: Writes a queue's state back to its descriptor and frees the slot. -/
  | qresetUnbind (d : Field) (a : Field)
  /-- R325: A queue operation reaches the cluster controller and is performed indivisibly in arrival order. -/
  | queueRequestAtController (r : QSel)
  /-- R330: A termination notice reaches a core, which terminates its helpers working on the queue. -/
  | terminationNotice (qid : BitVec 16)
  /-- R332: Writes FORECAST and returns the old value. -/
  | fcast (d : Field) (a : Field)
  /-- R332: Sets ITEMS from a queue's length. -/
  | fcastQ (d : Field) (a : Field)
  /-- R331: Completes the claimed item by stamping TDONE. -/
  | tstamp
  /-- R331: Reads PCYC. -/
  | tstampNow (d : Field)
  /-- R331: Reads QLAST. -/
  | tstampQ (d : Field)
  /-- R60: A channel entry lands at the neighbour three cycles after its write, releasing a blocked reader. -/
  | channelEntryArrival (ch : BitVec 3) (v : VWord)
  /-- R161: A request message reaches its home and is performed in arrival order, queued for full-empty, or refused with RNR. -/
  | requestAtHome (r : ReqSel)
  /-- R160: A reply, acknowledgement or error reply reaches the issuing core and frees its outstanding access. -/
  | replyArrival (id : Nat) (ext : Option ExtReply)
  /-- R164: The back-off wait after a refusal expires and the request is sent again, or takes REMTIMEO at the limit. -/
  | rnrRetry (id : Nat)
  /-- R420: An acceptance notice releases the requests held behind a refused one. -/
  | acceptanceNotice (id : Nat)
  /-- R183: A device read completes at a memory core, filling the sector buffer and answering the request. -/
  | cxlDeviceReadComplete (unit : Word)
  /-- R183: A unit's 4 us in the sector buffer runs out. -/
  | sectorBufferExpiry (unit : Word)
  /-- R256: A device-space store adds to a core's semaphore. -/
  | deviceSemaphoreAdd (sem : BitVec 8) (v : Word)
  /-- R386: A doorbell store writes HRES of context 0 and sets PHDB. -/
  | doorbell (v : Word)
  /-- R356: A walker finishes a page-table walk, installing the leaf, restarting on a changed SDSEQ, or trapping. -/
  | translationWalk (va : Word) (kind : Access)
  /-- R359: An invalidation reaches a core, which quiesces the matching entries, removes them and acknowledges. -/
  | tlbInvalidation (base len : Word) (all : Bool)
  /-- R362: A migration request reaches the memory core and the first copy round begins. -/
  | migrationRequest (m : MigReq) (req : Option Nat)
  /-- R362: A copy round ends, starting another round or the freeze. -/
  | migrationRoundEnd (page : Word)
  /-- R362: The last sectors are copied, the leaf is rewritten, the shoot-down is issued and the page is unfrozen. -/
  | migrationFinalCopy (page : Word)
  /-- R362: A forwarded access reaches the new home and is performed in order. -/
  | forwardedAccess (r : ReqSel)
  /-- R362: The shoot-down completes, the old frame is released and the semaphore is signalled. -/
  | migrationComplete (page : Word)
  /-- R344: The pre-emption interrupt reaches context 0 of each core. -/
  | preemptInterrupt
  /-- R345: PCYC reaches DTIME.AT, setting PDLY and clearing AT. -/
  | delayedExpiry (ctx : Nat)
  /-- R363: A context being saved has all its replies in and reaches its quiet point. -/
  | quietPointReached (ctx : Nat)
  /-- R369: Once all 16 cores have acknowledged, the controller copies the slices and scratchpads to DUMPADDR. -/
  | clusterDump
  /-- R382: An uncorrectable fault resets a cluster, closing its boundary and returning its state to reset values. -/
  | clusterReset (cluster : BitVec 7) (pkg : BitVec 18)
  /-- R382: The management core reopens the cluster and starts its control contexts at RECOVER. -/
  | boundaryReopen (cluster : BitVec 7)
  /-- R399: Package reset clears state, verifies firmware, and sets the security state and the locked debug state. -/
  | packageReset
  /-- R375: A flit received in error is sent again from the replay buffer. -/
  | flitReplay (link : BitVec 3)
  /-- R375: After 16 failed replays the link retrains, or is declared failed. -/
  | linkRetrain (link : BitVec 3) (ok : Bool)
  /-- R376: A failed package or link triggers detour installation by the management cores. -/
  | linkFailure (pkg : BitVec 18) (link : Option (BitVec 3)) (unreachable : List (BitVec 18))
  /-- R377: A failure announcement reaches a core, marking remote accesses in doubt and breaking episodes and groups. -/
  | failureAnnouncement (pkg : BitVec 18)
  /-- R377: 20 us after an announcement, the in-doubt accesses still unanswered take RMTDEAD. -/
  | inDoubtTimeout (pkg : BitVec 18)
  /-- R384: A host read reaches its service core and is performed after earlier writes are acknowledged. -/
  | hostRead (seq : BitVec 16) (ga : Word) (len : Nat)
  /-- R385: A host write is performed sector by sector, with an error transaction on failure. -/
  | hostWrite (seq : BitVec 16) (ga : Word) (data : List Byte)
  /-- R388: A launch transaction has each management core set up the cores and start the control contexts at ENTRY. -/
  | hostLaunch (rec : Word)
  /-- R389: A resync transaction has the management core write the RESYNC summary. -/
  | hostResync (addr : Word)
  /-- R351: A host answer writes HRES of the named context and wakes it, unless its GEN is stale. -/
  | hcallAnswer (core : BitVec 29) (ctx : BitVec 4) (gen : BitVec 8) (ticket : BitVec 16) (value : BitVec 48)
  /-- R390: Reads a debug-module register through the management port. -/
  | dbgrd (cluster : BitVec 7) (reg : DbgReg)
  /-- R390: Writes a debug-module register that has no row of its own. -/
  | dbgwr (cluster : BitVec 7) (reg : DbgReg) (v : Word)
  /-- R392: Halts the cluster's cores and freezes its engines. -/
  | dctlHalt (cluster : BitVec 7)
  /-- R393: Resumes the halted cores allowed by the debug state. -/
  | dctlResume (cluster : BitVec 7)
  /-- R393: Issues one instruction of the named context, then halts its core again. -/
  | dctlStep (cluster : BitVec 7)
  /-- R390: Reads a halted context's image. -/
  | ctxrd (core : BitVec 11) (ctx : BitVec 4) (off : BitVec 12)
  /-- R390: Writes a halted context's image. -/
  | ctxwr (core : BitVec 11) (ctx : BitVec 4) (off : BitVec 12) (v : Word)
  /-- R390: Performs a plain read at the home. -/
  | memrd (ga : Word) (len : Nat)
  /-- R390: Performs a plain write at the home. -/
  | memwr (ga : Word) (data : List Byte)
  /-- R395: Writes a code line and invalidates it in scope, refusing sealed pages. -/
  | patch (cluster : BitVec 7) (va : Word) (line : List Byte) (scope : BitVec 4)
  /-- R396: Opens or closes a trace session on one context incarnation. -/
  | trace (t : TraceCmd)
  /-- R396: A sample period expires and a sample record is written. -/
  | traceSample (ctx : Nat)
  /-- R390: Returns a fresh nonce from the root-of-trust core. -/
  | chal
  /-- R400: Verifies a signed token and unlocks the owner or vendor debug state. -/
  | unlock (token : List Byte)
  /-- R400: Returns the debug state to locked. -/
  | relock
  /-- R402: Returns a report signed with the device identity key. -/
  | attest (nonce : List Byte)
  /-- R405: Sets the package power limit. -/
  | pwrlim (watts : Nat)
  /-- R407: Returns the lifetime counter block. -/
  | life
  /-- R403: Every 4 us, the manager reads every FORECAST and sets the cluster headroom. -/
  | powerManagerTick
  /-- R405: Measured power over PWRLIM in 10 us caps every Bellows allowance at one. -/
  | powerCap
  /-- R405: After 100 us below 95 % of PWRLIM, the cap is lifted. -/
  | powerCapLift
  /-- R398: A mesh router power-gates after 256 idle cycles. -/
  | routerPowerGate (router : BitVec 7)
  /-- R398: A gated router is woken ahead of a message header. -/
  | routerWake (router : BitVec 7)
  /-- R398: The management core powers a cluster off into PS2. -/
  | clusterPowerOff (cluster : BitVec 7)
  /-- R398: A cluster leaves PS2 with its reset values after 50 us. -/
  | clusterPowerOn (cluster : BitVec 7)
  /-- R398: The package enters PS3, which relocks debug. -/
  | packageSleep
  /-- R398: A Brouno or management-port transaction wakes the package from PS3. -/
  | packageWake
  /-- R407: The powered and binned hours are written every hour. -/
  | lifetimeHoursWrite
  /-- R407: The other lifetime counters are written every 10 minutes and at power-down. -/
  | lifetimeCounterWrite
  /-- R43: Issue of the guard opcode or of an unassigned opcode takes ILLOP precisely. -/
  | illop (op : BitVec 8)
  /-- R237: An event-queue command at the head of its queue starts once its wait is met and begins sending its events or target work. -/
  | eventQueueCommandStart
  /-- R277: An event-queue command completes when every event it sent is accepted, or its target work is done, and gives its signal. -/
  | eventQueueCommandComplete
  /-- R379: A far end returns a unit of a class's allowance when a flit leaves its input buffer, letting waiting flits or multicast copies go. -/
  | allowanceReturn (port : BitVec 3) (cls : BitVec 3)
  /-- R384: The host acknowledges, or returns data for, a device-to-host read or write at the service core. -/
  | hostAcknowledgement (id : Nat) (data : Word)
  /-- R369: The management core copies the dumped slices and scratchpads back and starts each control context at the RESUME entry. -/
  | jobRestore
  /-- R389: The launch state becomes 5, ended, which allows PS2 and PS3 entry. -/
  | jobEnded
  /-- R28: The scrubber visits a word of a home slice or scratchpad, corrects and counts a single-bit error, or poisons a double-bit one. -/
  | scrub (scratch : Bool) (ga : Word) (bits : Nat)
  /-- R185: The host's fabric manager assigns a pool region to an owning package, changing the memory cores' records. -/
  | poolRegionAssignment (port : BitVec 4) (base size : Nat) (owner : BitVec 18)
  /-- R399: In the recovery state, a new firmware image is written to the boot flash through the management port. -/
  | bootFlashImageWrite (image : BitVec 2) (data : List Byte)
  /-- R400: A Hentik-signed ownership record sets the owner key held by the root-of-trust core. -/
  | ownershipRecord (record : List Byte)
  /-- R407: The package loses power without an orderly power-down, losing up to 10 minutes of lifetime counts. -/
  | lossOfPower
  deriving DecidableEq, Repr

end Sys2Proof
end

