-- ==== Sys2Proof/WellFormed.lean ====
section
/-!
DEFINITION. Which operand values of a row are reserved (R43): the fields a row reserves in some of its forms, and the
field values its chapter marks reserved.
-/

namespace Sys2Proof

/-- Why a term is no legal instruction: a non-zero reserved field, or a reserved field value (R43, R45). -/
inductive FormatFault where
  | field | value
  deriving DecidableEq, Repr

/-- The first of the listed checks that fails. -/
def firstFault : List (Bool × FormatFault) → Option FormatFault
  | [] => none
  | (bad, r) :: rest => if bad then some r else firstFault rest

/-- The wait and signal fields are zero where their enable bit is 0 (R37). -/
def Sync.wf (y : Sync) : Bool := (y.we || (y.ws == 0 && y.wt == 0)) && (y.se || (y.ss == 0 && y.sk == 0))

/-- The control register numbers that hold a register (R338). -/
def cregExists (n : Creg) : Bool :=
  let m := n.toNat
  m ≤ 0x012 || (0x040 ≤ m && m ≤ 0x068) || (0x100 ≤ m && m ≤ 0x112) || m == 0x140 || m == 0x141 || m == 0x180

/-- The control registers whose write is a row of its own. -/
def cregOwnRow (n : Creg) : Bool :=
  [0x000, 0x007, 0x010, 0x046, 0x049, 0x04D, 0x063, 0x068, 0x140, 0x141].contains n.toNat ||
    n.toNat / 8 == 0xA || n.toNat / 4 == 0x16

/-- Rounding mode codes 5 and 6 have no meaning (R111). -/
def modeReserved (m : BitVec 3) : Bool := m == 5 || m == 6

/-- The conversion codes 8 to 14, the integers (R110, R126). -/
def intCode (c : BitVec 4) : Bool := 8 ≤ c.toNat && c.toNat ≤ 14

/-- The width in bits of a format code (R110). -/
def codeWidth (c : BitVec 4) : Nat :=
  match c.toNat with
  | 0 => 32 | 1 => 16 | 2 => 16 | 3 => 8 | 4 => 8 | 5 => 4 | 6 => 8 | 7 => 8
  | 8 => 8 | 9 => 8 | 10 => 32 | 11 => 32 | 12 => 64 | 13 => 64 | 14 => 48 | _ => 48

/-- The parts of a `vcvt`: the ratio of the two widths (R144). -/
def vcvtParts (dst src : BitVec 4) : Nat :=
  max (codeWidth dst) (codeWidth src) / min (codeWidth dst) (codeWidth src)

/-- The pairs `vcvt` allows (R144). -/
def vcvtPair (dst src : BitVec 4) : Bool :=
  dst.toNat < 14 && src.toNat < 14 && dst != 6 && !(8 ≤ dst.toNat && 8 ≤ src.toNat)

/-- The targets of `fscl` (R129). -/
def scaleFormat (f : BitVec 4) : Bool := f == 3 || f == 4 || f == 5 || f == 7

/-- The read-out formats (R225). -/
def readoutFormat (f : BitVec 4) : Bool := f.toNat ≤ 4 || (8 ≤ f.toNat && f.toNat ≤ 10) || f == 12

/-- The parts of an `mrd` (R227): 64 elements over n. -/
def readoutParts (f : BitVec 4) : Nat := codeWidth f / 8

/-- The operation and format pairs of `cpyr` (R248). -/
def cpyrPair (op : BitVec 3) (fmt : BitVec 4) : Bool :=
  op.toNat ≤ 5 && (fmt.toNat ≤ 2 || (10 ≤ fmt.toNat && fmt.toNat ≤ 13)) && (op.toNat ≤ 2 || 10 ≤ fmt.toNat)

/-- The counts of `grow` and `shrink` are 8, 16, 24 or 32, or 0 too for vectors (R66's table). -/
def grantSize (n : BitVec 6) (least : Nat) : Bool :=
  n.toNat % 8 == 0 && least ≤ n.toNat && n.toNat ≤ 32

/-- The opcodes that the map assigns (R42): the columns of each row that hold an instruction. -/
def opcodeAssigned (op : BitVec 8) : Bool :=
  let c := op.toNat % 16
  match op.toNat / 16 with
  | 0x0 => 1 ≤ c && c ≤ 13
  | 0x1 => c ≤ 11
  | 0x2 => true
  | 0x3 => c ≤ 10
  | 0x4 => c ≤ 10
  | 0x5 => true
  | 0x6 => true
  | 0x7 => c ≤ 9
  | 0x8 => true
  | 0x9 => c ≤ 10
  | 0xA => true
  | 0xB => c ≤ 12
  | 0xC => true
  | 0xD => c ≤ 8
  | 0xE => c ≤ 4
  | _ => false

/-- The first reserved field or value of a term, in the order a reserved field, then a reserved value. -/
def Instr.illfmt : Instr → Option FormatFault
  | .rdc _ n => firstFault [(!cregExists n, .value)]
  | .wrc _ n => firstFault [(!cregExists n || cregOwnRow n, .value)]
  | .tlbinv _ _ s => firstFault [(s.toNat ≥ 10, .value)]
  | .tlbinvAll s => firstFault [(s.toNat ≥ 10, .value)]
  | .migr _ _ _ se x => firstFault [(!se && x != 0, .field)]
  | .start _ _ _ n v _ => firstFault [(n = 0 || n.toNat > 4 || v.toNat > 4, .value)]
  | .startNb _ _ _ n v _ => firstFault [(n = 0 || n.toNat > 4 || v.toNat > 4, .value)]
  | .startAt _ _ _ _ n v _ => firstFault [(n = 0 || n.toNat > 4 || v.toNat > 4, .value)]
  | .startAtNb _ _ _ _ n v _ => firstFault [(n = 0 || n.toNat > 4 || v.toNat > 4, .value)]
  | .grow _ n v => firstFault [(!grantSize n 1 || !grantSize v 0, .value)]
  | .growNb _ n v => firstFault [(!grantSize n 1 || !grantSize v 0, .value)]
  | .shrink n v => firstFault [(!grantSize n 1 || !grantSize v 0, .value)]
  | .bfx _ _ pos len => firstFault [(pos.toNat + len.toNat + 1 > 64, .value)]
  | .bfxS _ _ pos len => firstFault [(pos.toNat + len.toNat + 1 > 64, .value)]
  | .bfi _ _ pos len => firstFault [(pos.toNat + len.toNat + 1 > 64, .value)]
  | .cmp _ _ _ c => firstFault [(c.toNat ≥ 8, .value)]
  | .cmpi _ _ c _ => firstFault [(c.toNat ≥ 8, .value)]
  | .br _ _ c _ => firstFault [(c.toNat ≥ 8, .value)]
  | .fadd _ _ _ m => firstFault [(modeReserved m, .value)]
  | .fsub _ _ _ m => firstFault [(modeReserved m, .value)]
  | .fmul _ _ _ m => firstFault [(modeReserved m, .value)]
  | .fma _ _ _ _ m => firstFault [(modeReserved m, .value)]
  | .fnma _ _ _ _ m => firstFault [(modeReserved m, .value)]
  | .fdiv _ _ _ m => firstFault [(modeReserved m, .value)]
  | .fsqrt _ _ m => firstFault [(modeReserved m, .value)]
  | .fcmp _ _ _ c => firstFault [(c.toNat ≥ 5, .value)]
  | .fclass _ _ f => firstFault [(f.toNat ≥ 8 && f.toNat ≤ 14, .value)]
  | .fcvt _ _ m dst src => firstFault [(modeReserved m || dst = 6 || (intCode dst && intCode src), .value)]
  | .fsr _ _ _ dst src => firstFault [(dst = 6 || (intCode dst && intCode src), .value)]
  | .fscl _ _ _ fmt => firstFault [(!scaleFormat fmt, .value)]
  | .vadd _ sat => firstFault [(sat = 3, .value)]
  | .vsub _ sat => firstFault [(sat = 3, .value)]
  | .vmacc _ sat => firstFault [(sat = 3, .value)]
  | .vrshr v range _ => firstFault [(range = 3 && v.w = 0, .value)]
  | .vdot v f => firstFault [(f.toNat / 16 != 0, .field), (v.w = 0, .value), (!f.getLsbD 3 && f.toNat % 4 = 3, .value), (f.getLsbD 3 && (v.w != 2 || modeReserved (f.truncate 3)), .value)]
  | .vcmp v fp c => firstFault [(fp && c.getLsbD 3, .field), (!fp && c.toNat ≥ 8, .value), (fp && (v.w = 3 || (c.truncate 3).toNat ≥ 5), .value)]
  | .vredadd _ _ _ w u fp => firstFault [(fp && (u || w = 3), .value)]
  | .vredmin _ _ _ w u fp => firstFault [(fp && (u || w = 3), .value)]
  | .vredmax _ _ _ w u fp => firstFault [(fp && (u || w = 3), .value)]
  | .vfadd v m => firstFault [(v.w = 3 || modeReserved m, .value)]
  | .vfsub v m => firstFault [(v.w = 3 || modeReserved m, .value)]
  | .vfmul v m => firstFault [(v.w = 3 || modeReserved m, .value)]
  | .vfma v _ m => firstFault [(v.w = 3 || modeReserved m, .value)]
  | .vfnma v _ m => firstFault [(v.w = 3 || modeReserved m, .value)]
  | .vfmin v => firstFault [(v.w = 3, .value)]
  | .vfmax v => firstFault [(v.w = 3, .value)]
  | .vcvt _ _ _ _ m p dst src => firstFault [(modeReserved m || !vcvtPair dst src || p.toNat ≥ vcvtParts dst src, .value)]
  | .vpack v sat => firstFault [(v.w = 0 || sat = 3, .value)]
  | .vunpack v _ _ => firstFault [(v.w = 0, .value)]
  | .vldx _ _ _ _ _ w => firstFault [(w.toNat < 2, .value)]
  | .vstx _ _ _ _ _ w => firstFault [(w.toNat < 2, .value)]
  | .ld _ _ sz sx _ => firstFault [(sz = 3 && sx, .value)]
  | .amoAdd d _ _ sz p => firstFault [(p && d != 0, .field), (sz.toNat < 2, .value)]
  | .amoAnd d _ _ sz p => firstFault [(p && d != 0, .field), (sz.toNat < 2, .value)]
  | .amoOr d _ _ sz p => firstFault [(p && d != 0, .field), (sz.toNat < 2, .value)]
  | .amoXor d _ _ sz p => firstFault [(p && d != 0, .field), (sz.toNat < 2, .value)]
  | .amoSwap d _ _ sz p => firstFault [(p && d != 0, .field), (sz.toNat < 2, .value)]
  | .amoMin d _ _ sz p => firstFault [(p && d != 0, .field), (sz.toNat < 2, .value)]
  | .amoMax d _ _ sz p => firstFault [(p && d != 0, .field), (sz.toNat < 2, .value)]
  | .amoMinu d _ _ sz p => firstFault [(p && d != 0, .field), (sz.toNat < 2, .value)]
  | .amoMaxu d _ _ sz p => firstFault [(p && d != 0, .field), (sz.toNat < 2, .value)]
  | .amofAdd d _ _ fmt p => firstFault [(p && d != 0, .field), (fmt = 3, .value)]
  | .amofMin d _ _ fmt p => firstFault [(p && d != 0, .field), (fmt = 3, .value)]
  | .amofMax d _ _ fmt p => firstFault [(p && d != 0, .field), (fmt = 3, .value)]
  | .cas _ _ _ _ sz => firstFault [(sz.toNat < 2, .value)]
  | .seal _ _ s => firstFault [(s.toNat ≥ 10, .value)]
  | .unseal _ _ s => firstFault [(s.toNat ≥ 10, .value)]
  | .spld _ _ sz sx _ => firstFault [(sz = 3 && sx, .value)]
  | .fenceLd s => firstFault [(s.toNat ≥ 10, .value)]
  | .fenceSt s => firstFault [(s.toNat ≥ 10, .value)]
  | .fence s => firstFault [(s.toNat ≥ 10, .value)]
  | .fenceEng s => firstFault [(s.toNat ≥ 10, .value)]
  | .bar s => firstFault [(s.toNat ≥ 9, .value)]
  | .barvAdd _ _ s => firstFault [(s.toNat ≥ 9, .value)]
  | .barvMin _ _ s => firstFault [(s.toNat ≥ 9, .value)]
  | .barvMax _ _ s => firstFault [(s.toNat ≥ 9, .value)]
  | .barvMinu _ _ s => firstFault [(s.toNat ≥ 9, .value)]
  | .barvMaxu _ _ s => firstFault [(s.toNat ≥ 9, .value)]
  | .barvAnd _ _ s => firstFault [(s.toNat ≥ 9, .value)]
  | .barvOr _ _ s => firstFault [(s.toNat ≥ 9, .value)]
  | .barvXor _ _ s => firstFault [(s.toNat ≥ 9, .value)]
  | .icinv _ _ s => firstFault [(s.toNat ≥ 10, .value)]
  | .cjoin _ _ _ s => firstFault [(s = 0 || s.toNat ≥ 9, .value)]
  | .tld _ _ _ _ _ y => firstFault [(!y.wf, .field)]
  | .tst _ _ _ _ _ y => firstFault [(!y.wf, .field)]
  | .tzero _ y => firstFault [(!y.wf, .field)]
  | .mzero _ y => firstFault [(!y.wf, .field)]
  | .mmaBf16 m y => firstFault [(!y.wf, .field), (!m.sa && !m.sb && m.c != 0, .field), (m.mc = 3, .value)]
  | .mmaF16 m y => firstFault [(!y.wf, .field), (!m.sa && !m.sb && m.c != 0, .field), (m.mc = 3, .value)]
  | .mmaE4m3 m y => firstFault [(!y.wf, .field), (!m.sa && !m.sb && m.c != 0, .field), (m.mc = 3, .value)]
  | .mmaE5e4 m y => firstFault [(!y.wf, .field), (!m.sa && !m.sb && m.c != 0, .field), (m.mc = 3, .value)]
  | .mmaE4e5 m y => firstFault [(!y.wf, .field), (!m.sa && !m.sb && m.c != 0, .field), (m.mc = 3, .value)]
  | .mmaI8 m y => firstFault [(!y.wf, .field), (!m.sa && !m.sb && m.c != 0, .field), (m.mc = 3, .value)]
  | .mmaUi8i8 m y => firstFault [(!y.wf, .field), (!m.sa && !m.sb && m.c != 0, .field), (m.mc = 3, .value)]
  | .mmaE2m1 m y => firstFault [(!y.wf, .field), (!m.sa && !m.sb && m.c != 0, .field), (m.mc = 3, .value)]
  | .mmaTw8i8 m y => firstFault [(!y.wf, .field), (!m.sa && !m.sb && m.c != 0, .field), (m.mc = 3, .value)]
  | .mmaTw8e4 m y => firstFault [(!y.wf, .field), (!m.sa && !m.sb && m.c != 0, .field), (m.mc = 3, .value)]
  | .mmaTw8bf m y => firstFault [(!y.wf, .field), (!m.sa && !m.sb && m.c != 0, .field), (m.mc = 3, .value)]
  | .mmaStream _ m y => firstFault [(!y.wf, .field), (m.b != 0, .field), (!m.sa && !m.sb && m.c != 0, .field), (m.mc = 3, .value)]
  | .mrd m y => firstFault [(!y.wf, .field), (!readoutFormat m.fmt, .value), (m.rm.toNat ≥ 5, .value), (m.fmt = 12 && m.shift != 0, .value), (m.part.toNat ≥ readoutParts m.fmt, .value)]
  | .mst _ fmt rm _ _ _ y => firstFault [(!y.wf, .field), (!readoutFormat fmt, .value), (rm.toNat ≥ 5, .value)]
  | .mstIn _ fmt rm _ _ _ y => firstFault [(!y.wf, .field), (fmt != 12 || rm != 0, .value)]
  | .mcmd _ _ _ _ _ x => firstFault [(x.toNat < 0xA0 || x.toNat > 0xAC, .value)]
  | .cpy _ _ rank _ _ y => firstFault [(!y.wf, .field), (rank = 0 || rank.toNat ≥ 10, .value)]
  | .cpyr _ _ rank _ op fmt _ y => firstFault [(!y.wf, .field), (rank = 0 || rank.toNat ≥ 10 || !cpyrPair op fmt, .value)]
  | .gath _ _ _ _ _ y => firstFault [(!y.wf, .field)]
  | .gathQ _ _ _ _ y => firstFault [(!y.wf, .field)]
  | .pack _ _ _ _ y => firstFault [(!y.wf, .field)]
  | .pull _ _ _ _ y => firstFault [(!y.wf, .field)]
  | .qfence m => firstFault [(m = 0, .value)]
  | .onew _ _ _ _ y => firstFault [(!y.wf, .field)]
  | .odel _ _ y => firstFault [(!y.wf, .field)]
  | .ogetW _ _ w => firstFault [(w.toNat ≥ 28, .value)]
  | .oputW _ _ w => firstFault [(w.toNat ≥ 28, .value)]
  | .esend _ _ _ y => firstFault [(!y.wf, .field)]
  | .esendv _ _ _ n y => firstFault [(!y.wf, .field), (n.toNat ≥ 28, .value)]
  | .edamp _ _ _ c fc _ _ => firstFault [(!fc && c != 0, .field)]
  | .efan _ _ _ y => firstFault [(!y.wf, .field)]
  | .esread _ _ cut cur y => firstFault [(!y.wf || cur && cut != 0, .field)]
  | .illop op => firstFault [(opcodeAssigned op, .value)]
  | .nop | .trap .. | .sysc .. | .rte | .wrcStatus .. | .wrcFrm .. | .wrcDtime .. | .wrcChmode .. | .wrcBarcfg ..
  | .wrcSemstat .. | .wrcTshape .. | .wrcAcfg .. | .wrcEtcfg .. | .wrcForecast .. | .wrcRampup .. | .wrcRampdn ..
  | .wfi | .hcall .. | .ssave .. | .ssaveCore .. | .ssaveAck .. | .srest .. | .srestCore .. | .resync .. | .exit
  | .cwait .. | .yield | .park | .wake .. | .allot .. | .gangQuad .. | .gangClus .. | .gangFormed | .split
  | .prio .. | .add .. | .sub .. | .mul .. | .mulh .. | .mulhu .. | .div .. | .divu .. | .rem .. | .remu ..
  | .and .. | .or .. | .xor .. | .andn .. | .orn .. | .shl .. | .shr .. | .sra .. | .rot .. | .clz .. | .ctz ..
  | .popc .. | .abs .. | .min .. | .max .. | .minu .. | .maxu .. | .sext .. | .zext .. | .shadd .. | .mov ..
  | .sel .. | .addi .. | .andi .. | .ori .. | .xori .. | .shli .. | .shri .. | .srai .. | .roti .. | .ldi26 ..
  | .ldi64 .. | .bz .. | .bnz .. | .j .. | .jal .. | .jr .. | .jalr .. | .jtab .. | .loop .. | .halt | .brk ..
  | .fmin .. | .fmax .. | .fsgnCp .. | .fsgnNeg .. | .fsgnXor .. | .fmovFF .. | .fmovFG .. | .fmovGF .. | .fldi ..
  | .fsrDraw .. | .vmul .. | .vmulh .. | .vmulhU .. | .vmin .. | .vmax .. | .vabs .. | .vand .. | .vor ..
  | .vxor .. | .vandn .. | .vshl .. | .vshr .. | .vsra .. | .vsel .. | .vsplat .. | .vmov .. | .vmovX ..
  | .vmovI .. | .vperm .. | .vperm2 .. | .vslideDn .. | .vslideUp .. | .vzipLo .. | .vzipHi .. | .vunzipEv ..
  | .vunzipOd .. | .kopAnd .. | .kopOr .. | .kopXor .. | .kopAndn .. | .kopNot .. | .kopFromg .. | .kopTog ..
  | .kopLo .. | .kpop .. | .kfirst .. | .vld .. | .vst .. | .vlds .. | .st .. | .stA .. | .ldfe .. | .ldfeE ..
  | .stfe .. | .feset .. | .feclr .. | .prefC .. | .prefT .. | .prefX .. | .sealq .. | .hgive .. | .htake ..
  | .handleArrival .. | .spst .. | .lea .. | .leaG .. | .leaGs .. | .barrierArrival .. | .barrierRelease ..
  | .icinvDiscard .. | .dsync | .tsync | .cleave .. | .cbrAny .. | .cbrAll .. | .credAdd .. | .credMin ..
  | .credMax .. | .credMinu .. | .credMaxu .. | .cstatGrp .. | .cstatSeq .. | .cstatSpec .. | .collectiveArrival ..
  | .collectiveResult .. | .cbtimeo .. | .cbbroken .. | .mwait | .mwaitAcc .. | .mstat .. | .mstatC .. | .mcap ..
  | .mcmdAtTarget .. | .matrixCommandStart .. | .bellowsBoundary .. | .matrixCommandComplete .. | .kick ..
  | .kickNoticeArrival .. | .pullAckArrival .. | .engineCommandStart .. | .engineCommandComplete .. | .sinc ..
  | .swait .. | .swaitNb .. | .sget .. | .sset .. | .ssetReg .. | .lyt .. | .lytq .. | .onewAtTarget ..
  | .odelAtTarget .. | .ocfgLeak .. | .ocfgTheta .. | .ocfgUser .. | .ocfgType .. | .oget .. | .ogetRef ..
  | .ogetSh .. | .ogetHd .. | .oput .. | .eslot .. | .eslotTag .. | .eslotFree .. | .etick .. | .etickSet ..
  | .enow .. | .esnap .. | .esnapClose .. | .esreadAtTarget .. | .cvqUn .. | .cvqRes .. | .cvqLate ..
  | .cvqStale .. | .cvqDrop .. | .cvqPend .. | .cvqSent .. | .cvqRecv .. | .cvqSlate .. | .cvqLateC ..
  | .cvqStaleC .. | .cvqDropC .. | .cvqSlateC .. | .hnd .. | .ehold .. | .eholdRel .. | .eholdQ ..
  | .droneWritebackDone | .eventAccept .. | .nowAdvance | .eventDelivery | .handlerStart | .tnew ..
  | .tnewAtHome .. | .tdec .. | .taskDecrement .. | .runListStart | .qclaim .. | .qpub .. | .qsteal .. | .qlen ..
  | .qlenClaims .. | .qlenSteals .. | .qlenFail .. | .qreset .. | .qresetBind .. | .qresetUnbind ..
  | .queueRequestAtController .. | .terminationNotice .. | .fcast .. | .fcastQ .. | .tstamp | .tstampNow ..
  | .tstampQ .. | .channelEntryArrival .. | .requestAtHome .. | .replyArrival .. | .rnrRetry ..
  | .acceptanceNotice .. | .cxlDeviceReadComplete .. | .sectorBufferExpiry .. | .deviceSemaphoreAdd ..
  | .doorbell .. | .translationWalk .. | .tlbInvalidation .. | .migrationRequest .. | .migrationRoundEnd ..
  | .migrationFinalCopy .. | .forwardedAccess .. | .migrationComplete .. | .preemptInterrupt | .delayedExpiry ..
  | .quietPointReached .. | .clusterDump | .clusterReset .. | .boundaryReopen .. | .packageReset | .flitReplay ..
  | .linkRetrain .. | .linkFailure .. | .failureAnnouncement .. | .inDoubtTimeout .. | .hostRead .. | .hostWrite ..
  | .hostLaunch .. | .hostResync .. | .hcallAnswer .. | .dbgrd .. | .dbgwr .. | .dctlHalt .. | .dctlResume ..
  | .dctlStep .. | .ctxrd .. | .ctxwr .. | .memrd .. | .memwr .. | .patch .. | .trace .. | .traceSample .. | .chal
  | .unlock .. | .relock | .attest .. | .pwrlim .. | .life | .powerManagerTick | .powerCap | .powerCapLift
  | .routerPowerGate .. | .routerWake .. | .clusterPowerOff .. | .clusterPowerOn .. | .packageSleep | .packageWake
  | .lifetimeHoursWrite | .lifetimeCounterWrite | .eventQueueCommandStart | .eventQueueCommandComplete
  | .allowanceReturn .. | .hostAcknowledgement .. | .jobRestore | .jobEnded | .scrub .. | .poolRegionAssignment ..
  | .bootFlashImageWrite .. | .ownershipRecord .. | .lossOfPower => none

/-- A legal instruction: no reserved field, no reserved value. -/
def Instr.wf (i : Instr) : Bool := i.illfmt == none

end Sys2Proof
end

