-- ==== Sys2Proof/Decode.lean ====
section
/-!
DEFINITION. The decoder of one instruction from its head and tail (R35, R36, R42 to R45), total on any bits, and the
encoder written from the same tables.
An unassigned major opcode decodes to the table's own `illop` row; every other encoding that is not an instruction is
refused by name.
Lean's compiled code cannot build a constructor whose position in its type is above 244, so what builds an `Instr` is
marked noncomputable: the kernel evaluates it all the same.
-/

namespace Sys2Proof

/-- Why a head and tail are no instruction (R43, R45): a tail class that differs from the opcode's format (reason 0),
a non-zero reserved field (reason 1), a reserved field value (reason 2). -/
inductive DecodeError where
  | tailClass
  | reservedField
  | reservedValue
  deriving DecidableEq, Repr

/-- FINFO[3:0] of ILLFMT (R45). -/
def DecodeError.reason : DecodeError → Nat
  | .tailClass => 0
  | .reservedField => 1
  | .reservedValue => 2

/-- The tail formats (R36); `dash` is an unassigned opcode of the map (R42). -/
inductive TailFormat where
  | dash | n | s16 | i16 | s32 | i32 | l64 | c64
  deriving DecidableEq, Repr

/-- The tail class of a format (R36). -/
def TailFormat.tc : TailFormat → Nat
  | .dash => 0 | .n => 0 | .s16 => 1 | .i16 => 1 | .s32 => 2 | .i32 => 2 | .l64 => 3 | .c64 => 3

/-- Tail bytes of a tail class (R31). -/
def tailBytes (tc : Nat) : Nat := match tc with | 0 => 0 | 1 => 2 | 2 => 4 | _ => 8


open TailFormat in
/-- The opcode map (R42): a row is OP[7:4], a column OP[3:0]; opcode 0x00 is the guard. -/
def opcodeMap : List (List TailFormat) := [
  [dash, n, i16, i16, n, i16, i16, s32, n, s16, s32, s16, s16, s16, dash, dash],
  [s32, n, s16, n, n, s16, s16, s16, s16, s16, n, s16, dash, dash, dash, dash],
  [s16, s16, s16, s16, s16, s16, s16, s16, s16, s16, s32, s32, s16, s16, s32, s16],
  [i16, i16, i16, i16, i16, i16, i16, i16, i32, i32, l64, dash, dash, dash, dash, dash],
  [i32, i32, i32, i32, i32, s16, s16, s32, i32, n, i16, dash, dash, dash, dash, dash],
  [s32, s32, s32, s32, s32, s32, s32, s32, s32, s32, s16, s32, s16, l64, s32, s32],
  [s32, s32, s32, s32, s32, s32, s32, s32, s32, s32, s32, s32, s32, s32, s32, s32],
  [s32, s32, s32, s32, s32, s32, s32, s16, s16, s16, dash, dash, dash, dash, dash, dash],
  [i32, i32, i32, i32, s16, s32, s32, s32, i32, s32, s32, s16, s16, i32, i32, i32],
  [s16, s16, s32, s16, n, n, s32, s16, i32, s32, s16, dash, dash, dash, dash, dash],
  [c64, c64, c64, c64, c64, c64, c64, c64, c64, c64, c64, c64, c64, c64, s16, s32],
  [c64, c64, c64, s32, c64, c64, s16, i32, i32, i16, i32, s32, s16, dash, dash, dash],
  [c64, c64, s32, s32, s32, c64, c64, s32, c64, s16, n, s32, c64, s16, s32, s16],
  [s32, s16, s16, s16, s16, s16, s16, s16, s16, dash, dash, dash, dash, dash, dash, dash],
  [i32, i32, s32, s32, s32, dash, dash, dash, dash, dash, dash, dash, dash, dash, dash, dash],
  [dash, dash, dash, dash, dash, dash, dash, dash, dash, dash, dash, dash, dash, dash, dash, dash]]

/-- The format of a major opcode. -/
def opcodeFormat (op : Nat) : TailFormat := ((opcodeMap[op / 16]?.getD [])[op % 16]?).getD .dash

/-- `len` bits of `t` from bit `lo`, as a number. -/
def slice (t lo len : Nat) : Nat := t / 2 ^ lo % 2 ^ len

/-- A field of `n` bits of `t` from bit `lo`. -/
def fieldAt (n t lo : Nat) : BitVec n := BitVec.ofNat n (t / 2 ^ lo)

/-- A one-bit field. -/
def flagAt (t lo : Nat) : Bool := t / 2 ^ lo % 2 == 1

/-- A decoded row whose reserved bits are zero or not (R36, R43). -/
def row (reserved : Bool) (i : Instr) : Except DecodeError Instr :=
  if reserved then .ok i else .error .reservedField

/-- The fields of `VArgs` in their places. -/
def VArgs.decode (d : Field) (t : Nat) : VArgs :=
  ⟨d, fieldAt 6 t 26, fieldAt 6 t 20, flagAt t 7, flagAt t 5, fieldAt 3 t 2, fieldAt 2 t 0⟩

/-- The tail bits of `VArgs`. -/
def VArgs.tail (v : VArgs) : Nat :=
  v.a.toNat * 2 ^ 26 + v.b.toNat * 2 ^ 20 + v.s.toNat * 2 ^ 7 + v.z.toNat * 2 ^ 5 + v.k.toNat * 2 ^ 2 + v.w.toNat

/-- The fields of `VArgs3` in their places. -/
def VArgs3.decode (d : Field) (t : Nat) : VArgs3 :=
  ⟨d, fieldAt 6 t 26, fieldAt 6 t 20, flagAt t 5, fieldAt 3 t 2, fieldAt 2 t 0⟩

/-- The tail bits of `VArgs3`. -/
def VArgs3.tail (v : VArgs3) : Nat :=
  v.a.toNat * 2 ^ 26 + v.b.toNat * 2 ^ 20 + v.z.toNat * 2 ^ 5 + v.k.toNat * 2 ^ 2 + v.w.toNat

/-- The fields of `VArgs2` in their places. -/
def VArgs2.decode (d : Field) (t : Nat) : VArgs2 :=
  ⟨d, fieldAt 6 t 26, flagAt t 5, fieldAt 3 t 2, fieldAt 2 t 0⟩

/-- The tail bits of `VArgs2`. -/
def VArgs2.tail (v : VArgs2) : Nat :=
  v.a.toNat * 2 ^ 26 + v.z.toNat * 2 ^ 5 + v.k.toNat * 2 ^ 2 + v.w.toNat

/-- The fields of `MmaArgs` in their places. -/
def MmaArgs.decode (d : Field) (t : Nat) : MmaArgs :=
  ⟨d, fieldAt 6 t 26, fieldAt 6 t 20, fieldAt 6 t 14, fieldAt 6 t 8, fieldAt 2 t 6, flagAt t 5, flagAt t 4, flagAt t 2, flagAt t 1⟩

/-- The tail bits of `MmaArgs`. -/
def MmaArgs.tail (v : MmaArgs) : Nat :=
  v.a.toNat * 2 ^ 26 + v.b.toNat * 2 ^ 20 + v.c.toNat * 2 ^ 14 + v.nc.toNat * 2 ^ 8 + v.mc.toNat * 2 ^ 6 + v.sa.toNat * 2 ^ 5 + v.sb.toNat * 2 ^ 4 + v.clr.toNat * 2 ^ 2 + v.rpt.toNat * 2 ^ 1

/-- The fields of `MrdArgs` in their places. -/
def MrdArgs.decode (d : Field) (t : Nat) : MrdArgs :=
  ⟨d, fieldAt 4 t 28, fieldAt 3 t 25, fieldAt 3 t 22, fieldAt 6 t 16, flagAt t 15, fieldAt 6 t 9, flagAt t 8, fieldAt 2 t 6⟩

/-- The tail bits of `MrdArgs`. -/
def MrdArgs.tail (v : MrdArgs) : Nat :=
  v.fmt.toNat * 2 ^ 28 + v.rm.toNat * 2 ^ 25 + v.part.toNat * 2 ^ 22 + v.index.toNat * 2 ^ 16 + v.dir.toNat * 2 ^ 15 + v.shift.toNat * 2 ^ 9 + v.ev.toNat * 2 ^ 8 + v.acc.toNat * 2 ^ 6

/-- The wait and signal fields of a C64 tail (R36). -/
def Sync.decode (t : Nat) : Sync :=
  ⟨flagAt t 63, fieldAt 8 t 55, fieldAt 8 t 47, flagAt t 46, fieldAt 8 t 38, fieldAt 6 t 32⟩

/-- The C64 tail bits of the wait and signal fields. -/
def Sync.tail (y : Sync) : Nat :=
  y.we.toNat * 2 ^ 63 + y.ws.toNat * 2 ^ 55 + y.wt.toNat * 2 ^ 47 + y.se.toNat * 2 ^ 46 + y.ss.toNat * 2 ^ 38 +
    y.sk.toNat * 2 ^ 32

/-- The row of `wrc` that a control register's number picks (R349: the registers with a row of their own). -/
def decodeWrc (a : Field) (n : BitVec 10) : Instr :=
  match n.toNat with
  | 0x000 => .wrcStatus a
  | 0x007 => .wrcFrm a
  | 0x010 => .wrcDtime a
  | 0x046 => .wrcChmode a
  | 0x049 => .wrcBarcfg a
  | 0x04D => .wrcSemstat a
  | 0x063 => .wrcEtcfg a
  | 0x068 => .wrcForecast a
  | 0x140 => .wrcRampup a
  | 0x141 => .wrcRampdn a
  | m => if m / 8 = 0xA then .wrcTshape a (BitVec.ofNat 3 m) else if m / 4 = 0x16 then .wrcAcfg a (BitVec.ofNat 2 m)
    else .wrc a n

/-- Opcodes 0x00 to 0x0F. -/
noncomputable def decode0 (o : Nat) (d : Field) (t : Nat) : Except DecodeError Instr :=
  match o with
  | 1 => row (d == 0) .nop
  | 2 => row (d == 0) (.trap (fieldAt 6 t 10) (fieldAt 10 t 0))
  | 3 => row (d == 0 && slice t 10 6 == 0) (.sysc (fieldAt 10 t 0))
  | 4 => row (d == 0) .rte
  | 5 => row (slice t 10 6 == 0) (.rdc d (fieldAt 10 t 0))
  | 6 => row (d == 0) (decodeWrc (fieldAt 6 t 10) (fieldAt 10 t 0))
  | 7 =>
    if slice t 12 1 = 0 then row (d == 0 && slice t 0 8 == 0 && slice t 13 7 == 0) (.tlbinv (fieldAt 6 t 26) (fieldAt 6 t 20) (fieldAt 4 t 8))
    else if slice t 12 1 = 1 then row (d == 0 && slice t 0 8 == 0 && slice t 13 19 == 0) (.tlbinvAll (fieldAt 4 t 8))
    else .error .reservedValue
  | 8 => row (d == 0) .wfi
  | 9 =>
    if slice t 0 4 = 0 then row true (.hcall d (fieldAt 6 t 10) (fieldAt 6 t 4))
    else .error .reservedValue
  | 10 => row (slice t 9 11 == 0) (.migr d (fieldAt 6 t 26) (fieldAt 6 t 20) (flagAt t 8) (fieldAt 8 t 0))
  | 11 =>
    if slice t 0 4 = 0 then row true (.ssave d (fieldAt 6 t 10) (fieldAt 6 t 4))
    else if slice t 0 4 = 1 then row (slice t 10 6 == 0) (.ssaveCore d (fieldAt 6 t 4))
    else if slice t 0 4 = 2 then row (slice t 4 12 == 0) (.ssaveAck d)
    else .error .reservedValue
  | 12 =>
    if slice t 0 4 = 0 then row true (.srest d (fieldAt 6 t 10) (fieldAt 6 t 4))
    else if slice t 0 4 = 1 then row (slice t 10 6 == 0) (.srestCore d (fieldAt 6 t 4))
    else .error .reservedValue
  | 13 =>
    if slice t 0 4 = 0 then row (slice t 4 6 == 0) (.resync d (fieldAt 6 t 10))
    else .error .reservedValue
  | _ => .error .reservedValue

/-- Opcodes 0x10 to 0x1F. -/
noncomputable def decode1 (o : Nat) (d : Field) (t : Nat) : Except DecodeError Instr :=
  match o with
  | 0 =>
    if slice t 2 2 = 0 then row (slice t 4 4 == 0 && slice t 14 6 == 0) (.start d (fieldAt 6 t 26) (fieldAt 6 t 20) (fieldAt 3 t 8) (fieldAt 3 t 11) (fieldAt 2 t 0))
    else if slice t 2 2 = 1 then row (slice t 4 4 == 0 && slice t 14 6 == 0) (.startNb d (fieldAt 6 t 26) (fieldAt 6 t 20) (fieldAt 3 t 8) (fieldAt 3 t 11) (fieldAt 2 t 0))
    else if slice t 2 2 = 2 then row (slice t 4 4 == 0) (.startAt d (fieldAt 6 t 26) (fieldAt 6 t 20) (fieldAt 6 t 14) (fieldAt 3 t 8) (fieldAt 3 t 11) (fieldAt 2 t 0))
    else if slice t 2 2 = 3 then row (slice t 4 4 == 0) (.startAtNb d (fieldAt 6 t 26) (fieldAt 6 t 20) (fieldAt 6 t 14) (fieldAt 3 t 8) (fieldAt 3 t 11) (fieldAt 2 t 0))
    else .error .reservedValue
  | 1 => row (d == 0) .exit
  | 2 => row (slice t 0 10 == 0) (.cwait d (fieldAt 6 t 10))
  | 3 => row (d == 0) .yield
  | 4 => row (d == 0) .park
  | 5 => row (d == 0 && slice t 0 10 == 0) (.wake (fieldAt 6 t 10))
  | 6 =>
    if slice t 0 1 = 0 then row (slice t 1 3 == 0) (.grow d (fieldAt 6 t 10) (fieldAt 6 t 4))
    else if slice t 0 1 = 1 then row (slice t 1 3 == 0) (.growNb d (fieldAt 6 t 10) (fieldAt 6 t 4))
    else .error .reservedValue
  | 7 => row (d == 0 && slice t 0 4 == 0) (.shrink (fieldAt 6 t 10) (fieldAt 6 t 4))
  | 8 => row (slice t 0 10 == 0) (.allot d (fieldAt 6 t 10))
  | 9 =>
    if slice t 0 1 = 0 then row (slice t 1 9 == 0) (.gangQuad d (fieldAt 6 t 10))
    else if slice t 0 1 = 1 then row (slice t 1 9 == 0) (.gangClus d (fieldAt 6 t 10))
    else .error .reservedValue
  | 10 => row (d == 0) .split
  | 11 => row (slice t 0 10 == 0) (.prio d (fieldAt 6 t 10))
  | _ => .error .reservedValue

/-- Opcodes 0x20 to 0x2F; an F value of no form gives reason 2 whatever B holds. (DESIGN CHOICE: log entry 100.) -/
noncomputable def decode2 (o : Nat) (d : Field) (t : Nat) : Except DecodeError Instr :=
  match o with
  | 0 =>
    if slice t 0 4 = 0 then row true (.add d (fieldAt 6 t 10) (fieldAt 6 t 4))
    else if slice t 0 4 = 1 then row true (.sub d (fieldAt 6 t 10) (fieldAt 6 t 4))
    else .error .reservedValue
  | 1 =>
    if slice t 0 4 = 0 then row true (.mul d (fieldAt 6 t 10) (fieldAt 6 t 4))
    else if slice t 0 4 = 1 then row true (.mulh d (fieldAt 6 t 10) (fieldAt 6 t 4))
    else if slice t 0 4 = 2 then row true (.mulhu d (fieldAt 6 t 10) (fieldAt 6 t 4))
    else .error .reservedValue
  | 2 =>
    if slice t 0 4 = 0 then row true (.div d (fieldAt 6 t 10) (fieldAt 6 t 4))
    else if slice t 0 4 = 1 then row true (.divu d (fieldAt 6 t 10) (fieldAt 6 t 4))
    else .error .reservedValue
  | 3 =>
    if slice t 0 4 = 0 then row true (.rem d (fieldAt 6 t 10) (fieldAt 6 t 4))
    else if slice t 0 4 = 1 then row true (.remu d (fieldAt 6 t 10) (fieldAt 6 t 4))
    else .error .reservedValue
  | 4 =>
    if slice t 0 4 = 0 then row true (.and d (fieldAt 6 t 10) (fieldAt 6 t 4))
    else if slice t 0 4 = 1 then row true (.or d (fieldAt 6 t 10) (fieldAt 6 t 4))
    else if slice t 0 4 = 2 then row true (.xor d (fieldAt 6 t 10) (fieldAt 6 t 4))
    else if slice t 0 4 = 3 then row true (.andn d (fieldAt 6 t 10) (fieldAt 6 t 4))
    else if slice t 0 4 = 4 then row true (.orn d (fieldAt 6 t 10) (fieldAt 6 t 4))
    else .error .reservedValue
  | 5 =>
    if slice t 0 4 = 0 then row true (.shl d (fieldAt 6 t 10) (fieldAt 6 t 4))
    else if slice t 0 4 = 1 then row true (.shr d (fieldAt 6 t 10) (fieldAt 6 t 4))
    else if slice t 0 4 = 2 then row true (.sra d (fieldAt 6 t 10) (fieldAt 6 t 4))
    else if slice t 0 4 = 3 then row true (.rot d (fieldAt 6 t 10) (fieldAt 6 t 4))
    else .error .reservedValue
  | 6 =>
    if slice t 0 4 = 0 then row (slice t 4 6 == 0) (.clz d (fieldAt 6 t 10))
    else if slice t 0 4 = 1 then row (slice t 4 6 == 0) (.ctz d (fieldAt 6 t 10))
    else if slice t 0 4 = 2 then row (slice t 4 6 == 0) (.popc d (fieldAt 6 t 10))
    else if slice t 0 4 = 3 then row (slice t 4 6 == 0) (.abs d (fieldAt 6 t 10))
    else .error .reservedValue
  | 7 =>
    if slice t 0 4 = 0 then row true (.min d (fieldAt 6 t 10) (fieldAt 6 t 4))
    else if slice t 0 4 = 1 then row true (.max d (fieldAt 6 t 10) (fieldAt 6 t 4))
    else if slice t 0 4 = 2 then row true (.minu d (fieldAt 6 t 10) (fieldAt 6 t 4))
    else if slice t 0 4 = 3 then row true (.maxu d (fieldAt 6 t 10) (fieldAt 6 t 4))
    else .error .reservedValue
  | 8 => row (slice t 0 4 == 0) (.sext d (fieldAt 6 t 10) (fieldAt 6 t 4))
  | 9 => row (slice t 0 4 == 0) (.zext d (fieldAt 6 t 10) (fieldAt 6 t 4))
  | 10 =>
    if slice t 7 1 = 0 then row (slice t 6 1 == 0 && slice t 14 12 == 0) (.bfx d (fieldAt 6 t 26) (fieldAt 6 t 8) (fieldAt 6 t 0))
    else if slice t 7 1 = 1 then row (slice t 6 1 == 0 && slice t 14 12 == 0) (.bfxS d (fieldAt 6 t 26) (fieldAt 6 t 8) (fieldAt 6 t 0))
    else .error .reservedValue
  | 11 => row (slice t 6 2 == 0 && slice t 14 12 == 0) (.bfi d (fieldAt 6 t 26) (fieldAt 6 t 8) (fieldAt 6 t 0))
  | 12 => row true (.shadd d (fieldAt 6 t 10) (fieldAt 6 t 4) (fieldAt 4 t 0))
  | 13 => row (slice t 0 10 == 0) (.mov d (fieldAt 6 t 10))
  | 14 => row (slice t 0 14 == 0) (.sel d (fieldAt 6 t 26) (fieldAt 6 t 20) (fieldAt 6 t 14))
  | 15 => row true (.cmp d (fieldAt 6 t 10) (fieldAt 6 t 4) (fieldAt 4 t 0))
  | _ => .error .reservedValue

/-- Opcodes 0x30 to 0x3F. -/
noncomputable def decode3 (o : Nat) (d : Field) (t : Nat) : Except DecodeError Instr :=
  match o with
  | 0 => row true (.addi d (fieldAt 6 t 10) (fieldAt 10 t 0))
  | 1 => row true (.andi d (fieldAt 6 t 10) (fieldAt 10 t 0))
  | 2 => row true (.ori d (fieldAt 6 t 10) (fieldAt 10 t 0))
  | 3 => row true (.xori d (fieldAt 6 t 10) (fieldAt 10 t 0))
  | 4 => row (slice t 6 4 == 0) (.shli d (fieldAt 6 t 10) (fieldAt 6 t 0))
  | 5 => row (slice t 6 4 == 0) (.shri d (fieldAt 6 t 10) (fieldAt 6 t 0))
  | 6 => row (slice t 6 4 == 0) (.srai d (fieldAt 6 t 10) (fieldAt 6 t 0))
  | 7 => row (slice t 6 4 == 0) (.roti d (fieldAt 6 t 10) (fieldAt 6 t 0))
  | 8 => row true (.cmpi d (fieldAt 6 t 26) (fieldAt 4 t 22) (fieldAt 22 t 0))
  | 9 => row (slice t 26 6 == 0) (.ldi26 d (fieldAt 26 t 0))
  | 10 => row true (.ldi64 d (fieldAt 64 t 0))
  | _ => .error .reservedValue

/-- Opcodes 0x40 to 0x4F. -/
noncomputable def decode4 (o : Nat) (d : Field) (t : Nat) : Except DecodeError Instr :=
  match o with
  | 0 => row true (.br d (fieldAt 6 t 26) (fieldAt 4 t 22) (fieldAt 22 t 0))
  | 1 => row (slice t 26 6 == 0) (.bz d (fieldAt 26 t 0))
  | 2 => row (slice t 26 6 == 0) (.bnz d (fieldAt 26 t 0))
  | 3 => row (d == 0 && slice t 26 6 == 0) (.j (fieldAt 26 t 0))
  | 4 => row (slice t 26 6 == 0) (.jal d (fieldAt 26 t 0))
  | 5 => row (d == 0 && slice t 0 10 == 0) (.jr (fieldAt 6 t 10))
  | 6 => row (slice t 0 10 == 0) (.jalr d (fieldAt 6 t 10))
  | 7 => row (slice t 0 20 == 0) (.jtab d (fieldAt 6 t 26) (fieldAt 6 t 20))
  | 8 => row (slice t 26 6 == 0) (.loop d (fieldAt 26 t 0))
  | 9 => row (d == 0) .halt
  | 10 => row (d == 0 && slice t 10 6 == 0) (.brk (fieldAt 10 t 0))
  | _ => .error .reservedValue

/-- Opcodes 0x50 to 0x5F; an F value of no form gives reason 2 first, a reserved field of a form reason 1 before a reserved
rounding mode or format gives reason 2. (DESIGN CHOICE: log entry 100.) -/
noncomputable def decode5 (o : Nat) (d : Field) (t : Nat) : Except DecodeError Instr :=
  match o with
  | 0 => row (slice t 0 8 == 0 && slice t 11 9 == 0) (.fadd d (fieldAt 6 t 26) (fieldAt 6 t 20) (fieldAt 3 t 8))
  | 1 => row (slice t 0 8 == 0 && slice t 11 9 == 0) (.fsub d (fieldAt 6 t 26) (fieldAt 6 t 20) (fieldAt 3 t 8))
  | 2 => row (slice t 0 8 == 0 && slice t 11 9 == 0) (.fmul d (fieldAt 6 t 26) (fieldAt 6 t 20) (fieldAt 3 t 8))
  | 3 => row (slice t 0 8 == 0 && slice t 11 3 == 0) (.fma d (fieldAt 6 t 26) (fieldAt 6 t 20) (fieldAt 6 t 14) (fieldAt 3 t 8))
  | 4 => row (slice t 0 8 == 0 && slice t 11 3 == 0) (.fnma d (fieldAt 6 t 26) (fieldAt 6 t 20) (fieldAt 6 t 14) (fieldAt 3 t 8))
  | 5 => row (slice t 0 8 == 0 && slice t 11 9 == 0) (.fdiv d (fieldAt 6 t 26) (fieldAt 6 t 20) (fieldAt 3 t 8))
  | 6 => row (slice t 0 8 == 0 && slice t 11 15 == 0) (.fsqrt d (fieldAt 6 t 26) (fieldAt 3 t 8))
  | 7 =>
    if slice t 8 1 = 0 then row (slice t 0 8 == 0 && slice t 9 11 == 0) (.fmin d (fieldAt 6 t 26) (fieldAt 6 t 20))
    else if slice t 8 1 = 1 then row (slice t 0 8 == 0 && slice t 9 11 == 0) (.fmax d (fieldAt 6 t 26) (fieldAt 6 t 20))
    else .error .reservedValue
  | 8 =>
    if slice t 8 2 = 0 then row (slice t 0 8 == 0 && slice t 10 10 == 0) (.fsgnCp d (fieldAt 6 t 26) (fieldAt 6 t 20))
    else if slice t 8 2 = 1 then row (slice t 0 8 == 0 && slice t 10 10 == 0) (.fsgnNeg d (fieldAt 6 t 26) (fieldAt 6 t 20))
    else if slice t 8 2 = 2 then row (slice t 0 8 == 0 && slice t 10 10 == 0) (.fsgnXor d (fieldAt 6 t 26) (fieldAt 6 t 20))
    else .error .reservedValue
  | 9 => row (slice t 0 8 == 0 && slice t 11 9 == 0) (.fcmp d (fieldAt 6 t 26) (fieldAt 6 t 20) (fieldAt 3 t 8))
  | 10 => row (slice t 4 6 == 0) (.fclass d (fieldAt 6 t 10) (fieldAt 4 t 0))
  | 11 => row (slice t 11 15 == 0) (.fcvt d (fieldAt 6 t 26) (fieldAt 3 t 8) (fieldAt 4 t 4) (fieldAt 4 t 0))
  | 12 =>
    if slice t 0 4 = 0 then row (slice t 4 6 == 0) (.fmovFF d (fieldAt 6 t 10))
    else if slice t 0 4 = 1 then row (slice t 4 6 == 0) (.fmovFG d (fieldAt 6 t 10))
    else if slice t 0 4 = 2 then row (slice t 4 6 == 0) (.fmovGF d (fieldAt 6 t 10))
    else .error .reservedValue
  | 13 => row true (.fldi d (fieldAt 64 t 0))
  | 14 =>
    if slice t 8 1 = 0 then row (slice t 9 11 == 0) (.fsr d (fieldAt 6 t 26) (fieldAt 6 t 20) (fieldAt 4 t 4) (fieldAt 4 t 0))
    else if slice t 8 1 = 1 then row (slice t 0 8 == 0 && slice t 9 23 == 0) (.fsrDraw d)
    else .error .reservedValue
  | 15 => row (slice t 4 4 == 0 && slice t 11 15 == 0) (.fscl d (fieldAt 6 t 26) (fieldAt 3 t 8) (fieldAt 4 t 0))
  | _ => .error .reservedValue

/-- Opcodes 0x60 to 0x6F. -/
noncomputable def decode6 (o : Nat) (d : Field) (t : Nat) : Except DecodeError Instr :=
  match o with
  | 0 =>
    if slice t 8 1 = 0 then row (slice t 6 1 == 0 && slice t 11 9 == 0) (.vadd (VArgs.decode d t) (fieldAt 2 t 9))
    else if slice t 8 1 = 1 then row (slice t 6 1 == 0 && slice t 11 9 == 0) (.vsub (VArgs.decode d t) (fieldAt 2 t 9))
    else .error .reservedValue
  | 1 =>
    if slice t 8 2 = 0 then row (slice t 6 1 == 0 && slice t 10 10 == 0) (.vmul (VArgs.decode d t))
    else if slice t 8 2 = 1 then row (slice t 6 1 == 0 && slice t 10 10 == 0) (.vmulh (VArgs.decode d t))
    else if slice t 8 2 = 2 then row (slice t 6 1 == 0 && slice t 10 10 == 0) (.vmulhU (VArgs.decode d t))
    else .error .reservedValue
  | 2 => row (slice t 6 1 == 0 && slice t 8 1 == 0 && slice t 11 9 == 0) (.vmacc (VArgs.decode d t) (fieldAt 2 t 9))
  | 3 =>
    if slice t 8 1 = 0 then row (slice t 6 1 == 0 && slice t 10 10 == 0) (.vmin (VArgs.decode d t) (flagAt t 9))
    else if slice t 8 1 = 1 then row (slice t 6 1 == 0 && slice t 10 10 == 0) (.vmax (VArgs.decode d t) (flagAt t 9))
    else .error .reservedValue
  | 4 => row (slice t 6 2 == 0 && slice t 9 17 == 0) (.vabs (VArgs2.decode d t) (flagAt t 8))
  | 5 =>
    if slice t 8 2 = 0 then row (slice t 6 1 == 0 && slice t 10 10 == 0) (.vand (VArgs.decode d t))
    else if slice t 8 2 = 1 then row (slice t 6 1 == 0 && slice t 10 10 == 0) (.vor (VArgs.decode d t))
    else if slice t 8 2 = 2 then row (slice t 6 1 == 0 && slice t 10 10 == 0) (.vxor (VArgs.decode d t))
    else if slice t 8 2 = 3 then row (slice t 6 1 == 0 && slice t 10 10 == 0) (.vandn (VArgs.decode d t))
    else .error .reservedValue
  | 6 =>
    if slice t 8 2 = 0 then row (slice t 6 1 == 0 && slice t 10 10 == 0) (.vshl (VArgs.decode d t))
    else if slice t 8 2 = 1 then row (slice t 6 1 == 0 && slice t 10 10 == 0) (.vshr (VArgs.decode d t))
    else if slice t 8 2 = 2 then row (slice t 6 1 == 0 && slice t 10 10 == 0) (.vsra (VArgs.decode d t))
    else .error .reservedValue
  | 7 => row (slice t 6 1 == 0 && slice t 13 7 == 0) (.vcmp (VArgs.decode d t) (flagAt t 12) (fieldAt 4 t 8))
  | 8 => row (slice t 5 15 == 0) (.vsel d (fieldAt 6 t 26) (fieldAt 6 t 20) (fieldAt 3 t 2) (fieldAt 2 t 0))
  | 9 => row (slice t 6 2 == 0 && slice t 9 17 == 0) (.vsplat (VArgs2.decode d t) (flagAt t 8))
  | 10 =>
    if slice t 8 6 = 0 then row (slice t 6 2 == 0 && slice t 14 12 == 0) (.vmov (VArgs2.decode d t))
    else if slice t 8 6 = 1 then row (slice t 2 6 == 0 && slice t 20 6 == 0) (.vmovX d (fieldAt 6 t 26) (fieldAt 6 t 14) false (fieldAt 2 t 0))
    else if slice t 8 6 = 2 then row (slice t 2 6 == 0 && slice t 20 6 == 0) (.vmovX d (fieldAt 6 t 26) (fieldAt 6 t 14) true (fieldAt 2 t 0))
    else if slice t 8 6 = 3 then row (slice t 2 6 == 0 && slice t 20 6 == 0) (.vmovI d (fieldAt 6 t 26) (fieldAt 6 t 14) (fieldAt 2 t 0))
    else .error .reservedValue
  | 11 =>
    if slice t 8 6 = 0 then row (slice t 6 2 == 0 && slice t 14 6 == 0) (.vperm (VArgs3.decode d t))
    else if slice t 8 6 = 1 then row (slice t 6 2 == 0) (.vperm2 (VArgs3.decode d t) (fieldAt 6 t 14))
    else .error .reservedValue
  | 12 =>
    if slice t 8 6 = 0 then row (slice t 6 2 == 0) (.vslideDn (VArgs3.decode d t) (fieldAt 6 t 14))
    else if slice t 8 6 = 1 then row (slice t 6 2 == 0) (.vslideUp (VArgs3.decode d t) (fieldAt 6 t 14))
    else .error .reservedValue
  | 13 =>
    if slice t 8 6 = 0 then row (slice t 6 2 == 0 && slice t 14 6 == 0) (.vzipLo (VArgs3.decode d t))
    else if slice t 8 6 = 1 then row (slice t 6 2 == 0 && slice t 14 6 == 0) (.vunzipEv (VArgs3.decode d t))
    else if slice t 8 6 = 2 then row (slice t 6 2 == 0 && slice t 14 6 == 0) (.vzipHi (VArgs3.decode d t))
    else if slice t 8 6 = 3 then row (slice t 6 2 == 0 && slice t 14 6 == 0) (.vunzipOd (VArgs3.decode d t))
    else .error .reservedValue
  | 14 =>
    if slice t 8 2 = 0 then row (slice t 5 3 == 0 && slice t 12 14 == 0) (.vredadd d (fieldAt 6 t 26) (fieldAt 3 t 2) (fieldAt 2 t 0) (flagAt t 10) (flagAt t 11))
    else if slice t 8 2 = 1 then row (slice t 5 3 == 0 && slice t 12 14 == 0) (.vredmin d (fieldAt 6 t 26) (fieldAt 3 t 2) (fieldAt 2 t 0) (flagAt t 10) (flagAt t 11))
    else if slice t 8 2 = 2 then row (slice t 5 3 == 0 && slice t 12 14 == 0) (.vredmax d (fieldAt 6 t 26) (fieldAt 3 t 2) (fieldAt 2 t 0) (flagAt t 10) (flagAt t 11))
    else .error .reservedValue
  | 15 => row (slice t 6 1 == 0 && slice t 11 9 == 0) (.vrshr (VArgs.decode d t) (fieldAt 2 t 8) (flagAt t 10))
  | _ => .error .reservedValue

/-- Opcodes 0x70 to 0x7F. -/
noncomputable def decode7 (o : Nat) (d : Field) (t : Nat) : Except DecodeError Instr :=
  match o with
  | 0 =>
    if slice t 11 1 = 0 then row (slice t 6 1 == 0 && slice t 12 8 == 0) (.vfadd (VArgs.decode d t) (fieldAt 3 t 8))
    else if slice t 11 1 = 1 then row (slice t 6 1 == 0 && slice t 12 8 == 0) (.vfsub (VArgs.decode d t) (fieldAt 3 t 8))
    else .error .reservedValue
  | 1 => row (slice t 6 1 == 0 && slice t 11 9 == 0) (.vfmul (VArgs.decode d t) (fieldAt 3 t 8))
  | 2 =>
    if slice t 11 1 = 0 then row (slice t 6 1 == 0 && slice t 12 2 == 0) (.vfma (VArgs.decode d t) (fieldAt 6 t 14) (fieldAt 3 t 8))
    else if slice t 11 1 = 1 then row (slice t 6 1 == 0 && slice t 12 2 == 0) (.vfnma (VArgs.decode d t) (fieldAt 6 t 14) (fieldAt 3 t 8))
    else .error .reservedValue
  | 3 =>
    if slice t 8 1 = 0 then row (slice t 6 1 == 0 && slice t 9 11 == 0) (.vfmin (VArgs.decode d t))
    else if slice t 8 1 = 1 then row (slice t 6 1 == 0 && slice t 9 11 == 0) (.vfmax (VArgs.decode d t))
    else .error .reservedValue
  | 4 => row (slice t 18 8 == 0) (.vcvt d (fieldAt 6 t 26) (fieldAt 3 t 14) (flagAt t 17) (fieldAt 3 t 8) (fieldAt 3 t 11) (fieldAt 4 t 4) (fieldAt 4 t 0))
  | 5 =>
    if slice t 8 1 = 0 then row (slice t 6 2 == 0 && slice t 11 9 == 0) (.vpack (VArgs3.decode d t) (fieldAt 2 t 9))
    else if slice t 8 1 = 1 then row (slice t 6 2 == 0 && slice t 11 15 == 0) (.vunpack (VArgs2.decode d t) (flagAt t 9) (flagAt t 10))
    else .error .reservedValue
  | 6 => row (slice t 6 2 == 0 && slice t 14 6 == 0) (.vdot (VArgs3.decode d t) (fieldAt 6 t 8))
  | 7 =>
    if slice t 0 4 = 0 then row true (.kopAnd d (fieldAt 6 t 10) (fieldAt 6 t 4))
    else if slice t 0 4 = 1 then row true (.kopOr d (fieldAt 6 t 10) (fieldAt 6 t 4))
    else if slice t 0 4 = 2 then row true (.kopXor d (fieldAt 6 t 10) (fieldAt 6 t 4))
    else if slice t 0 4 = 3 then row true (.kopAndn d (fieldAt 6 t 10) (fieldAt 6 t 4))
    else if slice t 0 4 = 4 then row (slice t 4 6 == 0) (.kopNot d (fieldAt 6 t 10))
    else if slice t 0 4 = 5 then row (slice t 4 6 == 0) (.kopFromg d (fieldAt 6 t 10))
    else if slice t 0 4 = 6 then row (slice t 4 6 == 0) (.kopTog d (fieldAt 6 t 10))
    else if slice t 0 4 = 7 then row (slice t 4 6 == 0) (.kopLo d (fieldAt 6 t 10))
    else .error .reservedValue
  | 8 => row (slice t 2 8 == 0) (.kpop d (fieldAt 6 t 10) (fieldAt 2 t 0))
  | 9 => row (slice t 2 8 == 0) (.kfirst d (fieldAt 6 t 10) (fieldAt 2 t 0))
  | _ => .error .reservedValue

/-- Opcodes 0x80 to 0x8F. -/
noncomputable def decode8 (o : Nat) (d : Field) (t : Nat) : Except DecodeError Instr :=
  match o with
  | 0 => row true (.ld d (fieldAt 6 t 26) (fieldAt 2 t 24) (flagAt t 23) (fieldAt 23 t 0))
  | 1 =>
    if slice t 23 1 = 0 then row true (.st d (fieldAt 6 t 26) (fieldAt 2 t 24) (fieldAt 23 t 0))
    else if slice t 23 1 = 1 then row true (.stA d (fieldAt 6 t 26) (fieldAt 2 t 24) (fieldAt 23 t 0))
    else .error .reservedValue
  | 2 =>
    if slice t 24 2 = 1 ∧ slice t 23 1 = 0 then row true (.ldfe d (fieldAt 6 t 26) (fieldAt 23 t 0))
    else if slice t 24 2 = 2 ∧ slice t 23 1 = 0 then row true (.ldfeE d (fieldAt 6 t 26) (fieldAt 23 t 0))
    else .error .reservedValue
  | 3 =>
    if slice t 24 2 = 3 ∧ slice t 23 1 = 0 then row true (.stfe d (fieldAt 6 t 26) (fieldAt 23 t 0))
    else .error .reservedValue
  | 4 =>
    if slice t 0 4 = 0 then row (d == 0 && slice t 4 6 == 0) (.feset (fieldAt 6 t 10))
    else if slice t 0 4 = 1 then row (d == 0 && slice t 4 6 == 0) (.feclr (fieldAt 6 t 10))
    else .error .reservedValue
  | 5 =>
    if slice t 8 6 = 0 then row (slice t 3 5 == 0 && slice t 14 6 == 0) (.amoAdd d (fieldAt 6 t 26) (fieldAt 6 t 20) (fieldAt 2 t 0) (flagAt t 2))
    else if slice t 8 6 = 1 then row (slice t 3 5 == 0 && slice t 14 6 == 0) (.amoAnd d (fieldAt 6 t 26) (fieldAt 6 t 20) (fieldAt 2 t 0) (flagAt t 2))
    else if slice t 8 6 = 2 then row (slice t 3 5 == 0 && slice t 14 6 == 0) (.amoOr d (fieldAt 6 t 26) (fieldAt 6 t 20) (fieldAt 2 t 0) (flagAt t 2))
    else if slice t 8 6 = 3 then row (slice t 3 5 == 0 && slice t 14 6 == 0) (.amoXor d (fieldAt 6 t 26) (fieldAt 6 t 20) (fieldAt 2 t 0) (flagAt t 2))
    else if slice t 8 6 = 4 then row (slice t 3 5 == 0 && slice t 14 6 == 0) (.amoSwap d (fieldAt 6 t 26) (fieldAt 6 t 20) (fieldAt 2 t 0) (flagAt t 2))
    else if slice t 8 6 = 5 then row (slice t 3 5 == 0 && slice t 14 6 == 0) (.amoMin d (fieldAt 6 t 26) (fieldAt 6 t 20) (fieldAt 2 t 0) (flagAt t 2))
    else if slice t 8 6 = 6 then row (slice t 3 5 == 0 && slice t 14 6 == 0) (.amoMax d (fieldAt 6 t 26) (fieldAt 6 t 20) (fieldAt 2 t 0) (flagAt t 2))
    else if slice t 8 6 = 7 then row (slice t 3 5 == 0 && slice t 14 6 == 0) (.amoMinu d (fieldAt 6 t 26) (fieldAt 6 t 20) (fieldAt 2 t 0) (flagAt t 2))
    else if slice t 8 6 = 8 then row (slice t 3 5 == 0 && slice t 14 6 == 0) (.amoMaxu d (fieldAt 6 t 26) (fieldAt 6 t 20) (fieldAt 2 t 0) (flagAt t 2))
    else .error .reservedValue
  | 6 =>
    if slice t 8 2 = 0 then row (slice t 3 5 == 0 && slice t 10 10 == 0) (.amofAdd d (fieldAt 6 t 26) (fieldAt 6 t 20) (fieldAt 2 t 0) (flagAt t 2))
    else if slice t 8 2 = 1 then row (slice t 3 5 == 0 && slice t 10 10 == 0) (.amofMin d (fieldAt 6 t 26) (fieldAt 6 t 20) (fieldAt 2 t 0) (flagAt t 2))
    else if slice t 8 2 = 2 then row (slice t 3 5 == 0 && slice t 10 10 == 0) (.amofMax d (fieldAt 6 t 26) (fieldAt 6 t 20) (fieldAt 2 t 0) (flagAt t 2))
    else .error .reservedValue
  | 7 => row (slice t 2 12 == 0) (.cas d (fieldAt 6 t 26) (fieldAt 6 t 20) (fieldAt 6 t 14) (fieldAt 2 t 0))
  | 8 =>
    if slice t 24 2 = 0 ∧ slice t 23 1 = 0 then row (d == 0) (.prefC (fieldAt 6 t 26) (fieldAt 23 t 0))
    else if slice t 24 2 = 1 ∧ slice t 23 1 = 0 then row (d == 0) (.prefT (fieldAt 6 t 26) (fieldAt 23 t 0))
    else if slice t 24 2 = 2 ∧ slice t 23 1 = 0 then row (d == 0) (.prefX (fieldAt 6 t 26) (fieldAt 23 t 0))
    else .error .reservedValue
  | 9 => row (d == 0 && slice t 0 8 == 0 && slice t 12 8 == 0) (.seal (fieldAt 6 t 26) (fieldAt 6 t 20) (fieldAt 4 t 8))
  | 10 => row (d == 0 && slice t 0 8 == 0 && slice t 12 8 == 0) (.unseal (fieldAt 6 t 26) (fieldAt 6 t 20) (fieldAt 4 t 8))
  | 11 => row (slice t 0 10 == 0) (.sealq d (fieldAt 6 t 10))
  | 12 =>
    if slice t 0 4 = 0 then row (d == 0) (.hgive (fieldAt 6 t 10) (fieldAt 6 t 4))
    else if slice t 0 4 = 1 then row (slice t 4 6 == 0) (.htake d (fieldAt 6 t 10))
    else .error .reservedValue
  | 13 => row true (.spld d (fieldAt 6 t 26) (fieldAt 2 t 24) (flagAt t 23) (fieldAt 23 t 0))
  | 14 =>
    if slice t 23 1 = 0 then row true (.spst d (fieldAt 6 t 26) (fieldAt 2 t 24) (fieldAt 23 t 0))
    else .error .reservedValue
  | 15 =>
    if slice t 24 2 = 0 ∧ slice t 23 1 = 0 then row true (.lea d (fieldAt 6 t 26) (fieldAt 23 t 0))
    else if slice t 24 2 = 1 ∧ slice t 23 1 = 0 then row true (.leaG d (fieldAt 6 t 26) (fieldAt 23 t 0))
    else if slice t 24 2 = 2 ∧ slice t 23 1 = 0 then row true (.leaGs d (fieldAt 6 t 26) (fieldAt 23 t 0))
    else .error .reservedValue
  | _ => .error .reservedValue

/-- Opcodes 0x90 to 0x9F. -/
noncomputable def decode9 (o : Nat) (d : Field) (t : Nat) : Except DecodeError Instr :=
  match o with
  | 0 =>
    if slice t 10 6 = 0 then row (d == 0 && slice t 4 6 == 0) (.fenceLd (fieldAt 4 t 0))
    else if slice t 10 6 = 1 then row (d == 0 && slice t 4 6 == 0) (.fenceSt (fieldAt 4 t 0))
    else if slice t 10 6 = 2 then row (d == 0 && slice t 4 6 == 0) (.fence (fieldAt 4 t 0))
    else if slice t 10 6 = 3 then row (d == 0 && slice t 4 6 == 0) (.fenceEng (fieldAt 4 t 0))
    else .error .reservedValue
  | 1 => row (d == 0 && slice t 4 12 == 0) (.bar (fieldAt 4 t 0))
  | 2 =>
    if slice t 0 3 = 0 then row (slice t 3 5 == 0 && slice t 12 14 == 0) (.barvAdd d (fieldAt 6 t 26) (fieldAt 4 t 8))
    else if slice t 0 3 = 1 then row (slice t 3 5 == 0 && slice t 12 14 == 0) (.barvMin d (fieldAt 6 t 26) (fieldAt 4 t 8))
    else if slice t 0 3 = 2 then row (slice t 3 5 == 0 && slice t 12 14 == 0) (.barvMax d (fieldAt 6 t 26) (fieldAt 4 t 8))
    else if slice t 0 3 = 3 then row (slice t 3 5 == 0 && slice t 12 14 == 0) (.barvMinu d (fieldAt 6 t 26) (fieldAt 4 t 8))
    else if slice t 0 3 = 4 then row (slice t 3 5 == 0 && slice t 12 14 == 0) (.barvMaxu d (fieldAt 6 t 26) (fieldAt 4 t 8))
    else if slice t 0 3 = 5 then row (slice t 3 5 == 0 && slice t 12 14 == 0) (.barvAnd d (fieldAt 6 t 26) (fieldAt 4 t 8))
    else if slice t 0 3 = 6 then row (slice t 3 5 == 0 && slice t 12 14 == 0) (.barvOr d (fieldAt 6 t 26) (fieldAt 4 t 8))
    else if slice t 0 3 = 7 then row (slice t 3 5 == 0 && slice t 12 14 == 0) (.barvXor d (fieldAt 6 t 26) (fieldAt 4 t 8))
    else .error .reservedValue
  | 3 => row (d == 0) (.icinv (fieldAt 6 t 10) (fieldAt 6 t 4) (fieldAt 4 t 0))
  | 4 => row (d == 0) .dsync
  | 5 => row (d == 0) .tsync
  | 6 => row (slice t 0 8 == 0 && slice t 12 8 == 0) (.cjoin d (fieldAt 6 t 26) (fieldAt 6 t 20) (fieldAt 4 t 8))
  | 7 => row (slice t 0 16 == 0) (.cleave d)
  | 8 =>
    if slice t 26 1 = 0 then row (slice t 28 4 == 0) (.cbrAny d (flagAt t 27) (fieldAt 26 t 0))
    else if slice t 26 1 = 1 then row (slice t 28 4 == 0) (.cbrAll d (flagAt t 27) (fieldAt 26 t 0))
    else .error .reservedValue
  | 9 =>
    if slice t 8 6 = 0 then row (slice t 0 8 == 0 && slice t 14 12 == 0) (.credAdd d (fieldAt 6 t 26))
    else if slice t 8 6 = 1 then row (slice t 0 8 == 0 && slice t 14 12 == 0) (.credMin d (fieldAt 6 t 26))
    else if slice t 8 6 = 2 then row (slice t 0 8 == 0 && slice t 14 12 == 0) (.credMax d (fieldAt 6 t 26))
    else if slice t 8 6 = 3 then row (slice t 0 8 == 0 && slice t 14 12 == 0) (.credMinu d (fieldAt 6 t 26))
    else if slice t 8 6 = 4 then row (slice t 0 8 == 0 && slice t 14 12 == 0) (.credMaxu d (fieldAt 6 t 26))
    else .error .reservedValue
  | 10 =>
    if slice t 0 4 = 0 then row (slice t 4 12 == 0) (.cstatGrp d)
    else if slice t 0 4 = 1 then row (slice t 4 12 == 0) (.cstatSeq d)
    else if slice t 0 4 = 2 then row (slice t 4 12 == 0) (.cstatSpec d)
    else .error .reservedValue
  | _ => .error .reservedValue

/-- Opcodes 0xA0 to 0xAF. -/
noncomputable def decodeA (o : Nat) (d : Field) (t : Nat) : Except DecodeError Instr :=
  let op : BitVec 8 := BitVec.ofNat 8 (0xA0 + o)
  match o with
  | 0 =>
    if slice t 0 1 = 0 then row true (.tld d (fieldAt 12 t 20) (fieldAt 12 t 8) (fieldAt 6 t 2) (flagAt t 1) (Sync.decode t))
    else if slice t 0 1 = 1 then row true (.tst d (fieldAt 12 t 20) (fieldAt 12 t 8) (fieldAt 6 t 2) (flagAt t 1) (Sync.decode t))
    else .error .reservedValue
  | 1 =>
    if slice t 0 1 = 0 then row (slice t 1 31 == 0) (.tzero d (Sync.decode t))
    else if slice t 0 1 = 1 then row (slice t 1 31 == 0) (.mzero d (Sync.decode t))
    else .error .reservedValue
  | 2 =>
    if slice t 3 1 = 0 then row (slice t 0 1 == 0) (.mmaBf16 (MmaArgs.decode d t) (Sync.decode t))
    else if slice t 3 1 = 1 then row (slice t 0 1 == 0) (.mmaStream op (MmaArgs.decode d t) (Sync.decode t))
    else .error .reservedValue
  | 3 =>
    if slice t 3 1 = 0 then row (slice t 0 1 == 0) (.mmaF16 (MmaArgs.decode d t) (Sync.decode t))
    else if slice t 3 1 = 1 then row (slice t 0 1 == 0) (.mmaStream op (MmaArgs.decode d t) (Sync.decode t))
    else .error .reservedValue
  | 4 =>
    if slice t 3 1 = 0 then row (slice t 0 1 == 0) (.mmaE4m3 (MmaArgs.decode d t) (Sync.decode t))
    else if slice t 3 1 = 1 then row (slice t 0 1 == 0) (.mmaStream op (MmaArgs.decode d t) (Sync.decode t))
    else .error .reservedValue
  | 5 =>
    if slice t 3 1 = 0 then row (slice t 0 1 == 0) (.mmaE5e4 (MmaArgs.decode d t) (Sync.decode t))
    else if slice t 3 1 = 1 then row (slice t 0 1 == 0) (.mmaStream op (MmaArgs.decode d t) (Sync.decode t))
    else .error .reservedValue
  | 6 =>
    if slice t 3 1 = 0 then row (slice t 0 1 == 0) (.mmaE4e5 (MmaArgs.decode d t) (Sync.decode t))
    else if slice t 3 1 = 1 then row (slice t 0 1 == 0) (.mmaStream op (MmaArgs.decode d t) (Sync.decode t))
    else .error .reservedValue
  | 7 =>
    if slice t 3 1 = 0 then row (slice t 0 1 == 0) (.mmaI8 (MmaArgs.decode d t) (Sync.decode t))
    else if slice t 3 1 = 1 then row (slice t 0 1 == 0) (.mmaStream op (MmaArgs.decode d t) (Sync.decode t))
    else .error .reservedValue
  | 8 =>
    if slice t 3 1 = 0 then row (slice t 0 1 == 0) (.mmaUi8i8 (MmaArgs.decode d t) (Sync.decode t))
    else if slice t 3 1 = 1 then row (slice t 0 1 == 0) (.mmaStream op (MmaArgs.decode d t) (Sync.decode t))
    else .error .reservedValue
  | 9 =>
    if slice t 3 1 = 0 then row (slice t 0 1 == 0) (.mmaE2m1 (MmaArgs.decode d t) (Sync.decode t))
    else if slice t 3 1 = 1 then row (slice t 0 1 == 0) (.mmaStream op (MmaArgs.decode d t) (Sync.decode t))
    else .error .reservedValue
  | 10 =>
    if slice t 3 1 = 0 then row (slice t 0 1 == 0) (.mmaTw8i8 (MmaArgs.decode d t) (Sync.decode t))
    else if slice t 3 1 = 1 then row (slice t 0 1 == 0) (.mmaStream op (MmaArgs.decode d t) (Sync.decode t))
    else .error .reservedValue
  | 11 =>
    if slice t 3 1 = 0 then row (slice t 0 1 == 0) (.mmaTw8e4 (MmaArgs.decode d t) (Sync.decode t))
    else if slice t 3 1 = 1 then row (slice t 0 1 == 0) (.mmaStream op (MmaArgs.decode d t) (Sync.decode t))
    else .error .reservedValue
  | 12 =>
    if slice t 3 1 = 0 then row (slice t 0 1 == 0) (.mmaTw8bf (MmaArgs.decode d t) (Sync.decode t))
    else if slice t 3 1 = 1 then row (slice t 0 1 == 0) (.mmaStream op (MmaArgs.decode d t) (Sync.decode t))
    else .error .reservedValue
  | 13 =>
    if slice t 0 1 = 1 then row (slice t 1 5 == 0) (.mrd (MrdArgs.decode d t) (Sync.decode t))
    else if slice t 0 1 = 0 ∧ slice t 24 1 = 0 then row (slice t 2 15 == 0) (.mst d (fieldAt 4 t 28) (fieldAt 3 t 25) (fieldAt 6 t 18) (flagAt t 17) (flagAt t 1) (Sync.decode t))
    else if slice t 0 1 = 0 ∧ slice t 24 1 = 1 then row (slice t 2 15 == 0) (.mstIn d (fieldAt 4 t 28) (fieldAt 3 t 25) (fieldAt 6 t 18) (flagAt t 17) (flagAt t 1) (Sync.decode t))
    else .error .reservedValue
  | 14 =>
    if slice t 0 4 = 0 then row (d == 0 && slice t 4 12 == 0) .mwait
    else if slice t 0 4 = 1 then row (d == 0 && slice t 4 6 == 0) (.mwaitAcc (fieldAt 6 t 10))
    else if slice t 0 4 = 2 then row (slice t 4 6 == 0) (.mstat d (fieldAt 6 t 10))
    else if slice t 0 4 = 3 then row (slice t 4 6 == 0) (.mstatC d (fieldAt 6 t 10))
    else .error .reservedValue
  | 15 =>
    if slice t 0 8 = 0 then row (d == 0 && slice t 8 18 == 0) (.mcap (fieldAt 6 t 26))
    else row true (.mcmd d (fieldAt 6 t 26) (fieldAt 6 t 20) (fieldAt 6 t 14) (fieldAt 6 t 8) (fieldAt 8 t 0))
  | _ => .error .reservedValue

/-- Opcodes 0xB0 to 0xBF. -/
noncomputable def decodeB (o : Nat) (d : Field) (t : Nat) : Except DecodeError Instr :=
  match o with
  | 0 => row (d == 0 && slice t 1 14 == 0) (.cpy (fieldAt 6 t 26) (fieldAt 6 t 20) (fieldAt 4 t 16) (flagAt t 15) (flagAt t 0) (Sync.decode t))
  | 1 => row (d == 0 && slice t 1 7 == 0) (.cpyr (fieldAt 6 t 26) (fieldAt 6 t 20) (fieldAt 4 t 16) (flagAt t 15) (fieldAt 3 t 12) (fieldAt 4 t 8) (flagAt t 0) (Sync.decode t))
  | 2 =>
    if slice t 13 1 = 0 then row (d == 0 && slice t 1 11 == 0) (.gath (fieldAt 6 t 26) (fieldAt 6 t 20) (fieldAt 6 t 14) (flagAt t 12) (flagAt t 0) (Sync.decode t))
    else if slice t 13 1 = 1 then row (d == 0 && slice t 1 11 == 0 && slice t 14 6 == 0) (.gathQ (fieldAt 6 t 26) (fieldAt 6 t 20) (flagAt t 12) (flagAt t 0) (Sync.decode t))
    else .error .reservedValue
  | 3 => row (slice t 0 14 == 0) (.kick d (fieldAt 6 t 26) (fieldAt 6 t 20) (fieldAt 6 t 14))
  | 4 => row (d == 0 && slice t 1 1 == 0) (.pull (fieldAt 12 t 20) (fieldAt 12 t 8) (fieldAt 6 t 2) (flagAt t 0) (Sync.decode t))
  | 5 => row (d == 0 && slice t 1 13 == 0) (.pack (fieldAt 6 t 26) (fieldAt 6 t 20) (fieldAt 6 t 14) (flagAt t 0) (Sync.decode t))
  | 6 => row (d == 0 && slice t 4 12 == 0) (.qfence (fieldAt 4 t 0))
  | 7 => row (d == 0 && slice t 16 2 == 0 && slice t 26 6 == 0) (.sinc (fieldAt 8 t 18) (fieldAt 16 t 0))
  | 8 =>
    if slice t 16 1 = 0 then row (d == 0 && slice t 17 1 == 0 && slice t 26 6 == 0) (.swait (fieldAt 8 t 18) (fieldAt 16 t 0))
    else if slice t 16 1 = 1 then row (slice t 17 1 == 0 && slice t 26 6 == 0) (.swaitNb d (fieldAt 8 t 18) (fieldAt 16 t 0))
    else .error .reservedValue
  | 9 => row (slice t 8 8 == 0) (.sget d (fieldAt 8 t 0))
  | 10 =>
    if slice t 16 1 = 0 then row (d == 0 && slice t 17 1 == 0 && slice t 26 6 == 0) (.sset (fieldAt 8 t 18) (fieldAt 16 t 0))
    else if slice t 16 1 = 1 then row (d == 0 && slice t 0 16 == 0 && slice t 17 1 == 0) (.ssetReg (fieldAt 6 t 26) (fieldAt 8 t 18))
    else .error .reservedValue
  | 11 => row (d == 0 && slice t 0 8 == 0 && slice t 14 12 == 0) (.lyt (fieldAt 6 t 26) (fieldAt 6 t 8))
  | 12 => row (slice t 4 6 == 0) (.lytq d (fieldAt 6 t 10) (fieldAt 4 t 0))
  | _ => .error .reservedValue

/-- Opcodes 0xC0 to 0xCF. -/
noncomputable def decodeC (o : Nat) (d : Field) (t : Nat) : Except DecodeError Instr :=
  match o with
  | 0 => row (slice t 1 19 == 0) (.onew d (fieldAt 6 t 26) (fieldAt 6 t 20) (flagAt t 0) (Sync.decode t))
  | 1 => row (slice t 1 31 == 0) (.odel d (flagAt t 0) (Sync.decode t))
  | 2 =>
    if slice t 8 6 = 0 then row (d == 0 && slice t 0 8 == 0 && slice t 14 6 == 0) (.ocfgLeak (fieldAt 6 t 26) (fieldAt 6 t 20))
    else if slice t 8 6 = 1 then row (d == 0 && slice t 0 8 == 0 && slice t 14 6 == 0) (.ocfgTheta (fieldAt 6 t 26) (fieldAt 6 t 20))
    else if slice t 8 6 = 2 then row (d == 0 && slice t 0 8 == 0 && slice t 14 6 == 0) (.ocfgUser (fieldAt 6 t 26) (fieldAt 6 t 20))
    else if slice t 8 6 = 3 then row (d == 0 && slice t 0 8 == 0 && slice t 14 6 == 0) (.ocfgType (fieldAt 6 t 26) (fieldAt 6 t 20))
    else .error .reservedValue
  | 3 =>
    if slice t 8 6 = 0 then row (slice t 0 8 == 0 && slice t 14 12 == 0) (.oget d (fieldAt 6 t 26))
    else if slice t 8 6 = 1 then row (slice t 0 8 == 0 && slice t 14 12 == 0) (.ogetRef d (fieldAt 6 t 26))
    else if slice t 8 6 = 2 then row (slice t 0 8 == 0 && slice t 14 12 == 0) (.ogetSh d (fieldAt 6 t 26))
    else if slice t 8 6 = 3 then row (slice t 0 8 == 0 && slice t 19 7 == 0) (.ogetW d (fieldAt 6 t 26) (fieldAt 5 t 14))
    else if slice t 8 6 = 4 then row (slice t 3 5 == 0 && slice t 14 12 == 0) (.ogetHd d (fieldAt 6 t 26) (fieldAt 3 t 0))
    else if slice t 8 6 = 8 then row (slice t 0 8 == 0 && slice t 14 12 == 0) (.oput d (fieldAt 6 t 26))
    else if slice t 8 6 = 9 then row (slice t 0 8 == 0 && slice t 19 7 == 0) (.oputW d (fieldAt 6 t 26) (fieldAt 5 t 14))
    else .error .reservedValue
  | 4 =>
    if slice t 8 6 = 0 then row (slice t 0 8 == 0 && slice t 14 6 == 0) (.eslot d (fieldAt 6 t 26) (fieldAt 6 t 20))
    else if slice t 8 6 = 1 then row (slice t 0 8 == 0 && slice t 14 6 == 0) (.eslotTag d (fieldAt 6 t 26) (fieldAt 6 t 20))
    else if slice t 8 6 = 2 then row (d == 0 && slice t 0 8 == 0 && slice t 14 6 == 0) (.eslotFree (fieldAt 6 t 26) (fieldAt 6 t 20))
    else .error .reservedValue
  | 5 => row (slice t 0 20 == 0) (.esend d (fieldAt 6 t 26) (fieldAt 6 t 20) (Sync.decode t))
  | 6 => row (slice t 0 15 == 0) (.esendv d (fieldAt 6 t 26) (fieldAt 6 t 20) (fieldAt 5 t 15) (Sync.decode t))
  | 7 => row (slice t 0 2 == 0 && slice t 6 2 == 0 && slice t 9 5 == 0) (.edamp d (fieldAt 6 t 26) (fieldAt 6 t 20) (fieldAt 6 t 14) (flagAt t 8) (flagAt t 5) (fieldAt 3 t 2))
  | 8 => row (slice t 0 20 == 0) (.efan d (fieldAt 6 t 26) (fieldAt 6 t 20) (Sync.decode t))
  | 9 =>
    if slice t 0 4 = 0 then row (slice t 4 6 == 0) (.etick d (fieldAt 6 t 10))
    else if slice t 0 4 = 1 then row (slice t 4 6 == 0) (.etickSet d (fieldAt 6 t 10))
    else .error .reservedValue
  | 10 => row true (.enow d)
  | 11 =>
    if slice t 8 6 = 0 then row (slice t 0 8 == 0 && slice t 14 6 == 0) (.esnap d (fieldAt 6 t 26) (fieldAt 6 t 20))
    else if slice t 8 6 = 1 then row (slice t 0 8 == 0 && slice t 14 18 == 0) (.esnapClose d)
    else .error .reservedValue
  | 12 => row (slice t 0 17 == 0 && (!flagAt t 17 || slice t 18 8 == 0)) (.esread d (fieldAt 6 t 26) (fieldAt 8 t 18) (flagAt t 17) (Sync.decode t))
  | 13 =>
    if slice t 0 4 = 0 then row (slice t 4 12 == 0) (.cvqUn d)
    else if slice t 0 4 = 1 then row (slice t 4 12 == 0) (.cvqRes d)
    else if slice t 0 4 = 2 then row (slice t 4 12 == 0) (.cvqLate d)
    else if slice t 0 4 = 3 then row (slice t 4 12 == 0) (.cvqStale d)
    else if slice t 0 4 = 4 then row (slice t 4 12 == 0) (.cvqDrop d)
    else if slice t 0 4 = 5 then row (slice t 4 12 == 0) (.cvqPend d)
    else if slice t 0 4 = 6 then row (slice t 4 12 == 0) (.cvqSent d)
    else if slice t 0 4 = 7 then row (slice t 4 12 == 0) (.cvqRecv d)
    else if slice t 0 4 = 8 then row (slice t 4 12 == 0) (.cvqSlate d)
    else if slice t 0 4 = 9 then row (slice t 4 12 == 0) (.cvqLateC d)
    else if slice t 0 4 = 10 then row (slice t 4 12 == 0) (.cvqStaleC d)
    else if slice t 0 4 = 11 then row (slice t 4 12 == 0) (.cvqDropC d)
    else if slice t 0 4 = 12 then row (slice t 4 12 == 0) (.cvqSlateC d)
    else .error .reservedValue
  | 14 => row (d == 0 && slice t 0 8 == 0) (.hnd (fieldAt 6 t 26) (fieldAt 6 t 20) (fieldAt 6 t 14) (fieldAt 6 t 8))
  | 15 =>
    if slice t 0 4 = 0 then row (slice t 4 12 == 0) (.ehold d)
    else if slice t 0 4 = 1 then row (slice t 4 12 == 0) (.eholdRel d)
    else if slice t 0 4 = 2 then row (slice t 4 12 == 0) (.eholdQ d)
    else .error .reservedValue
  | _ => .error .reservedValue

/-- Opcodes 0xD0 to 0xDF. -/
noncomputable def decodeD (o : Nat) (d : Field) (t : Nat) : Except DecodeError Instr :=
  match o with
  | 0 => row (slice t 0 20 == 0) (.tnew d (fieldAt 6 t 26) (fieldAt 6 t 20))
  | 1 =>
    if slice t 0 4 = 0 then row (d == 0 && slice t 4 6 == 0) (.tdec (fieldAt 6 t 10))
    else .error .reservedValue
  | 2 =>
    if slice t 0 4 = 0 then row (slice t 4 6 == 0) (.qclaim d (fieldAt 6 t 10))
    else .error .reservedValue
  | 3 =>
    if slice t 0 4 = 0 then row true (.qpub d (fieldAt 6 t 10) (fieldAt 6 t 4))
    else .error .reservedValue
  | 4 =>
    if slice t 0 4 = 0 then row (slice t 4 6 == 0) (.qsteal d (fieldAt 6 t 10))
    else .error .reservedValue
  | 5 =>
    if slice t 0 4 = 0 then row (slice t 4 6 == 0) (.qlen d (fieldAt 6 t 10))
    else if slice t 0 4 = 1 then row (slice t 4 6 == 0) (.qlenClaims d (fieldAt 6 t 10))
    else if slice t 0 4 = 2 then row (slice t 4 6 == 0) (.qlenSteals d (fieldAt 6 t 10))
    else if slice t 0 4 = 3 then row (slice t 4 6 == 0) (.qlenFail d (fieldAt 6 t 10))
    else .error .reservedValue
  | 6 =>
    if slice t 0 4 = 0 then row (slice t 4 6 == 0) (.qreset d (fieldAt 6 t 10))
    else if slice t 0 4 = 1 then row true (.qresetBind d (fieldAt 6 t 10) (fieldAt 6 t 4))
    else if slice t 0 4 = 2 then row (slice t 4 6 == 0) (.qresetUnbind d (fieldAt 6 t 10))
    else .error .reservedValue
  | 7 =>
    if slice t 0 4 = 0 then row (slice t 4 6 == 0) (.fcast d (fieldAt 6 t 10))
    else if slice t 0 4 = 1 then row (slice t 4 6 == 0) (.fcastQ d (fieldAt 6 t 10))
    else .error .reservedValue
  | 8 =>
    if slice t 0 4 = 0 then row (d == 0 && slice t 4 12 == 0) .tstamp
    else if slice t 0 4 = 1 then row (slice t 4 12 == 0) (.tstampNow d)
    else if slice t 0 4 = 2 then row (slice t 4 12 == 0) (.tstampQ d)
    else .error .reservedValue
  | _ => .error .reservedValue

/-- Opcodes 0xE0 to 0xEF. -/
noncomputable def decodeE (o : Nat) (d : Field) (t : Nat) : Except DecodeError Instr :=
  match o with
  | 0 => row true (.vld d (fieldAt 6 t 26) (fieldAt 3 t 23) (fieldAt 2 t 21) (fieldAt 21 t 0))
  | 1 => row true (.vst d (fieldAt 6 t 26) (fieldAt 3 t 23) (fieldAt 2 t 21) (fieldAt 21 t 0))
  | 2 => row (slice t 5 15 == 0) (.vlds d (fieldAt 6 t 26) (fieldAt 6 t 20) (fieldAt 3 t 2) (fieldAt 2 t 0))
  | 3 => row (slice t 5 3 == 0 && slice t 10 10 == 0) (.vldx d (fieldAt 6 t 26) (fieldAt 6 t 20) (fieldAt 2 t 8) (fieldAt 3 t 2) (fieldAt 2 t 0))
  | 4 => row (slice t 5 3 == 0 && slice t 10 10 == 0) (.vstx d (fieldAt 6 t 26) (fieldAt 6 t 20) (fieldAt 2 t 8) (fieldAt 3 t 2) (fieldAt 2 t 0))
  | _ => .error .reservedValue

/-- The row of an assigned opcode, its fields taken out; reserved values not yet checked. -/
noncomputable def decodeRow (op : Nat) (d : Field) (t : Nat) : Except DecodeError Instr :=
  match op / 16 with
  | 0 => decode0 (op % 16) d t
  | 1 => decode1 (op % 16) d t
  | 2 => decode2 (op % 16) d t
  | 3 => decode3 (op % 16) d t
  | 4 => decode4 (op % 16) d t
  | 5 => decode5 (op % 16) d t
  | 6 => decode6 (op % 16) d t
  | 7 => decode7 (op % 16) d t
  | 8 => decode8 (op % 16) d t
  | 9 => decode9 (op % 16) d t
  | 10 => decodeA (op % 16) d t
  | 11 => decodeB (op % 16) d t
  | 12 => decodeC (op % 16) d t
  | 13 => decodeD (op % 16) d t
  | 14 => decodeE (op % 16) d t
  | _ => .error .reservedValue

/-- The decoder (R43, R44 steps 3 and 4): an unassigned opcode is the `illop` row; else the tail class is checked, then the
rest. Where one encoding breaks several rules of ILLFMT, R43 to R45 do not say which reason FINFO gives: a value of the F, X or
mode field that selects no form gives reason 2 before the fields of any form are looked at; then a non-zero reserved field of
the selected form gives reason 1; then a reserved value of another field gives reason 2. (DESIGN CHOICE: log entry 100.) -/
noncomputable def decode (head tail : Nat) : Except DecodeError Instr :=
  let op := head / 64 % 256
  if opcodeFormat op = .dash then .ok (.illop (BitVec.ofNat 8 op))
  else if head / 16384 % 4 ≠ (opcodeFormat op).tc then .error .tailClass
  else
    match decodeRow op (BitVec.ofNat 6 head) tail with
    | .error e => .error e
    | .ok i =>
      match i.illfmt with
      | none => .ok i
      | some .field => .error .reservedField
      | some .value => .error .reservedValue

/-- A head and its tail, with the tail's size in bytes. -/
structure Code where
  head : Nat
  tail : Nat
  bytes : Nat
  deriving DecidableEq, Repr

/-- A head of class `tc`, opcode `op` and first operand `d` (R35), with its tail. -/
def Code.row (tc op : Nat) (d : Field) (tail : Nat) : Option Code :=
  some ⟨tc * 16384 + op * 64 + d.toNat, tail, tailBytes tc⟩

/-- A field's value placed at bit `lo` beside the rest of a tail. -/
def put (lo v rest : Nat) : Nat := v * 2 ^ lo + rest

/-- The encoder, row by row; a row with no encoding of its own has none. -/
def Instr.encode : Instr → Option Code
  | .nop => Code.row 0 0x01 0 0
  | .trap a code => Code.row 1 0x02 0 (put 10 a.toNat (put 0 code.toNat 0))
  | .sysc code => Code.row 1 0x03 0 (put 0 code.toNat 0)
  | .rte => Code.row 0 0x04 0 0
  | .rdc d n => Code.row 1 0x05 d (put 0 n.toNat 0)
  | .wrc a n => Code.row 1 0x06 0 (put 10 a.toNat (put 0 n.toNat 0))
  | .wrcStatus a => Code.row 1 0x06 0 (put 10 a.toNat 0)
  | .wrcFrm a => Code.row 1 0x06 0 (put 10 a.toNat (put 0 7 0))
  | .wrcDtime a => Code.row 1 0x06 0 (put 10 a.toNat (put 0 16 0))
  | .wrcChmode a => Code.row 1 0x06 0 (put 10 a.toNat (put 0 70 0))
  | .wrcBarcfg a => Code.row 1 0x06 0 (put 10 a.toNat (put 0 73 0))
  | .wrcSemstat a => Code.row 1 0x06 0 (put 10 a.toNat (put 0 77 0))
  | .wrcTshape a t => Code.row 1 0x06 0 (put 10 a.toNat (put 3 10 (put 0 t.toNat 0)))
  | .wrcAcfg a k => Code.row 1 0x06 0 (put 10 a.toNat (put 2 22 (put 0 k.toNat 0)))
  | .wrcEtcfg a => Code.row 1 0x06 0 (put 10 a.toNat (put 0 99 0))
  | .wrcForecast a => Code.row 1 0x06 0 (put 10 a.toNat (put 0 104 0))
  | .wrcRampup a => Code.row 1 0x06 0 (put 10 a.toNat (put 0 320 0))
  | .wrcRampdn a => Code.row 1 0x06 0 (put 10 a.toNat (put 0 321 0))
  | .tlbinv a b s => Code.row 2 0x07 0 (put 26 a.toNat (put 20 b.toNat (put 8 s.toNat 0)))
  | .tlbinvAll s => Code.row 2 0x07 0 (put 12 1 (put 8 s.toNat 0))
  | .wfi => Code.row 0 0x08 0 0
  | .hcall d a b => Code.row 1 0x09 d (put 10 a.toNat (put 4 b.toNat 0))
  | .migr d a b se x => Code.row 2 0x0A d (put 26 a.toNat (put 20 b.toNat (put 8 se.toNat (put 0 x.toNat 0))))
  | .ssave d a b => Code.row 1 0x0B d (put 10 a.toNat (put 4 b.toNat 0))
  | .ssaveCore d b => Code.row 1 0x0B d (put 4 b.toNat (put 0 1 0))
  | .ssaveAck d => Code.row 1 0x0B d (put 0 2 0)
  | .srest d a b => Code.row 1 0x0C d (put 10 a.toNat (put 4 b.toNat 0))
  | .srestCore d b => Code.row 1 0x0C d (put 4 b.toNat (put 0 1 0))
  | .resync d a => Code.row 1 0x0D d (put 10 a.toNat 0)
  | .start d a b n v p => Code.row 2 0x10 d (put 26 a.toNat (put 20 b.toNat (put 11 v.toNat (put 8 n.toNat (put 0 p.toNat 0)))))
  | .startNb d a b n v p => Code.row 2 0x10 d (put 26 a.toNat (put 20 b.toNat (put 11 v.toNat (put 8 n.toNat (put 2 1 (put 0 p.toNat 0))))))
  | .startAt d a b c n v p => Code.row 2 0x10 d (put 26 a.toNat (put 20 b.toNat (put 14 c.toNat (put 11 v.toNat (put 8 n.toNat (put 2 2 (put 0 p.toNat 0)))))))
  | .startAtNb d a b c n v p => Code.row 2 0x10 d (put 26 a.toNat (put 20 b.toNat (put 14 c.toNat (put 11 v.toNat (put 8 n.toNat (put 2 3 (put 0 p.toNat 0)))))))
  | .exit => Code.row 0 0x11 0 0
  | .cwait d a => Code.row 1 0x12 d (put 10 a.toNat 0)
  | .yield => Code.row 0 0x13 0 0
  | .park => Code.row 0 0x14 0 0
  | .wake a => Code.row 1 0x15 0 (put 10 a.toNat 0)
  | .grow d n v => Code.row 1 0x16 d (put 10 n.toNat (put 4 v.toNat 0))
  | .growNb d n v => Code.row 1 0x16 d (put 10 n.toNat (put 4 v.toNat (put 0 1 0)))
  | .shrink n v => Code.row 1 0x17 0 (put 10 n.toNat (put 4 v.toNat 0))
  | .allot d a => Code.row 1 0x18 d (put 10 a.toNat 0)
  | .gangQuad d a => Code.row 1 0x19 d (put 10 a.toNat 0)
  | .gangClus d a => Code.row 1 0x19 d (put 10 a.toNat (put 0 1 0))
  | .split => Code.row 0 0x1A 0 0
  | .prio d a => Code.row 1 0x1B d (put 10 a.toNat 0)
  | .add d a b => Code.row 1 0x20 d (put 10 a.toNat (put 4 b.toNat 0))
  | .sub d a b => Code.row 1 0x20 d (put 10 a.toNat (put 4 b.toNat (put 0 1 0)))
  | .mul d a b => Code.row 1 0x21 d (put 10 a.toNat (put 4 b.toNat 0))
  | .mulh d a b => Code.row 1 0x21 d (put 10 a.toNat (put 4 b.toNat (put 0 1 0)))
  | .mulhu d a b => Code.row 1 0x21 d (put 10 a.toNat (put 4 b.toNat (put 0 2 0)))
  | .div d a b => Code.row 1 0x22 d (put 10 a.toNat (put 4 b.toNat 0))
  | .divu d a b => Code.row 1 0x22 d (put 10 a.toNat (put 4 b.toNat (put 0 1 0)))
  | .rem d a b => Code.row 1 0x23 d (put 10 a.toNat (put 4 b.toNat 0))
  | .remu d a b => Code.row 1 0x23 d (put 10 a.toNat (put 4 b.toNat (put 0 1 0)))
  | .and d a b => Code.row 1 0x24 d (put 10 a.toNat (put 4 b.toNat 0))
  | .or d a b => Code.row 1 0x24 d (put 10 a.toNat (put 4 b.toNat (put 0 1 0)))
  | .xor d a b => Code.row 1 0x24 d (put 10 a.toNat (put 4 b.toNat (put 0 2 0)))
  | .andn d a b => Code.row 1 0x24 d (put 10 a.toNat (put 4 b.toNat (put 0 3 0)))
  | .orn d a b => Code.row 1 0x24 d (put 10 a.toNat (put 4 b.toNat (put 0 4 0)))
  | .shl d a b => Code.row 1 0x25 d (put 10 a.toNat (put 4 b.toNat 0))
  | .shr d a b => Code.row 1 0x25 d (put 10 a.toNat (put 4 b.toNat (put 0 1 0)))
  | .sra d a b => Code.row 1 0x25 d (put 10 a.toNat (put 4 b.toNat (put 0 2 0)))
  | .rot d a b => Code.row 1 0x25 d (put 10 a.toNat (put 4 b.toNat (put 0 3 0)))
  | .clz d a => Code.row 1 0x26 d (put 10 a.toNat 0)
  | .ctz d a => Code.row 1 0x26 d (put 10 a.toNat (put 0 1 0))
  | .popc d a => Code.row 1 0x26 d (put 10 a.toNat (put 0 2 0))
  | .abs d a => Code.row 1 0x26 d (put 10 a.toNat (put 0 3 0))
  | .min d a b => Code.row 1 0x27 d (put 10 a.toNat (put 4 b.toNat 0))
  | .max d a b => Code.row 1 0x27 d (put 10 a.toNat (put 4 b.toNat (put 0 1 0)))
  | .minu d a b => Code.row 1 0x27 d (put 10 a.toNat (put 4 b.toNat (put 0 2 0)))
  | .maxu d a b => Code.row 1 0x27 d (put 10 a.toNat (put 4 b.toNat (put 0 3 0)))
  | .sext d a n => Code.row 1 0x28 d (put 10 a.toNat (put 4 n.toNat 0))
  | .zext d a n => Code.row 1 0x29 d (put 10 a.toNat (put 4 n.toNat 0))
  | .bfx d a pos len => Code.row 2 0x2A d (put 26 a.toNat (put 8 pos.toNat (put 0 len.toNat 0)))
  | .bfxS d a pos len => Code.row 2 0x2A d (put 26 a.toNat (put 8 pos.toNat (put 7 1 (put 0 len.toNat 0))))
  | .bfi d a pos len => Code.row 2 0x2B d (put 26 a.toNat (put 8 pos.toNat (put 0 len.toNat 0)))
  | .shadd d a b s => Code.row 1 0x2C d (put 10 a.toNat (put 4 b.toNat (put 0 s.toNat 0)))
  | .mov d a => Code.row 1 0x2D d (put 10 a.toNat 0)
  | .sel d a b c => Code.row 2 0x2E d (put 26 a.toNat (put 20 b.toNat (put 14 c.toNat 0)))
  | .cmp d a b c => Code.row 1 0x2F d (put 10 a.toNat (put 4 b.toNat (put 0 c.toNat 0)))
  | .addi d a i => Code.row 1 0x30 d (put 10 a.toNat (put 0 i.toNat 0))
  | .andi d a i => Code.row 1 0x31 d (put 10 a.toNat (put 0 i.toNat 0))
  | .ori d a i => Code.row 1 0x32 d (put 10 a.toNat (put 0 i.toNat 0))
  | .xori d a i => Code.row 1 0x33 d (put 10 a.toNat (put 0 i.toNat 0))
  | .shli d a s => Code.row 1 0x34 d (put 10 a.toNat (put 0 s.toNat 0))
  | .shri d a s => Code.row 1 0x35 d (put 10 a.toNat (put 0 s.toNat 0))
  | .srai d a s => Code.row 1 0x36 d (put 10 a.toNat (put 0 s.toNat 0))
  | .roti d a s => Code.row 1 0x37 d (put 10 a.toNat (put 0 s.toNat 0))
  | .cmpi d a c i => Code.row 2 0x38 d (put 26 a.toNat (put 22 c.toNat (put 0 i.toNat 0)))
  | .ldi26 d i => Code.row 2 0x39 d (put 0 i.toNat 0)
  | .ldi64 d i => Code.row 3 0x3A d (put 0 i.toNat 0)
  | .br d a c i => Code.row 2 0x40 d (put 26 a.toNat (put 22 c.toNat (put 0 i.toNat 0)))
  | .bz d i => Code.row 2 0x41 d (put 0 i.toNat 0)
  | .bnz d i => Code.row 2 0x42 d (put 0 i.toNat 0)
  | .j i => Code.row 2 0x43 0 (put 0 i.toNat 0)
  | .jal d i => Code.row 2 0x44 d (put 0 i.toNat 0)
  | .jr a => Code.row 1 0x45 0 (put 10 a.toNat 0)
  | .jalr d a => Code.row 1 0x46 d (put 10 a.toNat 0)
  | .jtab d a b => Code.row 2 0x47 d (put 26 a.toNat (put 20 b.toNat 0))
  | .loop d i => Code.row 2 0x48 d (put 0 i.toNat 0)
  | .halt => Code.row 0 0x49 0 0
  | .brk code => Code.row 1 0x4A 0 (put 0 code.toNat 0)
  | .fadd d a b m => Code.row 2 0x50 d (put 26 a.toNat (put 20 b.toNat (put 8 m.toNat 0)))
  | .fsub d a b m => Code.row 2 0x51 d (put 26 a.toNat (put 20 b.toNat (put 8 m.toNat 0)))
  | .fmul d a b m => Code.row 2 0x52 d (put 26 a.toNat (put 20 b.toNat (put 8 m.toNat 0)))
  | .fma d a b c m => Code.row 2 0x53 d (put 26 a.toNat (put 20 b.toNat (put 14 c.toNat (put 8 m.toNat 0))))
  | .fnma d a b c m => Code.row 2 0x54 d (put 26 a.toNat (put 20 b.toNat (put 14 c.toNat (put 8 m.toNat 0))))
  | .fdiv d a b m => Code.row 2 0x55 d (put 26 a.toNat (put 20 b.toNat (put 8 m.toNat 0)))
  | .fsqrt d a m => Code.row 2 0x56 d (put 26 a.toNat (put 8 m.toNat 0))
  | .fmin d a b => Code.row 2 0x57 d (put 26 a.toNat (put 20 b.toNat 0))
  | .fmax d a b => Code.row 2 0x57 d (put 26 a.toNat (put 20 b.toNat (put 8 1 0)))
  | .fsgnCp d a b => Code.row 2 0x58 d (put 26 a.toNat (put 20 b.toNat 0))
  | .fsgnNeg d a b => Code.row 2 0x58 d (put 26 a.toNat (put 20 b.toNat (put 8 1 0)))
  | .fsgnXor d a b => Code.row 2 0x58 d (put 26 a.toNat (put 20 b.toNat (put 8 2 0)))
  | .fcmp d a b c => Code.row 2 0x59 d (put 26 a.toNat (put 20 b.toNat (put 8 c.toNat 0)))
  | .fclass d a f => Code.row 1 0x5A d (put 10 a.toNat (put 0 f.toNat 0))
  | .fcvt d a m dst src => Code.row 2 0x5B d (put 26 a.toNat (put 8 m.toNat (put 4 dst.toNat (put 0 src.toNat 0))))
  | .fmovFF d a => Code.row 1 0x5C d (put 10 a.toNat 0)
  | .fmovFG d a => Code.row 1 0x5C d (put 10 a.toNat (put 0 1 0))
  | .fmovGF d a => Code.row 1 0x5C d (put 10 a.toNat (put 0 2 0))
  | .fldi d i => Code.row 3 0x5D d (put 0 i.toNat 0)
  | .fsr d a b dst src => Code.row 2 0x5E d (put 26 a.toNat (put 20 b.toNat (put 4 dst.toNat (put 0 src.toNat 0))))
  | .fsrDraw d => Code.row 2 0x5E d (put 8 1 0)
  | .fscl d a byte fmt => Code.row 2 0x5F d (put 26 a.toNat (put 8 byte.toNat (put 0 fmt.toNat 0)))
  | .vadd v sat => Code.row 2 0x60 v.d (put 9 sat.toNat v.tail)
  | .vsub v sat => Code.row 2 0x60 v.d (put 9 sat.toNat (put 8 1 v.tail))
  | .vmul v => Code.row 2 0x61 v.d v.tail
  | .vmulh v => Code.row 2 0x61 v.d (put 8 1 v.tail)
  | .vmulhU v => Code.row 2 0x61 v.d (put 8 2 v.tail)
  | .vmacc v sat => Code.row 2 0x62 v.d (put 9 sat.toNat v.tail)
  | .vmin v u => Code.row 2 0x63 v.d (put 9 u.toNat v.tail)
  | .vmax v u => Code.row 2 0x63 v.d (put 9 u.toNat (put 8 1 v.tail))
  | .vabs v sat => Code.row 2 0x64 v.d (put 8 sat.toNat v.tail)
  | .vand v => Code.row 2 0x65 v.d v.tail
  | .vor v => Code.row 2 0x65 v.d (put 8 1 v.tail)
  | .vxor v => Code.row 2 0x65 v.d (put 8 2 v.tail)
  | .vandn v => Code.row 2 0x65 v.d (put 8 3 v.tail)
  | .vshl v => Code.row 2 0x66 v.d v.tail
  | .vshr v => Code.row 2 0x66 v.d (put 8 1 v.tail)
  | .vsra v => Code.row 2 0x66 v.d (put 8 2 v.tail)
  | .vrshr v range ev => Code.row 2 0x6F v.d (put 10 ev.toNat (put 8 range.toNat v.tail))
  | .vdot v f => Code.row 2 0x76 v.d (put 8 f.toNat v.tail)
  | .vcmp v fp c => Code.row 2 0x67 v.d (put 12 fp.toNat (put 8 c.toNat v.tail))
  | .vsel d a b k w => Code.row 2 0x68 d (put 26 a.toNat (put 20 b.toNat (put 2 k.toNat (put 0 w.toNat 0))))
  | .vsplat v fp => Code.row 2 0x69 v.d (put 8 fp.toNat v.tail)
  | .vmov v => Code.row 2 0x6A v.d v.tail
  | .vmovX d a c sx w => Code.row 2 0x6A d (put 26 a.toNat (put 14 c.toNat (put 8 (1 + sx.toNat) (put 0 w.toNat 0))))
  | .vmovI d a c w => Code.row 2 0x6A d (put 26 a.toNat (put 14 c.toNat (put 8 3 (put 0 w.toNat 0))))
  | .vperm v => Code.row 2 0x6B v.d v.tail
  | .vperm2 v c => Code.row 2 0x6B v.d (put 14 c.toNat (put 8 1 v.tail))
  | .vslideDn v c => Code.row 2 0x6C v.d (put 14 c.toNat v.tail)
  | .vslideUp v c => Code.row 2 0x6C v.d (put 14 c.toNat (put 8 1 v.tail))
  | .vzipLo v => Code.row 2 0x6D v.d v.tail
  | .vzipHi v => Code.row 2 0x6D v.d (put 8 2 v.tail)
  | .vunzipEv v => Code.row 2 0x6D v.d (put 8 1 v.tail)
  | .vunzipOd v => Code.row 2 0x6D v.d (put 8 3 v.tail)
  | .vredadd d a k w u fp => Code.row 2 0x6E d (put 26 a.toNat (put 11 fp.toNat (put 10 u.toNat (put 2 k.toNat (put 0 w.toNat 0)))))
  | .vredmin d a k w u fp => Code.row 2 0x6E d (put 26 a.toNat (put 11 fp.toNat (put 10 u.toNat (put 8 1 (put 2 k.toNat (put 0 w.toNat 0))))))
  | .vredmax d a k w u fp => Code.row 2 0x6E d (put 26 a.toNat (put 11 fp.toNat (put 10 u.toNat (put 8 2 (put 2 k.toNat (put 0 w.toNat 0))))))
  | .vfadd v m => Code.row 2 0x70 v.d (put 8 m.toNat v.tail)
  | .vfsub v m => Code.row 2 0x70 v.d (put 11 1 (put 8 m.toNat v.tail))
  | .vfmul v m => Code.row 2 0x71 v.d (put 8 m.toNat v.tail)
  | .vfma v c m => Code.row 2 0x72 v.d (put 14 c.toNat (put 8 m.toNat v.tail))
  | .vfnma v c m => Code.row 2 0x72 v.d (put 14 c.toNat (put 11 1 (put 8 m.toNat v.tail)))
  | .vfmin v => Code.row 2 0x73 v.d v.tail
  | .vfmax v => Code.row 2 0x73 v.d (put 8 1 v.tail)
  | .vcvt d a k z m p dst src => Code.row 2 0x74 d (put 26 a.toNat (put 17 z.toNat (put 14 k.toNat (put 11 p.toNat (put 8 m.toNat (put 4 dst.toNat (put 0 src.toNat 0)))))))
  | .vpack v sat => Code.row 2 0x75 v.d (put 9 sat.toNat v.tail)
  | .vunpack v sx hi => Code.row 2 0x75 v.d (put 10 hi.toNat (put 9 sx.toNat (put 8 1 v.tail)))
  | .kopAnd d a b => Code.row 1 0x77 d (put 10 a.toNat (put 4 b.toNat 0))
  | .kopOr d a b => Code.row 1 0x77 d (put 10 a.toNat (put 4 b.toNat (put 0 1 0)))
  | .kopXor d a b => Code.row 1 0x77 d (put 10 a.toNat (put 4 b.toNat (put 0 2 0)))
  | .kopAndn d a b => Code.row 1 0x77 d (put 10 a.toNat (put 4 b.toNat (put 0 3 0)))
  | .kopNot d a => Code.row 1 0x77 d (put 10 a.toNat (put 0 4 0))
  | .kopFromg d a => Code.row 1 0x77 d (put 10 a.toNat (put 0 5 0))
  | .kopTog d a => Code.row 1 0x77 d (put 10 a.toNat (put 0 6 0))
  | .kopLo d a => Code.row 1 0x77 d (put 10 a.toNat (put 0 7 0))
  | .kpop d a w => Code.row 1 0x78 d (put 10 a.toNat (put 0 w.toNat 0))
  | .kfirst d a w => Code.row 1 0x79 d (put 10 a.toNat (put 0 w.toNat 0))
  | .vld d a k w disp => Code.row 2 0xE0 d (put 26 a.toNat (put 23 k.toNat (put 21 w.toNat (put 0 disp.toNat 0))))
  | .vst d a k w disp => Code.row 2 0xE1 d (put 26 a.toNat (put 23 k.toNat (put 21 w.toNat (put 0 disp.toNat 0))))
  | .vlds d a b k w => Code.row 2 0xE2 d (put 26 a.toNat (put 20 b.toNat (put 2 k.toNat (put 0 w.toNat 0))))
  | .vldx d a b sc k w => Code.row 2 0xE3 d (put 26 a.toNat (put 20 b.toNat (put 8 sc.toNat (put 2 k.toNat (put 0 w.toNat 0)))))
  | .vstx d a b sc k w => Code.row 2 0xE4 d (put 26 a.toNat (put 20 b.toNat (put 8 sc.toNat (put 2 k.toNat (put 0 w.toNat 0)))))
  | .ld d a sz sx disp => Code.row 2 0x80 d (put 26 a.toNat (put 24 sz.toNat (put 23 sx.toNat (put 0 disp.toNat 0))))
  | .st d a sz disp => Code.row 2 0x81 d (put 26 a.toNat (put 24 sz.toNat (put 0 disp.toNat 0)))
  | .stA d a sz disp => Code.row 2 0x81 d (put 26 a.toNat (put 24 sz.toNat (put 23 1 (put 0 disp.toNat 0))))
  | .ldfe d a disp => Code.row 2 0x82 d (put 26 a.toNat (put 24 1 (put 0 disp.toNat 0)))
  | .ldfeE d a disp => Code.row 2 0x82 d (put 26 a.toNat (put 24 2 (put 0 disp.toNat 0)))
  | .stfe d a disp => Code.row 2 0x83 d (put 26 a.toNat (put 24 3 (put 0 disp.toNat 0)))
  | .feset a => Code.row 1 0x84 0 (put 10 a.toNat 0)
  | .feclr a => Code.row 1 0x84 0 (put 10 a.toNat (put 0 1 0))
  | .amoAdd d a b sz p => Code.row 2 0x85 d (put 26 a.toNat (put 20 b.toNat (put 2 p.toNat (put 0 sz.toNat 0))))
  | .amoAnd d a b sz p => Code.row 2 0x85 d (put 26 a.toNat (put 20 b.toNat (put 8 1 (put 2 p.toNat (put 0 sz.toNat 0)))))
  | .amoOr d a b sz p => Code.row 2 0x85 d (put 26 a.toNat (put 20 b.toNat (put 8 2 (put 2 p.toNat (put 0 sz.toNat 0)))))
  | .amoXor d a b sz p => Code.row 2 0x85 d (put 26 a.toNat (put 20 b.toNat (put 8 3 (put 2 p.toNat (put 0 sz.toNat 0)))))
  | .amoSwap d a b sz p => Code.row 2 0x85 d (put 26 a.toNat (put 20 b.toNat (put 8 4 (put 2 p.toNat (put 0 sz.toNat 0)))))
  | .amoMin d a b sz p => Code.row 2 0x85 d (put 26 a.toNat (put 20 b.toNat (put 8 5 (put 2 p.toNat (put 0 sz.toNat 0)))))
  | .amoMax d a b sz p => Code.row 2 0x85 d (put 26 a.toNat (put 20 b.toNat (put 8 6 (put 2 p.toNat (put 0 sz.toNat 0)))))
  | .amoMinu d a b sz p => Code.row 2 0x85 d (put 26 a.toNat (put 20 b.toNat (put 8 7 (put 2 p.toNat (put 0 sz.toNat 0)))))
  | .amoMaxu d a b sz p => Code.row 2 0x85 d (put 26 a.toNat (put 20 b.toNat (put 8 8 (put 2 p.toNat (put 0 sz.toNat 0)))))
  | .amofAdd d a b fmt p => Code.row 2 0x86 d (put 26 a.toNat (put 20 b.toNat (put 2 p.toNat (put 0 fmt.toNat 0))))
  | .amofMin d a b fmt p => Code.row 2 0x86 d (put 26 a.toNat (put 20 b.toNat (put 8 1 (put 2 p.toNat (put 0 fmt.toNat 0)))))
  | .amofMax d a b fmt p => Code.row 2 0x86 d (put 26 a.toNat (put 20 b.toNat (put 8 2 (put 2 p.toNat (put 0 fmt.toNat 0)))))
  | .cas d a b c sz => Code.row 2 0x87 d (put 26 a.toNat (put 20 b.toNat (put 14 c.toNat (put 0 sz.toNat 0))))
  | .prefC a disp => Code.row 2 0x88 0 (put 26 a.toNat (put 0 disp.toNat 0))
  | .prefT a disp => Code.row 2 0x88 0 (put 26 a.toNat (put 24 1 (put 0 disp.toNat 0)))
  | .prefX a disp => Code.row 2 0x88 0 (put 26 a.toNat (put 24 2 (put 0 disp.toNat 0)))
  | .seal a b s => Code.row 2 0x89 0 (put 26 a.toNat (put 20 b.toNat (put 8 s.toNat 0)))
  | .unseal a b s => Code.row 2 0x8A 0 (put 26 a.toNat (put 20 b.toNat (put 8 s.toNat 0)))
  | .sealq d a => Code.row 1 0x8B d (put 10 a.toNat 0)
  | .hgive a b => Code.row 1 0x8C 0 (put 10 a.toNat (put 4 b.toNat 0))
  | .htake d a => Code.row 1 0x8C d (put 10 a.toNat (put 0 1 0))
  | .spld d a sz sx disp => Code.row 2 0x8D d (put 26 a.toNat (put 24 sz.toNat (put 23 sx.toNat (put 0 disp.toNat 0))))
  | .spst d a sz disp => Code.row 2 0x8E d (put 26 a.toNat (put 24 sz.toNat (put 0 disp.toNat 0)))
  | .lea d a disp => Code.row 2 0x8F d (put 26 a.toNat (put 0 disp.toNat 0))
  | .leaG d a disp => Code.row 2 0x8F d (put 26 a.toNat (put 24 1 (put 0 disp.toNat 0)))
  | .leaGs d a disp => Code.row 2 0x8F d (put 26 a.toNat (put 24 2 (put 0 disp.toNat 0)))
  | .fenceLd s => Code.row 1 0x90 0 (put 0 s.toNat 0)
  | .fenceSt s => Code.row 1 0x90 0 (put 10 1 (put 0 s.toNat 0))
  | .fence s => Code.row 1 0x90 0 (put 10 2 (put 0 s.toNat 0))
  | .fenceEng s => Code.row 1 0x90 0 (put 10 3 (put 0 s.toNat 0))
  | .bar s => Code.row 1 0x91 0 (put 0 s.toNat 0)
  | .barvAdd d a s => Code.row 2 0x92 d (put 26 a.toNat (put 8 s.toNat 0))
  | .barvMin d a s => Code.row 2 0x92 d (put 26 a.toNat (put 8 s.toNat (put 0 1 0)))
  | .barvMax d a s => Code.row 2 0x92 d (put 26 a.toNat (put 8 s.toNat (put 0 2 0)))
  | .barvMinu d a s => Code.row 2 0x92 d (put 26 a.toNat (put 8 s.toNat (put 0 3 0)))
  | .barvMaxu d a s => Code.row 2 0x92 d (put 26 a.toNat (put 8 s.toNat (put 0 4 0)))
  | .barvAnd d a s => Code.row 2 0x92 d (put 26 a.toNat (put 8 s.toNat (put 0 5 0)))
  | .barvOr d a s => Code.row 2 0x92 d (put 26 a.toNat (put 8 s.toNat (put 0 6 0)))
  | .barvXor d a s => Code.row 2 0x92 d (put 26 a.toNat (put 8 s.toNat (put 0 7 0)))
  | .icinv a b s => Code.row 1 0x93 0 (put 10 a.toNat (put 4 b.toNat (put 0 s.toNat 0)))
  | .dsync => Code.row 0 0x94 0 0
  | .tsync => Code.row 0 0x95 0 0
  | .cjoin d a b s => Code.row 2 0x96 d (put 26 a.toNat (put 20 b.toNat (put 8 s.toNat 0)))
  | .cleave d => Code.row 1 0x97 d 0
  | .cbrAny d hint i => Code.row 2 0x98 d (put 27 hint.toNat (put 0 i.toNat 0))
  | .cbrAll d hint i => Code.row 2 0x98 d (put 27 hint.toNat (put 26 1 (put 0 i.toNat 0)))
  | .credAdd d a => Code.row 2 0x99 d (put 26 a.toNat 0)
  | .credMin d a => Code.row 2 0x99 d (put 26 a.toNat (put 8 1 0))
  | .credMax d a => Code.row 2 0x99 d (put 26 a.toNat (put 8 2 0))
  | .credMinu d a => Code.row 2 0x99 d (put 26 a.toNat (put 8 3 0))
  | .credMaxu d a => Code.row 2 0x99 d (put 26 a.toNat (put 8 4 0))
  | .cstatGrp d => Code.row 1 0x9A d 0
  | .cstatSeq d => Code.row 1 0x9A d (put 0 1 0)
  | .cstatSpec d => Code.row 1 0x9A d (put 0 2 0)
  | .tld d c1 c0 lt dir y => Code.row 3 0xA0 d (put 20 c1.toNat (put 8 c0.toNat (put 2 lt.toNat (put 1 dir.toNat y.tail))))
  | .tst d c1 c0 lt dir y => Code.row 3 0xA0 d (put 20 c1.toNat (put 8 c0.toNat (put 2 lt.toNat (put 1 dir.toNat (put 0 1 y.tail)))))
  | .tzero d y => Code.row 3 0xA1 d y.tail
  | .mzero d y => Code.row 3 0xA1 d (put 0 1 y.tail)
  | .mmaBf16 m y => Code.row 3 0xA2 m.d (m.tail + y.tail)
  | .mmaF16 m y => Code.row 3 0xA3 m.d (m.tail + y.tail)
  | .mmaE4m3 m y => Code.row 3 0xA4 m.d (m.tail + y.tail)
  | .mmaE5e4 m y => Code.row 3 0xA5 m.d (m.tail + y.tail)
  | .mmaE4e5 m y => Code.row 3 0xA6 m.d (m.tail + y.tail)
  | .mmaI8 m y => Code.row 3 0xA7 m.d (m.tail + y.tail)
  | .mmaUi8i8 m y => Code.row 3 0xA8 m.d (m.tail + y.tail)
  | .mmaE2m1 m y => Code.row 3 0xA9 m.d (m.tail + y.tail)
  | .mmaTw8i8 m y => Code.row 3 0xAA m.d (m.tail + y.tail)
  | .mmaTw8e4 m y => Code.row 3 0xAB m.d (m.tail + y.tail)
  | .mmaTw8bf m y => Code.row 3 0xAC m.d (m.tail + y.tail)
  | .mmaStream op m y => Code.row 3 op.toNat m.d (put 3 1 (m.tail + y.tail))
  | .mrd m y => Code.row 3 0xAD m.d (put 0 1 (m.tail + y.tail))
  | .mst d fmt rm lt dir rpt y => Code.row 3 0xAD d (put 28 fmt.toNat (put 25 rm.toNat (put 18 lt.toNat (put 17 dir.toNat (put 1 rpt.toNat y.tail)))))
  | .mstIn d fmt rm lt dir rpt y => Code.row 3 0xAD d (put 28 fmt.toNat (put 25 rm.toNat (put 24 1 (put 18 lt.toNat (put 17 dir.toNat (put 1 rpt.toNat y.tail))))))
  | .mwait => Code.row 1 0xAE 0 0
  | .mwaitAcc a => Code.row 1 0xAE 0 (put 10 a.toNat (put 0 1 0))
  | .mstat d a => Code.row 1 0xAE d (put 10 a.toNat (put 0 2 0))
  | .mstatC d a => Code.row 1 0xAE d (put 10 a.toNat (put 0 3 0))
  | .mcmd d a b c r x => Code.row 2 0xAF d (put 26 a.toNat (put 20 b.toNat (put 14 c.toNat (put 8 r.toNat (put 0 x.toNat 0)))))
  | .mcap a => Code.row 2 0xAF 0 (put 26 a.toNat 0)
  | .cpy slt dlt rank res rpt y => Code.row 3 0xB0 0 (put 26 slt.toNat (put 20 dlt.toNat (put 16 rank.toNat (put 15 res.toNat (put 0 rpt.toNat y.tail)))))
  | .cpyr slt dlt rank res op fmt rpt y => Code.row 3 0xB1 0 (put 26 slt.toNat (put 20 dlt.toNat (put 16 rank.toNat (put 15 res.toNat (put 12 op.toNat (put 8 fmt.toNat (put 0 rpt.toNat y.tail)))))))
  | .gath slt ilt dlt res rpt y => Code.row 3 0xB2 0 (put 26 slt.toNat (put 20 ilt.toNat (put 14 dlt.toNat (put 12 res.toNat (put 0 rpt.toNat y.tail)))))
  | .gathQ slt ilt res rpt y => Code.row 3 0xB2 0 (put 26 slt.toNat (put 20 ilt.toNat (put 13 1 (put 12 res.toNat (put 0 rpt.toNat y.tail)))))
  | .pack slt mlt dlt rpt y => Code.row 3 0xB5 0 (put 26 slt.toNat (put 20 mlt.toNat (put 14 dlt.toNat (put 0 rpt.toNat y.tail))))
  | .pull c1 c0 lt rpt y => Code.row 3 0xB4 0 (put 20 c1.toNat (put 8 c0.toNat (put 2 lt.toNat (put 0 rpt.toNat y.tail))))
  | .kick d a b c => Code.row 2 0xB3 d (put 26 a.toNat (put 20 b.toNat (put 14 c.toNat 0)))
  | .qfence m => Code.row 1 0xB6 0 (put 0 m.toNat 0)
  | .sinc s n => Code.row 2 0xB7 0 (put 18 s.toNat (put 0 n.toNat 0))
  | .swait s n => Code.row 2 0xB8 0 (put 18 s.toNat (put 0 n.toNat 0))
  | .swaitNb d s n => Code.row 2 0xB8 d (put 18 s.toNat (put 16 1 (put 0 n.toNat 0)))
  | .sget d s => Code.row 1 0xB9 d (put 0 s.toNat 0)
  | .sset s n => Code.row 2 0xBA 0 (put 18 s.toNat (put 0 n.toNat 0))
  | .ssetReg a s => Code.row 2 0xBA 0 (put 26 a.toNat (put 18 s.toNat (put 16 1 0)))
  | .lyt a lt => Code.row 2 0xBB 0 (put 26 a.toNat (put 8 lt.toNat 0))
  | .lytq d lt w => Code.row 1 0xBC d (put 10 lt.toNat (put 0 w.toNat 0))
  | .onew d b c rpt y => Code.row 3 0xC0 d (put 26 b.toNat (put 20 c.toNat (put 0 rpt.toNat y.tail)))
  | .odel d rpt y => Code.row 3 0xC1 d (put 0 rpt.toNat y.tail)
  | .ocfgLeak a b => Code.row 2 0xC2 0 (put 26 a.toNat (put 20 b.toNat 0))
  | .ocfgTheta a b => Code.row 2 0xC2 0 (put 26 a.toNat (put 20 b.toNat (put 8 1 0)))
  | .ocfgUser a b => Code.row 2 0xC2 0 (put 26 a.toNat (put 20 b.toNat (put 8 2 0)))
  | .ocfgType a b => Code.row 2 0xC2 0 (put 26 a.toNat (put 20 b.toNat (put 8 3 0)))
  | .oget d a => Code.row 2 0xC3 d (put 26 a.toNat 0)
  | .ogetRef d a => Code.row 2 0xC3 d (put 26 a.toNat (put 8 1 0))
  | .ogetSh d a => Code.row 2 0xC3 d (put 26 a.toNat (put 8 2 0))
  | .ogetW d a w => Code.row 2 0xC3 d (put 26 a.toNat (put 14 w.toNat (put 8 3 0)))
  | .ogetHd d a n => Code.row 2 0xC3 d (put 26 a.toNat (put 8 4 (put 0 n.toNat 0)))
  | .oput d a => Code.row 2 0xC3 d (put 26 a.toNat (put 8 8 0))
  | .oputW d a w => Code.row 2 0xC3 d (put 26 a.toNat (put 14 w.toNat (put 8 9 0)))
  | .eslot d a b => Code.row 2 0xC4 d (put 26 a.toNat (put 20 b.toNat 0))
  | .eslotTag d a b => Code.row 2 0xC4 d (put 26 a.toNat (put 20 b.toNat (put 8 1 0)))
  | .eslotFree a b => Code.row 2 0xC4 0 (put 26 a.toNat (put 20 b.toNat (put 8 2 0)))
  | .esend d b c y => Code.row 3 0xC5 d (put 26 b.toNat (put 20 c.toNat y.tail))
  | .esendv d b c n y => Code.row 3 0xC6 d (put 26 b.toNat (put 20 c.toNat (put 15 n.toNat y.tail)))
  | .edamp d a b c fc z k => Code.row 2 0xC7 d (put 26 a.toNat (put 20 b.toNat (put 14 c.toNat (put 8 fc.toNat (put 5 z.toNat (put 2 k.toNat 0))))))
  | .efan d b c y => Code.row 3 0xC8 d (put 26 b.toNat (put 20 c.toNat y.tail))
  | .etick d a => Code.row 1 0xC9 d (put 10 a.toNat 0)
  | .etickSet d a => Code.row 1 0xC9 d (put 10 a.toNat (put 0 1 0))
  | .enow d => Code.row 0 0xCA d 0
  | .esnap d a b => Code.row 2 0xCB d (put 26 a.toNat (put 20 b.toNat 0))
  | .esnapClose d => Code.row 2 0xCB d (put 8 1 0)
  | .esread d b cut cur y => Code.row 3 0xCC d (put 26 b.toNat (put 18 cut.toNat (put 17 cur.toNat y.tail)))
  | .cvqUn d => Code.row 1 0xCD d 0
  | .cvqRes d => Code.row 1 0xCD d (put 0 1 0)
  | .cvqLate d => Code.row 1 0xCD d (put 0 2 0)
  | .cvqStale d => Code.row 1 0xCD d (put 0 3 0)
  | .cvqDrop d => Code.row 1 0xCD d (put 0 4 0)
  | .cvqPend d => Code.row 1 0xCD d (put 0 5 0)
  | .cvqSent d => Code.row 1 0xCD d (put 0 6 0)
  | .cvqRecv d => Code.row 1 0xCD d (put 0 7 0)
  | .cvqSlate d => Code.row 1 0xCD d (put 0 8 0)
  | .cvqLateC d => Code.row 1 0xCD d (put 0 9 0)
  | .cvqStaleC d => Code.row 1 0xCD d (put 0 10 0)
  | .cvqDropC d => Code.row 1 0xCD d (put 0 11 0)
  | .cvqSlateC d => Code.row 1 0xCD d (put 0 12 0)
  | .hnd a b c t => Code.row 2 0xCE 0 (put 26 a.toNat (put 20 b.toNat (put 14 c.toNat (put 8 t.toNat 0))))
  | .ehold d => Code.row 1 0xCF d 0
  | .eholdRel d => Code.row 1 0xCF d (put 0 1 0)
  | .eholdQ d => Code.row 1 0xCF d (put 0 2 0)
  | .tnew d a b => Code.row 2 0xD0 d (put 26 a.toNat (put 20 b.toNat 0))
  | .tdec a => Code.row 1 0xD1 0 (put 10 a.toNat 0)
  | .qclaim d a => Code.row 1 0xD2 d (put 10 a.toNat 0)
  | .qpub d a b => Code.row 1 0xD3 d (put 10 a.toNat (put 4 b.toNat 0))
  | .qsteal d a => Code.row 1 0xD4 d (put 10 a.toNat 0)
  | .qlen d a => Code.row 1 0xD5 d (put 10 a.toNat 0)
  | .qlenClaims d a => Code.row 1 0xD5 d (put 10 a.toNat (put 0 1 0))
  | .qlenSteals d a => Code.row 1 0xD5 d (put 10 a.toNat (put 0 2 0))
  | .qlenFail d a => Code.row 1 0xD5 d (put 10 a.toNat (put 0 3 0))
  | .qreset d a => Code.row 1 0xD6 d (put 10 a.toNat 0)
  | .qresetBind d a b => Code.row 1 0xD6 d (put 10 a.toNat (put 4 b.toNat (put 0 1 0)))
  | .qresetUnbind d a => Code.row 1 0xD6 d (put 10 a.toNat (put 0 2 0))
  | .fcast d a => Code.row 1 0xD7 d (put 10 a.toNat 0)
  | .fcastQ d a => Code.row 1 0xD7 d (put 10 a.toNat (put 0 1 0))
  | .tstamp => Code.row 1 0xD8 0 0
  | .tstampNow d => Code.row 1 0xD8 d (put 0 1 0)
  | .tstampQ d => Code.row 1 0xD8 d (put 0 2 0)
  | .illop op => Code.row 0 op.toNat 0 0
  | .gangFormed | .handleArrival .. | .barrierArrival .. | .barrierRelease .. | .icinvDiscard ..
  | .collectiveArrival .. | .collectiveResult .. | .cbtimeo .. | .cbbroken .. | .mcmdAtTarget ..
  | .matrixCommandStart .. | .bellowsBoundary .. | .matrixCommandComplete .. | .kickNoticeArrival ..
  | .pullAckArrival .. | .engineCommandStart .. | .engineCommandComplete .. | .onewAtTarget .. | .odelAtTarget ..
  | .esreadAtTarget .. | .droneWritebackDone | .eventAccept .. | .nowAdvance | .eventDelivery | .handlerStart
  | .tnewAtHome .. | .taskDecrement .. | .runListStart | .queueRequestAtController .. | .terminationNotice ..
  | .channelEntryArrival .. | .requestAtHome .. | .replyArrival .. | .rnrRetry .. | .acceptanceNotice ..
  | .cxlDeviceReadComplete .. | .sectorBufferExpiry .. | .deviceSemaphoreAdd .. | .doorbell ..
  | .translationWalk .. | .tlbInvalidation .. | .migrationRequest .. | .migrationRoundEnd ..
  | .migrationFinalCopy .. | .forwardedAccess .. | .migrationComplete .. | .preemptInterrupt | .delayedExpiry ..
  | .quietPointReached .. | .clusterDump | .clusterReset .. | .boundaryReopen .. | .packageReset | .flitReplay ..
  | .linkRetrain .. | .linkFailure .. | .failureAnnouncement .. | .inDoubtTimeout .. | .hostRead .. | .hostWrite ..
  | .hostLaunch .. | .hostResync .. | .hcallAnswer .. | .dbgrd .. | .dbgwr .. | .dctlHalt .. | .dctlResume ..
  | .dctlStep .. | .ctxrd .. | .ctxwr .. | .memrd .. | .memwr .. | .patch .. | .trace .. | .traceSample .. | .chal
  | .unlock .. | .relock | .attest .. | .pwrlim .. | .life | .powerManagerTick | .powerCap | .powerCapLift
  | .routerPowerGate .. | .routerWake .. | .clusterPowerOff .. | .clusterPowerOn .. | .packageSleep | .packageWake
  | .lifetimeHoursWrite | .lifetimeCounterWrite | .eventQueueCommandStart | .eventQueueCommandComplete
  | .allowanceReturn .. | .hostAcknowledgement .. | .jobRestore | .jobEnded | .scrub .. | .poolRegionAssignment ..
  | .bootFlashImageWrite .. | .ownershipRecord .. | .lossOfPower => none

/-- The instruction of `nbits` bits `w`, numbered as the opcode table numbers them: its `match` words put the head
in the high 16 bits and the tail below it. -/
noncomputable def decodeTableWord (nbits w : Nat) : Option Instr :=
  match decode (w / 2 ^ (nbits - 16)) (w % 2 ^ (nbits - 16)) with
  | .ok i => some i
  | .error _ => none

end Sys2Proof
end

