-- ==== Sys2Proof/Machine/State.lean ====
section
/-!
DEFINITION. The state of the machine: one compute core, the units of its cluster, die and package, global memory, the
links to the other cores and to the host; with what it can wait for, and the state after reset.
All of it is plain data.
-/

namespace Sys2Proof.Machine

open Sys2Proof

/-- The reasons the model can stop with. The specification gives every instruction of the table an effect, so no
meaning raises one: the constructors are there for the host's interface. Safe: a run that stopped would prove less. -/
inductive Fault where
  /-- Raised by nothing: kept for an access the specification would say does not exist. Safe. -/
  | noSuchState
  deriving DecidableEq, Repr

/-- The refusals. -/
inductive Refusal where
  /-- Raised by a dispatch arm whose instruction has no meaning yet. Safe: nothing is proved of it. -/
  | notModelled (mnemonic : String)
  deriving DecidableEq, Repr

/-! ### Memory -/

/-- The answer of a home to a request (R160, R162): the value read (little-endian, as a number; 0 for an
acknowledgement), or an error's cause, sub-code and information word, and the lowest failing byte: its distance from the
request's address on the way, its virtual address once the core has taken it in. -/
inductive Reply where
  | data (v : Nat)
  | fail (cause sub : Nat) (info : Word) (byte : Nat)
  deriving DecidableEq, Repr

/-- Who made a request (R161): one of this core's contexts by its request number, or a foreign core. -/
inductive Source where
  | own (id : Nat)
  | foreign (core : Nat)
  deriving DecidableEq, Repr

/-- A full-empty access in a slice's retry list (R163). -/
structure FeEntry where
  src : Source
  ga : Nat
  op : MemOp
  deriving DecidableEq, Repr

/-- Global memory as its homes hold it (R155, R158). -/
structure Memory where
  /-- Bytes by global address, strictly rising, none equal to what an unlisted byte reads as. -/
  cells : List Host.Cell
  /-- The 8-byte words, by address over 8, whose full-empty bit is empty, rising (R158). -/
  empty : List Nat
  /-- The words whose code shows an uncorrectable error, rising (R167). -/
  poison : List Nat
  /-- The 64 KiB granules, by address over 65,536, that are sealed (R178). -/
  sealed : List Nat
  /-- The granules frozen for migration (R164, R362). -/
  frozen : List Nat
  /-- Full-empty accesses waiting at their homes, oldest first (R163). -/
  retry : List FeEntry
  /-- Requests recorded for a full retry list, oldest first (R166). -/
  refusals : List FeEntry
  deriving DecidableEq, Repr

/-- Where a request of this core has got to. -/
inductive Stage where
  /-- To be sent once these requests are acknowledged: the later parts of a `seal` or `unseal` (R178). -/
  | after (ids : List Nat)
  /-- On its way to its home. -/
  | sent
  /-- In the retry list of its home (R163). -/
  | listed
  /-- Performed; its answer is held until every core of the package has acknowledged (R330). -/
  | held (r : Reply)
  /-- Performed; its answer is held until the events with these numbers have been accepted (R237, R279). -/
  | owes (ids : List Nat) (r : Reply)
  /-- Refused with RNR; the message interface retries it (R164). -/
  | refused
  /-- The reply is on its way back. -/
  | replied (r : Reply)
  /-- Its reply has come; the notice that its home accepted it, once refused, has not (R420). -/
  | answered
  deriving DecidableEq, Repr

/-- What a request does when it is no plain access of a home: a message to a core's message interface or to a
controller. -/
inductive Message where
  | access (op : MemOp)
  | kick (target : Word) (n : Notice)
  | mcmd (target : Word) (x : BitVec 8) (r : Field) (tail : Word) (cap : BitVec 32) (note : Option (BitVec 8))
  | queue (qid : BitVec 16) (op : QOp)
  | event (target : Word) (e : Ev)
  | onew (target : Word) (index : BitVec 12) (off : BitVec 24) (cfg : Word)
  | odel (target : Word) (index : BitVec 12)
  | esread (target : Word) (first : BitVec 12) (count : Nat) (cut : BitVec 8) (cur : Bool)
  | migrate (m : MigReq)
  | resync (ga : Word)
  /-- The discard of fetched lines that `icinv` asks every core in scope for (R209). -/
  | discard (base len : Word) (scope : Nat)
  /-- An invalidation of `tlbinv` or `seal` that every core in scope must acknowledge (R358); with scope 0,
  one that came from another core and that this core has still to carry out (R359); with scope 10, that of a migration
  (R362). -/
  | shootdown (base len : Word) (scope : Nat)
  /-- The `icinv` of a PATCH, in a scope of core 0 of a cluster (R395). -/
  | patch (cluster : BitVec 7) (base : Word) (scope : Nat)
  /-- A service request on its way to the quadrant's service core (R351). -/
  | hcall (code : BitVec 16) (arg : Word) (ctx : BitVec 4) (gen : BitVec 8) (ticket : BitVec 16)
  deriving DecidableEq, Repr

/-- A request of this core that has no reply yet (R160). -/
structure Request where
  id : Nat
  /-- The issuing context and its incarnation; an engine command's requests carry the context that issued it. -/
  ctx : Fin 11
  gen : BitVec 8
  ga : Nat
  va : Word
  /-- The address of the instruction that sent it (R162). -/
  pc : Word
  msg : Message
  posted : Bool
  /-- REQ-A (true) or REQ-O (R160, R378). -/
  adaptive : Bool
  /-- Retries already refused (R164). -/
  tries : Nat
  /-- The failed or unreachable packages whose announcement puts it in doubt (R377). -/
  doubt : List (BitVec 18)
  stage : Stage
  /-- The scope of the `seal` or `unseal` that it belongs to (R198), or 0. -/
  scope : Nat
  deriving DecidableEq, Repr

/-- A translation held by a TLB (R357): the page's base and size, the leaf entry and its level; and of one that a walk has just
found, the addresses of the table entries it read (R183). -/
structure Xlate where
  base : Nat
  size : Nat
  leaf : Nat
  level : Nat
  path : List Nat
  deriving DecidableEq, Repr

/-! ### Contexts -/

/-- A trap before it is taken (R339 to R342). -/
structure TrapInfo where
  cause : Nat
  sub : Nat
  /-- None where no rule gives FADDR for the cause (R341): it is then a free value. -/
  faddr : Option Word
  finfo : Word
  /-- VSTART is set to this element when the trap is taken (R151). -/
  vstart : Option Nat
  deriving DecidableEq, Repr

/-- An imprecise fault known to the core and not yet reported (R162), with its place in issue order. -/
structure Imprecise where
  order : Nat
  eng : Bool
  cause : Nat
  sub : Nat
  faddr : Word
  finfo : Word
  deriving DecidableEq, Repr

/-- What a waited access does with its replies, in the order of its requests. -/
inductive After where
  /-- Concatenate the pieces' bytes, lay over them the bytes the store-hold buffer held at issue (R187), and extend
  (R169). -/
  | load (d : Field) (n : Nat) (sx : Bool) (sizes : List Nat) (laid : List (Nat × Byte))
  /-- The old value of an atomic (R174). -/
  | old (d : Field) (n : Nat) (zero : Bool)
  /-- The old element of `amof`, in floating space (R175). -/
  | oldF (d : Field)
  /-- Nothing but the end of the wait (`stfe`, `icinv`, `tlbinv`, `seal`). -/
  | nothing
  /-- The whole word of `ldfe` (R170), or a message's answer, written to D. -/
  | write (d : Field)
  /-- Elements of a vector load (R148): for each request, what it carries, as element, byte in the element, byte in the
  reply and number of bytes; with the bytes (element, byte) held at issue, and the trap of the element that the load
  stopped at (R151). -/
  | vload (d : Field) (w : BitVec 2) (parts : List (List (Nat × Nat × Nat × Nat))) (laid : List (Nat × Nat × Byte))
      (trap : Option TrapInfo)
  /-- The entry of `jtab` (R98), with the bytes held over it. -/
  | table (laid : List (Nat × Byte))
  /-- The image of `lyt` (R244). -/
  | layout (lt : Nat) (sizes : List Nat)
  /-- `qclaim` and `qsteal` (R329). -/
  | claim (d : Field) (qid : BitVec 16)
  /-- `fcast.q` (R332). -/
  | forecast (d : Field)
  /-- The messages of a vector store that the own slice has still to perform: their lowest elements, the trap of the element
  that the store stopped at (R151, R159), and what the unsent messages carry (R363). -/
  | vstore (lows : List Nat) (trap : Option TrapInfo) (unsent : List (List (Nat × Nat × Nat × Nat)))
  /-- The granules of a `seal` or `unseal` that are still to be sent, by their first and last address (R179). -/
  | sealing (first last : Nat)
  /-- An 8-byte load of a task's successor list at its `exit`, by the sizes of its pieces, with the entries read so far (R323). -/
  | successors (got : List Word) (sizes : List Nat)
  /-- The decrements of a task's `exit`, with those still to send: virtual and global addresses (R323). -/
  | retire (rest : List (Word × Nat))
  /-- The 64-byte descriptor that `qreset.bind` reads (R330): its global address, and that of its bytes in a second page. -/
  | bind (d : Field) (qid : BitVec 16) (desc next : Nat) (sizes : List Nat)
  /-- A terminated helper awaited a claim (R330). -/
  | terminate
  deriving DecidableEq, Repr

/-- The read-out of an `mrd` that waits for its semaphore (R227). -/
structure MrdWait where
  m : MrdArgs
  y : Sync
  deriving DecidableEq, Repr

/-- What a blocked context waits for (R54). -/
inductive Wait where
  | queue (q : Nat)
  | chanIn (c : Nat)
  | chanOut (c : Nat)
  | stage (n : Nat)
  | cmdFull (q : Nat)
  /-- Room for more requests; a vector instruction has sent some messages already (R148): their numbers, the replies that
  have come, the first unsent element, and what a load has to do with the replies. -/
  | outstanding (ids : List Nat) (got : List (Nat × Reply)) (first : Nat) (k : Option After)
  /-- Stores, or engine commands too, of the context within a scope (R195), or a matrix wait (R229). -/
  | order (eng : Bool) (scope : Nat)
  | matrix (below : Nat) (acc : Option Nat)
  /-- The writes of the vector registers that a `shrink` to so many granules releases (R72). -/
  | drain (vn : Nat)
  | exitReplies
  /-- A stall inside a window until it closes, because it is full, or for room in the hold buffer (R308); a deferred trap
  (R312); a third `cbr` (R305). -/
  | window
  | windowFull
  | holdRoom (k : Nat)
  | deferred (t : TrapInfo)
  | thirdCbr
  /-- The result of the group's episode: of a `cred` into D, of a `cleave` into D, of an `exit`, or of a `cbr` that
  issued again after a restore with VOTED standing (R304, R306, R314). -/
  | cred (d : Field)
  | cleave (d : Field)
  | exitVote
  | cbrAgain (all : Bool) (target : Word)
  | park
  | idle
  | wfi
  | grow (d : Field) (sn vn : Nat)
  | start (d : Field) (pc arg : Word) (k : Option Nat) (n v : Nat) (pri : BitVec 2)
  | restore (d : Field) (k : Nat) (image : Nat)
  | cwait (d : Field) (k : Nat) (gen : BitVec 8)
  | gang (d : Field) (clus : Bool) (mask : Nat)
  | bar (scope : Nat) (v : Option (Field × RedOp × Word))
  | sem (s : Nat) (n : Nat)
  | semMrd (w : MrdWait)
  /-- Replies of the listed requests; the answered ones beside them. -/
  | reply (ids : List Nat) (got : List (Nat × Reply)) (k : After)
  | fe (ids : List Nat) (got : List (Nat × Reply)) (k : After)
  | freeWalker
  /-- A terminated helper waits for its replies (R330). -/
  | ending
  /-- `ehold` waits for the write-back to end (R293). -/
  | writeBack (d : Field) (old : Bool)
  /-- `ssave` of another context: it is to reach its quiet point (R363). -/
  | save (d : Field) (k : Fin 11) (image : Nat)
  deriving DecidableEq, Repr

/-- A block: what is awaited, when that wait began (for the orders of service), and the queues and channels whose entries
the instruction holds until it completes, each with its place among the readers of that source (R60, R77, R239: return queues 4 to
7, channels 8 to 15). -/
structure Block where
  wait : Wait
  seq : Nat
  srcs : List (Nat × Nat)
  deriving DecidableEq, Repr

/-- A line as fetched (R34): its virtual address, the global address it was fetched from, and its 64 bytes. -/
structure Line where
  va : Word
  ga : Nat
  bytes : List Byte
  deriving DecidableEq, Repr

/-- A place in the order of the entries sent to a channel (R60): the context, and the entry once there is one. -/
structure Slot where
  ctx : Fin 11
  entry : Option VWord
  deriving DecidableEq, Repr

/-- A read performed before its instruction issues (R192): the context, the 32-byte sector and its bytes as the home held them,
and the registers written since, scalar ones by number and vector ones from 32 on. -/
structure Early where
  ctx : Fin 11
  ga : Nat
  value : Nat
  wrote : List Nat
  deriving DecidableEq, Repr

/-- Membership of a gang (R62). -/
structure Gang where
  clus : Bool
  mask : Nat
  deriving DecidableEq, Repr

/-- An entry of the store-hold buffer (R309). -/
structure Held where
  /-- Scratchpad store (`spst`) or memory store. -/
  spad : Bool
  /-- Global address, or the scratchpad address. -/
  ga : Nat
  va : Word
  pc : Word
  bytes : List (Nat × Byte)
  adaptive : Bool
  /-- The first piece of its store: a store takes one entry, whatever pieces it is cut to. -/
  head : Bool
  deriving DecidableEq, Repr

/-- A checkpoint taken at a `cbr` (R308): the registers the context can write, and what the `cbr` predicted. -/
structure Checkpoint where
  g : Vector Word 32
  v : Vector VWord 32
  f : Vector Word 16
  k : Vector Word 8
  frm : Word
  srcount : Word
  vstart : Word
  pc : Word
  target : Word
  next : Word
  hint : Bool
  all : Bool
  vote : Bool
  sent : Bool
  /-- Entries of the hold buffer older than this `cbr`. -/
  older : Nat
  /-- Instructions issued since (R308). -/
  issued : Nat
  deriving DecidableEq, Repr

/-- One context (R52, R53, R337 to R341 and the other chapters' per-context registers). -/
structure Ctx where
  live : Bool
  gen : BitVec 8
  pri : BitVec 2
  sn : Nat
  vn : Nat
  gang : Option Gang
  block : Option Block
  token : Bool
  /-- Cycles since it last issued or became ready (R58). -/
  age : Nat
  pc : Word
  line : Option Line
  /-- True from trap entry to the handler's first issue (R342). -/
  vectoring : Bool
  /-- The table root in effect (R211, R349). -/
  root : Word
  g : Vector Word 32
  v : Vector VWord 32
  f : Vector Word 16
  k : Vector Word 8
  status : Word
  cause : Word
  epc : Word
  faddr : Word
  finfo : Word
  frm : Word
  srcount : Word
  vstart : Word
  cgrp : Word
  cseq : Word
  ctimeo : Word
  hobj : Word
  task : Word
  qlast : Word
  dtime : Word
  hres : Word
  hscr : Word
  /-- Staging buffers q0 to q3, oldest word first (R238). -/
  stage : Vector (List Word) 4
  /-- Unresolved `cbr`s, oldest first (R311). -/
  spec : List Checkpoint
  hold : List Held
  /-- Entries at the front of `hold` that are released (R309). -/
  released : Nat
  squash : BitVec 32
  /-- PCYC of the arrival of the unresolved episode (R299). -/
  arrived : Word
  imprecise : List Imprecise
  /-- An error of a restored image, reported at the first ordering point (R366). -/
  pending : Option Imprecise
  /-- The vector registers that `mrd`s are still writing (R72, R227). -/
  landing : List Nat
  deriving DecidableEq, Repr

/-! ### Core registers and units -/

/-- The control registers held per core (R338), less those computed from other state. -/
structure CoreRegs where
  tvec : Word
  ptb : Word
  lcore : Word
  jobseed : Word
  gdivcnt : Word
  chmode : Word
  rnrbase : Word
  rnrlim : Word
  barcfg : Word
  lodcnt : Word
  packKept : Word
  semstat : Word
  engseq : Word
  bankcnt : Word
  tshape : Vector Word 8
  acfg : Vector Word 4
  mseq : Word
  mcap : Word
  belladd : Word
  fillcnt : Word
  objbase : Word
  evbase : Word
  etime : Word
  etcfg : Word
  esnap : Word
  evseq : Word
  tcpl : Word
  taskstat : Word
  forecast : Word
  deriving DecidableEq, Repr

/-- Registers of the cluster, the die and the package (R338). -/
structure Units where
  clkrate : Word
  sdseq : Word
  wfa : Vector Word 8
  wfm : Vector Word 8
  dumpaddr : Word
  rampup : Word
  rampdn : Word
  pcyc : Word
  /-- The time of the cluster's own clock, in 1,250ths of a core cycle (R3): CLKRATE for each nominal cycle. -/
  coreTime : Nat
  deriving DecidableEq, Repr

/-! ### Engines -/

/-- The image of a layout-table entry: 16 doublewords (R241). -/
abbrev Layout := Vector Word 16

/-- A queued matrix command, its operands taken at issue (R216, R219 to R228). -/
inductive MxOp where
  | tld (t : Nat) (lt : Layout) (c0 c1 : Nat) (cols : Bool)
  | tst (t : Nat) (lt : Layout) (c0 c1 : Nat) (cols : Bool)
  | tzero (t : Nat)
  | mzero (k : Nat)
  | mma (pair : Nat) (m : MmaArgs) (scale : Word)
  | stream (pair : Nat) (m : MmaArgs) (scale : Word) (q : Word) (src dst : Layout)
  | mst (k : Nat) (fmt : BitVec 4) (rm : BitVec 3) (cols : Bool) (lt : Layout) (q : Word)
  | mstIn (k : Nat) (cols : Bool) (lt : Layout) (q : Word)
  deriving DecidableEq, Repr

/-- A command of the matrix queue. -/
structure MxCmd where
  id : Nat
  seq : BitVec 16
  op : BitVec 8
  what : MxOp
  y : Sync
  rpt : Bool
  /-- The issuing context and its incarnation, or none for a remote command (R218, R231). -/
  owner : Option (Fin 11 × BitVec 8)
  /-- The sender's semaphore to add 1 to on completion of a remote command (R231). -/
  note : Option (BitVec 29 × BitVec 8)
  started : Bool
  /-- PCYC when an `mma` was first ready (R235). -/
  ready : Option Word
  /-- Failed at start (R218). -/
  failed : Bool
  /-- Cycles the Bellows added (R235). -/
  added : Nat

  /-- The flags it raised, once its writes are made: only its record still waits for room (R230). -/
  ran : Option Nat
  /-- Commands of the joined queues that must complete first (R253), by identifier. -/
  after : List Nat
  deriving DecidableEq, Repr

/-- A queued copy, gather or pull command (R247 to R252). -/
inductive EngOp where
  | cpy (src dst : Layout) (dims : List Word) (skip : Nat)
  | cpyr (op : BitVec 3) (fmt : BitVec 4) (src dst : Layout) (dims : List Word) (skip : Nat)
  | gath (src idx dst : Layout) (w : Word) (skip : Nat)
  | gathQ (src idx : Layout) (w : Word) (skip : Nat)
  | pull (dst : Layout) (c0 c1 : Nat) (notice : Option Notice)
  | pack (src mask dst : Layout) (w : Word)
  deriving DecidableEq, Repr

/-- A command of the copy or the gather queue. -/
structure EngCmd where
  id : Nat
  seq : BitVec 16
  op : BitVec 8
  what : EngOp
  y : Sync
  rpt : Bool
  owner : Option (Fin 11 × BitVec 8)
  /-- The issuing context's table root and privilege level, which its accesses are translated with (R242). -/
  root : Word
  pl : Bool
  started : Bool
  failed : Bool
  /-- The next element to visit; the elements of DONE so far, and the fault that stopped it (R245, R246, R249). -/
  pos : Nat
  done : Nat
  fault : Option TrapInfo
  /-- The words of the scratchpad beat that its last elements form, at each side, and the bits of data it holds (R242, R408). -/
  beat : List (List Nat)
  beatBits : Nat
  /-- Its accesses are made: only its record still waits for room (R239). -/
  ran : Bool
  /-- A word read for q5 that waits for room there (R239). -/
  word : Option Word
  /-- Retries of the element that its home refuses (R164). -/
  tries : Nat
  after : List Nat
  deriving DecidableEq, Repr

/-- A 32-byte sector that a gather has read for a run of 64 of its indices (R249): its value, and its words with an error. -/
structure SharedRead where
  run : Nat
  ga : Nat
  value : Nat
  bad : List Nat
  deriving DecidableEq, Repr

/-- A command of the event queue, its register values taken at issue (R277 to R282). -/
inductive EvOp where
  | onew (target : Word) (index : BitVec 12) (off : BitVec 24) (cfg : Word)
  | odel (target : Word) (index : BitVec 12)
  | esend (target : Word) (e : Ev)
  | efan (index : BitVec 12) (off : Nat) (count : Nat)
  | esread (target : Word) (first : BitVec 12) (count : Nat) (cut : BitVec 8) (cur : Bool)
  deriving DecidableEq, Repr

structure EvCmd where
  id : Nat
  seq : BitVec 16
  op : BitVec 8
  what : EvOp
  y : Sync
  rpt : Bool
  owner : Option (Fin 11 × BitVec 8)
  started : Bool
  /-- The request that carries it to its target. -/
  req : Option Nat
  /-- Words a running `esread` or a report still has to push to q7. -/
  results : List Word
  /-- The fault that stopped it (R277). -/
  fault : Option Nat
  after : List Nat
  deriving DecidableEq, Repr

/-- An `mcmd` held at the message interface until the queue has room (R231). -/
structure RemoteCmd where
  x : BitVec 8
  r : Field
  tail : Word
  sender : BitVec 29
  note : Option (BitVec 8)
  req : Option Nat
  deriving DecidableEq, Repr

/-- The matrix unit (R214 to R236). -/
structure Matrix where
  tiles : Vector (Vector VWord 64) 8
  /-- Accumulator cells, row after row. -/
  accs : Vector (Vector (BitVec 48) 4096) 4
  queue : List MxCmd
  /-- Remote commands held at the message interface until the queue has room (R231). -/
  waiting : List RemoteCmd
  /-- The unit streamed a column in the last step; it streams filler in the next (R235). -/
  active : Bool
  filler : Bool
  /-- The end of the last column of the `mma` that started last (R233, R235): a time of the cluster's own clock, as
  `Units.coreTime` counts it (R3). -/
  streamEnd : Nat
  /-- The cycle of the last boundary of the Bellows (R234). -/
  boundary : Nat
  deriving DecidableEq, Repr

/-- The scratchpads of the cluster and their buffers' holders (R180 to R182). -/
structure Scratch where
  /-- Bytes by scratchpad address (owner, buffer, byte), rising, none zero. -/
  cells : List Host.Cell
  /-- 4-byte words, by address over 4, with an uncorrectable error (R167). -/
  poison : List Nat
  /-- Buffers that their OWNER does not hold, with the holding core, or none in transit. -/
  held : List (Nat × Option (BitVec 4))
  /-- Handles on their way, with the cores they go to (R182). -/
  transit : List (BitVec 10 × BitVec 4)
  deriving DecidableEq, Repr

/-- Engine queues, return queues, notices and the layout table (R237 to R252). -/
structure Engines where
  copy : List EngCmd
  gather : List EngCmd
  event : List EvCmd
  /-- Return queues q4 to q7, oldest entry first (R239). -/
  ret : Vector (List Word) 4
  kicks : List Notice
  layouts : Vector Layout 64
  /-- For the copy, gather, matrix and event queue: the unfinished commands that a `qfence` set before every later one
  (R253). -/
  joins : Vector (List Nat) 4
  /-- The sectors that the gather command at the head has read for its present run of indices (R249). -/
  shared : List SharedRead
  deriving DecidableEq, Repr

/-! ### Barriers and groups -/

/-- A core's part in the barrier of one scope (R202). -/
structure Barrier where
  signalled : Bool
  /-- The field that governs the running episode, taken at its first arrival. -/
  field : Nat
  /-- Other cores that have signalled, by a job-wide number, and what their `barv`s contribute. -/
  others : List Nat
  vals : List (RedOp × Word)
  /-- The arrivals of the running episode, and those of the next, in order: each context with the PCYC of its arrival (R404). -/
  members : List (Fin 11 × Word)
  waiting : List (Fin 11 × Word)
  /-- Arrivals of the running episode that were withdrawn, which it waits for (R206): by the context, or by 11 plus the address
  of the image that it is saved in. -/
  gaps : List Nat
  deriving DecidableEq, Repr

/-- A group of the group table (R297), with its episode as the network knows it. -/
structure Group where
  gid : BitVec 12
  scope : BitVec 4
  /-- Contexts of this core that joined. -/
  members : List (Fin 11)
  /-- Members that are saved and not restored (R314). -/
  absent : Nat
  /-- Arrivals of the running episode: the sequence number, the count each carries, the vote. -/
  arrivals : List (BitVec 16 × BitVec 33 × Vote)
  /-- The last result, with its sequence number and the departures that lower COUNT, kept until every local member has
  taken it (R314). -/
  result : Option (BitVec 16 × Option Word × Nat)
  /-- Once the group is broken or timed out: the cause and FINFO of the trap that members have still to take (R313). -/
  broken : Option (Nat × Word)
  /-- Departures of terminated helpers for the episode after the running one (R330). -/
  early : List (BitVec 16 × BitVec 33 × Vote)
  /-- SEQ of the running episode, or of the next (R300). -/
  seq : BitVec 16
  /-- The PCYC at which the arrivals of saved members were sent (R299), by the address of the image. -/
  since : List (Nat × Word)
  /-- Of a group that was formed anew after it was broken: the trap that members of before have still to take, and the images of
  those that were saved then. -/
  last : Option (Nat × Word)
  stale : List Nat
  deriving DecidableEq, Repr

/-- An arrival of a group that this core has no entry of yet (R300). -/
structure StrayArrival where
  gid : BitVec 12
  scope : BitVec 4
  seq : BitVec 16
  count : BitVec 33
  vote : Vote
  deriving DecidableEq, Repr

/-! ### Tasks, queues and the Drone -/

/-- The run lists and overflow chains (R321), each priority's oldest first, by global address. -/
structure Tasks where
  lists : Vector (List Nat) 4
  chains : Vector (List Nat) 4
  deriving DecidableEq, Repr

/-- A bound slot of a queue controller (R324, R325). -/
structure BoundQueue where
  qid : BitVec 16
  base : Nat
  log2 : Nat
  head : Word
  tail : Word
  claims : Word
  steals : Word
  fail : Word
  /-- The descriptor, and the place of its bytes beyond the end of the page that it begins in (R330). -/
  desc : Word
  next : Word
  deriving DecidableEq, Repr

/-- A handler-table entry (R291). -/
structure Handler where
  valid : Bool
  entry : Word
  sn : Nat
  vn : Nat
  pri : BitVec 2
  mode : Nat
  thr : BitVec 32
  damp : BitVec 32
  pl : Bool
  deriving DecidableEq, Repr

/-- An event of the pending store, with its place in acceptance order and whether it came late (R268). -/
structure PendingEv where
  seq : Nat
  late : Bool
  ev : Ev
  deriving DecidableEq, Repr

/-- The Drone front end (R260 to R293). -/
structure Drone where
  handlers : Vector Handler 64
  pending : List PendingEv
  /-- Objects queued with their RESID and the serial of their entry, largest first (R273). -/
  residual : List (BitVec 12 × BitVec 32 × Nat)
  /-- The overflow ring, oldest first. -/
  ring : List (BitVec 12)
  /-- The next serial, of acceptance and of entry to the queue. -/
  seq : Nat
  late : Word
  stale : Word
  drop : Word
  snaplate : Word
  sent : Word
  received : Word
  /-- Nominal cycles since NOW last advanced by RATE. -/
  phase : Nat
  deriving DecidableEq, Repr

/-- What the spill area and the overflow ring of a slice, or of a dumped slice, hold (R262, R293). -/
structure Spill where
  pending : List PendingEv
  ring : List (BitVec 12)
  deriving DecidableEq, Repr

/-- An answer that a unit of this core owes another core. -/
structure Owed where
  core : Nat
  /-- The events that must have been accepted first (R237); none: every core of the package must have acknowledged (R330). -/
  ids : List Nat
  reply : Reply
  deriving DecidableEq, Repr

/-! ### The package around the core -/

/-- A migration in progress (R362). -/
structure Migration where
  m : MigReq
  /-- 32-byte sectors written since they were last copied, by distance from the frame's first. -/
  marked : List Nat
  rounds : Nat
  frozen : Bool
  /-- The last sectors are copied and the old home forwards (R362 steps 4, 5). -/
  forwarding : Bool
  deriving DecidableEq, Repr

/-- A pool region of a CXL port and the package that owns it (R185). -/
structure PoolRegion where
  port : BitVec 4
  base : Nat
  size : Nat
  owner : BitVec 18
  deriving DecidableEq, Repr

/-- A unit kept in a sector buffer until a PCYC (R183). -/
structure SectorUnit where
  unit : Nat
  expires : Word
  deriving DecidableEq, Repr

/-- What leaves the package for the host (R383). -/
inductive ToHost where
  | write (ga : Nat) (bytes : List (Nat × Byte))
  | readRequest (ga n : Nat)
  | request (code : BitVec 16) (arg : Word) (lcore : BitVec 29) (ctx : BitVec 4) (gen : BitVec 8) (ticket : BitVec 16)
  | interrupt (vector : BitVec 32)
  | readData (seq : BitVec 16) (status : Status) (data : List Byte)
  | error (seq : BitVec 16) (off : Nat) (status : Status)
  | summary (addr : Word) (bytes : List Byte)
  | port (status : Status) (data : List Byte)
  deriving DecidableEq, Repr

/-- What leaves this core for other cores of the job, and the network notices it sends (R378). -/
inductive Sent where
  /-- A request to another core's message interface, by its logical number, or to the queue controller of another cluster, by
  a queue identifier of it. -/
  | message (target : Word) (m : Message)
  /-- The reply to a foreign core's request. -/
  | reply (core : Nat) (r : Reply)
  /-- RNR, to a foreign core's request (R164). -/
  | rnr (core : Nat)
  /-- The notice that a foreign core's request, once refused, is accepted (R420). -/
  | notice (core : Nat)
  | semaphore (core : BitVec 29) (s : BitVec 8) (n : Nat)
  /-- An entry of a channel, with the core of the package that it goes to (R59, R60). -/
  | channel (c dest : Nat) (v : VWord)
  | handle (buf : BitVec 10) (core : BitVec 4)
  | barrier (scope : Nat) (vals : List (RedOp × Word))
  | withdrawal (scope : Nat)
  | arrival (gid : BitVec 12) (scope : BitVec 4) (seq : BitVec 16) (count : BitVec 33) (v : Vote)
  | discard (base len : Word) (scope : Nat)
  /-- The discard of a PATCH, in a scope of core 0 of a cluster (R395). -/
  | patch (cluster : BitVec 7) (base : Word) (scope : Nat)
  | shootdown (base len : Word) (scope : Nat)
  | termination (qid : BitVec 16)
  | halt (cluster : Nat)
  | breakGroup (gid : BitVec 12) (scope : BitVec 4) (reason : Nat)
  /-- A member of this core timed its group out (R313). -/
  | timeout (gid : BitVec 12) (scope : BitVec 4)
  /-- A write of a device-space register of another core, by its address. -/
  | device (ga : Nat) (v : Word)
  /-- This core's acknowledgement of an invalidation of another core's (R359, R209). -/
  | invalidated (base len : Word)
  deriving DecidableEq, Repr

/-- What a host transaction asks of a service core (R383). -/
inductive HostDo where
  | read (len : Nat)
  | write (data : List Byte)
  | answer (core : BitVec 29) (ctx : BitVec 4) (gen : BitVec 8) (ticket : BitVec 16) (value : BitVec 48)
  /-- A command of the management port that its home refused (R390, R395): MEMRD, MEMWR, and PATCH with its line. -/
  | portRead (len : Nat)
  | portWrite (data : List Byte)
  | portPatch (cluster : BitVec 7) (va : Word) (line : List Byte) (scope : Nat)
  deriving DecidableEq, Repr

/-- A host transaction, by its sequence number and the address that selects its service core, with the retries that its home
refused (R385). -/
structure HostTry where
  seq : BitVec 16
  ga : Nat
  what : HostDo
  tries : Nat
  deriving DecidableEq, Repr

/-- The service core of the core's quadrant (R384, R389). -/
structure Service where
  received : BitVec 16
  performed : BitVec 16
  /-- Writes that the host has not acknowledged (R384). -/
  unacked : Nat
  /-- An interrupt that waits for them, and the transactions taken after it, in their order. -/
  queue : List ToHost
  /-- Host requests still to be performed, in host order. -/
  waiting : List HostTry
  deriving DecidableEq, Repr

/-- Launch, pre-emption and job (R387 to R389). -/
structure Launch where
  record : Word
  state : Nat
  nx : Nat
  ny : Nat
  lx0 : Nat
  ly0 : Nat
  hivec : BitVec 32
  completions : Word
  failures : Word
  resets : Word
  /-- Packages announced as failed (R377), and pairs marked unreachable (R376). -/
  failed : List (BitVec 18)
  unreachable : List (BitVec 18)
  /-- A pre-emption that the management core holds until RESUME (R392). -/
  preemptHeld : Bool
  /-- This core's `ssave.ack` has been taken (R369). -/
  acked : Bool
  /-- The address of the core image last written (R369). -/
  image : Nat
  deriving DecidableEq, Repr

/-- Why a core is halted (R391, R392). -/
inductive HaltCause where
  | instr | cluster | step | vector
  deriving DecidableEq, Repr

/-- An open trace session (R396). -/
structure Session where
  lcore : BitVec 29
  ctx : BitVec 4
  gen : BitVec 8
  buf : Nat
  log2 : Nat
  mask : BitVec 16
  period : Nat
  written : Nat
  /-- Records not yet performed at the buffer, oldest first (R397). -/
  staged : List (Word × Word)
  /-- The core's own cycle count at the last sample. -/
  last : Nat
  deriving DecidableEq, Repr

/-- The debug module of the cluster (R391, R392, R396). -/
structure Debug where
  sctx : Nat
  score : Nat
  xout : Bool
  xin : Bool
  brkh : Bool
  core : Nat
  ctx : Nat
  vcause : Nat
  reason : Nat
  /-- Why this core is halted, if it is. -/
  halted : Option HaltCause
  /-- Other cores of the cluster that are halted, each with its own cause (R393). -/
  others : List (Nat × HaltCause)
  /-- The cluster is halted: its engines and the Drone are frozen (R392). -/
  clusterHalted : Bool
  /-- A step of this context is to issue (R393). -/
  step : Option (Fin 11)
  /-- A step of another core of the cluster, of this context, is to issue. -/
  otherStep : Option (Nat × Nat)
  sessions : List Session
  deriving DecidableEq, Repr

/-- Security, power and counters of the package (R389, R398 to R407). -/
structure Guard where
  /-- 0 verified, 1 recovery (R399). -/
  security : Nat
  /-- 0 locked, 1 owner-unlocked, 2 vendor-unlocked (R399). -/
  debug : Nat
  /-- A nonce of the latest CHAL not yet used (R400). -/
  nonce : Option (List Byte)
  /-- CHALs answered, which make each nonce fresh. -/
  challenges : Nat
  ownerKey : List Byte
  bootImages : List (BitVec 2 × List Byte)
  pwrlim : Nat
  capped : Bool
  /-- Reserved headroom of this cluster from its forecast (R403). -/
  headroom : Nat
  /-- The package is in PS3 (R398). -/
  asleep : Bool
  offClusters : List (BitVec 7)
  closedClusters : List (BitVec 7)
  /-- Clusters of other packages whose reset has been announced and whose boundary is closed (R382). -/
  closedElsewhere : List (BitVec 18 × BitVec 7)
  /-- Clusters that the management core has given up (R389, R398). -/
  failedClusters : List (BitVec 7)
  gatedRouters : List (BitVec 7)
  corrected : Word
  uncorrected : Word
  fillerSteps : Word
  interventions : Word
  packageFailures : Word
  clusterResets : Word
  hours : Word
  /-- The lifetime block as it was last written (R406, R407). -/
  lifetime : List Word
  deriving DecidableEq, Repr

/-- The links of the package (R375, R378, R379). -/
structure Links where
  replays : Vector Nat 8
  retrains : Vector Word 8
  retraining : List (BitVec 3)
  failed : List (BitVec 3)
  standby : Bool
  /-- Allowance by port and class (R379): eight ports of seven networks. -/
  allowance : Vector Nat 56
  deriving DecidableEq, Repr

/-- The internal sections of a core image (R367): the group table, the handler table, the chains of the run lists, the
entries of each channel, and the commands stopped or not started. (DESIGN CHOICE: log entry 58.) -/
structure CoreInside where
  groups : List Group
  handlers : Vector Handler 64
  chains : Vector (List Nat) 4
  channels : Vector Nat 8
  copy : List EngCmd
  gather : List EngCmd
  event : List EvCmd
  matrix : List MxCmd
  deriving DecidableEq, Repr

/-- The machine. (DESIGN CHOICE: log entry 4.) -/
structure State where
  /-- The physical core (die, cluster, quad, core; R12) and the package that the model follows. -/
  core : Nat
  pkg : Nat
  ctxs : Vector Ctx 11
  /-- The context that issues, or issued last. -/
  cur : Fin 11
  /-- The helper that issued last in each priority (R58). -/
  lastOf : Vector Nat 4
  regs : CoreRegs
  units : Units
  mem : Memory
  spad : Scratch
  sems : Vector (BitVec 16) 256
  /-- Semaphores set or added to in this cycle, whose waits are still to be tested (R38, R254), rising. -/
  dueSems : List Nat
  /-- Entries present in the core's own eight channels, oldest first (R60). -/
  chans : Vector (List VWord) 8
  /-- Entries of this core that the neighbours have not read (R60). -/
  away : Vector Nat 8
  /-- Places in issue order of the entries that waiting instructions have still to send to each channel, and of entries
  that come after them (R60). -/
  slots : Vector (List Slot) 8
  mx : Matrix
  eng : Engines
  /-- Requests without a reply, in the order sent. -/
  net : List Request
  /-- Numbers given to requests, engine commands and blocks, in issue order. -/
  seqNo : Nat
  tlb : List Xlate
  lines : List Line
  /-- 64-byte lines the data cache holds, by address over 64, oldest first: sealed ones with their bytes (R178, R190), and ones
  of the own slice, whose bytes are always the slice's (R159, R411), with none. -/
  replicas : List (Nat × List Byte)
  /-- Early reads not yet issued, in the order performed (R192). -/
  early : List Early
  bars : Vector Barrier 9
  groups : List Group
  /-- Arrivals that came before a member of this core joined (R300). -/
  strays : List StrayArrival
  tasks : Tasks
  queues : List BoundQueue
  /-- Foreign requests, and events of other cores, answered with RNR and not accepted since (R420, R267). -/
  rnrs : List ForeignReq
  evRnrs : List Ev
  /-- Answers of the queue controller and of the Drone to other cores that wait for something else (R330, R237). -/
  owed : List Owed
  /-- What lies in the spill areas and rings of dumped and restored slices, by the address of the slice or dump (R369). -/
  spills : List (Nat × Spill)
  drone : Drone
  migrations : List Migration
  pools : List PoolRegion
  sectors : List SectorUnit
  service : Service
  launch : Launch
  dbg : Debug
  guard : Guard
  links : Links
  ticket : BitVec 16
  /-- The internal sections of the core images written so far, in the order written; an image names its own (R367). -/
  images : List CoreInside
  /-- Events from outside that have not happened yet, oldest first (the model's own). -/
  inbox : List Instr
  sent : List Sent
  toHost : List ToHost
  /-- The instruction tried last is held by a bounded stall (R58; the model's own). -/
  stalled : Bool
  /-- Steps taken (the model's own): the free values are applied to it. -/
  tick : Nat
  deriving DecidableEq, Repr

/-! ### Reset -/

/-- A context as reset leaves it (R53, R55, R337): context 0 live at level 1 with four granules of each kind, the
helpers free. (DESIGN CHOICE: log entry 2.) -/
def Ctx.reset (control : Bool) : Ctx where
  live := control
  gen := 0
  pri := 0
  sn := if control then 4 else 0
  vn := if control then 4 else 0
  gang := none
  block := none
  token := false
  age := 0
  pc := 0
  line := none
  vectoring := false
  root := 0
  g := .replicate 32 0
  v := .replicate 32 0
  f := .replicate 16 0
  k := .replicate 8 0
  status := if control then 1 else 0
  cause := 0
  epc := 0
  faddr := 0
  finfo := 0
  frm := 0
  srcount := 0
  vstart := 0
  cgrp := 0
  cseq := 0
  ctimeo := 1000000
  hobj := 0
  task := 0
  qlast := 0
  dtime := 0
  hres := 0
  hscr := 0
  stage := .replicate 4 []
  spec := []
  hold := []
  released := 0
  squash := 0
  arrived := 0
  imprecise := []
  pending := none
  landing := []

/-- The core registers at reset (each register's own table). (DESIGN CHOICE: log entry 2.) -/
def CoreRegs.reset : CoreRegs where
  tvec := 0
  ptb := 0
  lcore := 0
  jobseed := 0
  gdivcnt := 0
  chmode := 0
  rnrbase := 100
  rnrlim := 64
  barcfg := 0x11111111
  lodcnt := 0
  packKept := 0
  semstat := 0
  engseq := 0
  bankcnt := 0
  tshape := .replicate 8 0x22040
  acfg := .replicate 4 0
  mseq := 0
  mcap := 0
  belladd := 0
  fillcnt := 0
  objbase := 0
  evbase := 0
  etime := 0
  etcfg := 0
  esnap := 0
  evseq := 0
  tcpl := 0
  taskstat := 0
  forecast := 0

def Units.reset : Units where
  clkrate := 1250
  sdseq := 0
  wfa := .replicate 8 0
  wfm := .replicate 8 0
  dumpaddr := 0
  rampup := 0x7777777777777731
  rampdn := 0x7777777777777731
  pcyc := 0
  coreTime := 0

def Memory.reset : Memory := ⟨[], [], [], [], [], [], []⟩

def Matrix.reset : Matrix :=
  ⟨.replicate 8 (.replicate 64 0), .replicate 4 (.replicate 4096 0), [], [], false, false, 0, 0⟩

def Engines.reset : Engines :=
  ⟨[], [], [], .replicate 4 [], [], .replicate 64 (.replicate 16 0), .replicate 4 [], []⟩

def Handler.reset : Handler := ⟨false, 0, 0, 0, 0, 0, 0, 0, false⟩

def Drone.reset : Drone :=
  ⟨.replicate 64 .reset, [], [], [], 0, 0, 0, 0, 0, 0, 0, 0⟩

def Barrier.reset : Barrier := ⟨false, 0, [], [], [], [], []⟩

def Debug.reset : Debug := ⟨0, 0, false, false, false, 0, 0, 0, 0, none, [], false, none, none, []⟩

/-- Every cluster of a package (R11). -/
def everyCluster : List (BitVec 7) := (List.range 128).map (BitVec.ofNat 7)

/-- The security state is fixed by the check of the firmware images at each reset (R399); in recovery every cluster is off
(R401). (DESIGN CHOICE: log entry 2.) (DESIGN CHOICE: log entry 46.) -/
def Guard.reset : Guard where
  security := if Config.firmwareVerified [] then 0 else 1
  debug := 0
  nonce := none
  challenges := 0
  ownerKey := []
  bootImages := []
  pwrlim := 3000
  capped := false
  headroom := 0
  asleep := false
  offClusters := if Config.firmwareVerified [] then [] else everyCluster
  closedClusters := []
  closedElsewhere := []
  failedClusters := []
  gatedRouters := []
  corrected := 0
  uncorrected := 0
  fillerSteps := 0
  interventions := 0
  packageFailures := 0
  clusterResets := 0
  hours := 0
  lifetime := 0x20000000001 :: List.replicate 63 0

/-- The allowances of a port: the far end's buffers, empty (R378, R379). -/
def Links.buffers : List Nat := [64, 64, 32, 64, 64, 16, 32]

def Links.reset : Links :=
  ⟨.replicate 8 0, .replicate 8 0, [], [], false, .ofFn fun i => Links.buffers[i.val % 7]?.getD 0⟩

def Launch.reset : Launch := ⟨0, 0, 1, 1, 0, 0, 0, 0, 0, 0, [], [], false, false, 0⟩

/-- The machine right after package reset: nothing is launched, no request is in flight, memory is zero and full. (DESIGN CHOICE: log entry 1.) (DESIGN CHOICE: log entry 2.) (DESIGN CHOICE: log entry 4.) (DEDUCED: log entry 9.) -/
def State.reset : State where
  core := 0
  pkg := 0
  ctxs := .ofFn fun i => Ctx.reset (i.val == 0)
  cur := 0
  lastOf := .replicate 4 0
  regs := .reset
  units := .reset
  mem := .reset
  spad := ⟨[], [], [], []⟩
  sems := .replicate 256 0
  dueSems := []
  chans := .replicate 8 []
  away := .replicate 8 0
  slots := .replicate 8 []
  mx := .reset
  eng := .reset
  net := []
  seqNo := 0
  tlb := []
  lines := []
  replicas := []
  early := []
  bars := .replicate 9 .reset
  groups := []
  strays := []
  tasks := ⟨.replicate 4 [], .replicate 4 []⟩
  queues := []
  rnrs := []
  evRnrs := []
  owed := []
  spills := []
  drone := .reset
  migrations := []
  pools := []
  sectors := []
  service := ⟨0, 0, 0, [], []⟩
  launch := .reset
  dbg := .reset
  guard := .reset
  links := .reset
  ticket := 0
  images := []
  inbox := []
  sent := []
  toHost := []
  stalled := false
  tick := 0

end Sys2Proof.Machine
end

