-- ==== Sys2Proof/Machine/Ops.lean ====
section
/-!
DEFINITION. The named operations over contexts, registers and memory; translation; taking an exception and returning
from one; how an instruction completes, transfers, traps or blocks.
-/

namespace Sys2Proof.Machine

open Sys2Proof

/-- A counter of 64 bits stops at its largest value (R406). -/
def saturateTo (n : Nat) : Word := BitVec.ofNat 64 (if 2 ^ 64 - 1 < n then 2 ^ 64 - 1 else n)
def saturate (w : Word) : Word := saturateTo (w.toNat + 1)

/-! ### Plain access -/

/-- Entry `i` of a table, or `d` outside it. -/
def nth {α : Type} {n : Nat} (v : Vector α n) (i : Nat) (d : α) : α := v[i]?.getD d

/-- The table with entry `i` replaced; unchanged when there is no entry `i`. -/
def upd {α : Type} {n : Nat} (v : Vector α n) (i : Nat) (x : α) : Vector α n := v.setIfInBounds i x

/-- A context of the core. -/
def State.at (s : State) (i : Fin 11) : Ctx := s.ctxs[i]

/-- The context that issues. -/
def State.ctx (s : State) : Ctx := s.at s.cur

/-- Replace a context. -/
def State.putAt (s : State) (i : Fin 11) (c : Ctx) : State := { s with ctxs := s.ctxs.set i.val c i.isLt }

/-- No read performed early stands for a context that begins anew (R192). -/
def State.dropEarly (s : State) (i : Fin 11) : State := { s with early := s.early.filter fun e => e.ctx != i }

/-- Replace the context that issues. -/
def State.put (s : State) (c : Ctx) : State := s.putAt s.cur c

/-- The contexts' numbers in ascending order. -/
def allCtx : List (Fin 11) := [0, 1, 2, 3, 4, 5, 6, 7, 8, 9, 10]

/-- A context's number from a word, if it names one. -/
def ctxOf (n : Nat) : Option (Fin 11) := if h : n < 11 then some ⟨n, h⟩ else none

/-- Insert into a rising list of numbers. -/
def setIn : List Nat → Nat → List Nat
  | [], a => [a]
  | x :: t, a => if a < x then a :: x :: t else if a = x then x :: t else x :: setIn t a

/-- Remove from a rising list of numbers. -/
def setOut (l : List Nat) (a : Nat) : List Nat := l.filter (· != a)

/-! ### Memory cells (R158) -/

/-- What a byte that nothing has written reads as (R158: package reset sets every word to zero). (DESIGN CHOICE: log entry 3.) -/
def unlisted : Byte := 0

/-- The byte at an address. -/
def cellsGet : List Host.Cell → Nat → Byte
  | [], _ => unlisted
  | (x, b) :: t, a => if x = a then b else cellsGet t a

/-- Write one byte, keeping the list rising and without zeros. -/
def cellsSet : List Host.Cell → Nat → Byte → List Host.Cell
  | [], a, b => if b = unlisted then [] else [(a, b)]
  | (x, c) :: t, a, b =>
    if a < x then (if b = unlisted then (x, c) :: t else (a, b) :: (x, c) :: t)
    else if a = x then (if b = unlisted then t else (a, b) :: t)
    else (x, c) :: cellsSet t a b

/-- Every address of a list is above `lo` and they rise, and no byte is what an unlisted one reads as. -/
def cellsAbove : Option Nat → List Host.Cell → Bool
  | _, [] => true
  | lo, (x, b) :: t => (match lo with | none => true | some l => l < x) && b != unlisted && cellsAbove (some x) t

/-- The canonical form of a list of cells. -/
def cellsWf (l : List Host.Cell) : Bool := cellsAbove none l

/-- Memory is in its canonical form. -/
def Memory.wf (m : Memory) : Bool := cellsWf m.cells

/-- A byte of global memory. (DESIGN CHOICE: log entry 3.) -/
def Memory.byte (m : Memory) (a : Nat) : Byte := cellsGet m.cells a

/-- `n` bytes from `a` as a little-endian number (R1). -/
def Memory.read (m : Memory) (a : Nat) : Nat → Nat
  | 0 => 0
  | n + 1 => (m.byte a).toNat + 256 * m.read (a + 1) n

/-- Write the `n` low bytes of `v` at `a` (R1). -/
def Memory.write (m : Memory) (a : Nat) : Nat → Nat → Memory
  | 0, _ => m
  | n + 1, v => Memory.write { m with cells := cellsSet m.cells a (BitVec.ofNat 8 v) } (a + 1) n (v / 256)

/-- A doubleword. -/
def Memory.word (m : Memory) (a : Nat) : Word := BitVec.ofNat 64 (m.read a 8)

/-- Whether some word of `n` bytes at `a` is poisoned (R167). -/
def Memory.poisoned (m : Memory) (a n : Nat) : Bool :=
  n != 0 && m.poison.any fun w => a / 8 ≤ w && w ≤ (a + n - 1) / 8

/-- Bytes of a number, lowest first. -/
def bytesOf (v : Nat) : Nat → List Byte
  | 0 => []
  | n + 1 => BitVec.ofNat 8 v :: bytesOf (v / 256) n

/-- A number from bytes, lowest first. -/
def ofBytes : List Byte → Nat
  | [] => 0
  | b :: t => b.toNat + 256 * ofBytes t

/-! ### Global addresses (R12, R14, R155) -/

def gaSpace (ga : Nat) : Nat := ga / 2 ^ 62 % 4
def gaPkg (ga : Nat) : Nat := ga / 2 ^ 44 % 2 ^ 18
/-- DIE and CORE together are the physical core number (R12, R155). -/
def gaCore (ga : Nat) : Nat := ga / 2 ^ 33 % 2 ^ 11
def gaPort (ga : Nat) : Nat := ga / 2 ^ 40 % 16
def gaOffset (ga : Nat) : Nat := ga % 2 ^ 24

/-- The first byte of a core's slice (R155). -/
def sliceBase (pkg core : Nat) : Nat := pkg * 2 ^ 44 + core * 2 ^ 33

/-- The first byte of the followed core's slice. -/
def State.ownBase (s : State) : Nat := sliceBase s.pkg s.core

/-- A global address in the core's own slice. -/
def State.ownSlice (s : State) (ga : Nat) : Bool :=
  ga < 2 ^ 62 && gaPkg ga == s.pkg && gaCore ga == s.core

/-- A number for the home of a global address: the slice, the memory core (R19), the device's core, or the service
core of the quadrant (R156). -/
def homeOf (ga : Nat) : Nat :=
  match gaSpace ga with
  | 0 => ga / 2 ^ 33
  | 1 => ga / 2 ^ 40 * 4 + ga / 2 ^ 16 % 4
  | 2 => ga / 2 ^ 33
  | _ => 2 ^ 64

/-- A number for a 64 KiB granule. -/
def granule (ga : Nat) : Nat := ga / 65536

/-- A home-space address names a slice byte: its bits 32:24 are zero (R155). -/
def homeAligned (ga : Nat) : Bool := gaSpace ga != 0 || ga / 2 ^ 24 % 2 ^ 9 == 0

/-- The packages of the job (R388): chassis counted forward from the first, modulo the system's extent. -/
def State.jobPackage (s : State) (p : Nat) : Bool :=
  p == s.pkg ||
    ((List.range s.launch.nx).any (fun d => (s.launch.lx0 + d) % Config.extentX == p / 2 ^ 11) &&
      (List.range s.launch.ny).any (fun d => (s.launch.ly0 + d) % Config.extentY == p / 2 ^ 4 % 2 ^ 7))

/-- The logical number of the followed core (R15). -/
def State.lcore (s : State) : BitVec 29 := BitVec.ofNat 29 s.regs.lcore.toNat

/-- The cores of the job (R388). -/
def State.jobCores (s : State) : Nat := s.launch.nx * s.launch.ny * 16 * 2048

/-- The package of a logical core, seen from this core's own: JPKG counts packages in job order (R388); the same JPKG
as this core's is this package. -/
def State.ownPackage (s : State) (lcore : Nat) : Bool := lcore / 2048 == s.regs.lcore.toNat / 2048

/-- The core cycles that the cluster's clock has counted (R3). -/
def Units.coreCycles (u : Units) : Nat := u.coreTime / 1250

/-! ### Status fields (R337) -/

def Ctx.pl (c : Ctx) : Bool := c.status.bit 0
def Ctx.ie (c : Ctx) : Bool := c.status.bit 2
def Ctx.th (c : Ctx) : Bool := c.status.bit 4

/-- Set one bit of a word. -/
def putBit (w : Word) (i : Nat) (b : Bool) : Word := w.setBits i 1 b.toNat

/-! ### Queues and channels as operands (R39 to R41, R60, R77, R239) -/

/-- The return queue (4 to 7) or channel (8 to 15) that a scalar register number names as a source. -/
def srcG (n : Nat) : Option Nat := if 36 ≤ n ∧ n < 40 then some (n - 32) else if 40 ≤ n ∧ n < 44 then some (n - 32) else none

/-- The vector channel that a vector register number names. -/
def srcV (n : Nat) : Option Nat := if 32 ≤ n ∧ n < 36 then some (n - 20) else none

/-- The entries of a return queue or channel. -/
def State.entries (s : State) (src : Nat) : List VWord :=
  if src < 8 then (nth s.eng.ret (src - 4) []).map fun w => w.zeroExtend 512 else nth s.chans (src - 8) []

/-- A blocked instruction has issued: what ends its wait completes it. The others issue again when their wait is over. -/
def Wait.issued : Wait → Bool
  | .queue _ => false | .chanIn _ => false | .chanOut _ => false | .stage _ => false | .cmdFull _ => false
  | .outstanding ids _ first _ => !ids.isEmpty || first != 0
  | .order _ _ => false | .matrix _ _ => false | .drain _ => false | .exitReplies => false
  | .window => false | .windowFull => false | .holdRoom _ => false | .thirdCbr => false | .freeWalker => false
  | _ => true

/-- A block keeps an entry of a source of its instruction from later readers (R60, R239): it waits for one of that very source, in
the order the contexts blocked on it, or its instruction has issued and holds one until it completes. -/
def Block.claims (b : Block) (src : Nat) : Bool :=
  b.wait.issued || b.wait == (if src < 8 then .queue src else .chanIn (src - 8))

/-- The place that a blocked context has among the readers of a source, if it claims an entry there. -/
def Block.place (b : Block) (src : Nat) : Option Nat :=
  if b.claims src then (b.srcs.find? fun p => p.1 == src).map (·.2) else none

/-- The sources that a block's instruction reads. -/
def Block.sources (b : Block) : List Nat := b.srcs.map (·.1)

/-- How many entries the contexts that came earlier hold (R60, R239: served in the order they blocked). -/
def State.rank (s : State) (src : Nat) : Nat :=
  let own := s.ctx.block.bind (·.place src)
  (allCtx.filter fun j => j != s.cur && (s.at j).live && match (s.at j).block.bind (·.place src) with
    | none => false
    | some p => (match own with | none => true | some q => p < q)).length

/-- The entry that the issuing context reads. -/
def State.entry (s : State) (src : Nat) : Option VWord := (s.entries src)[s.rank src]?

/-- Take that entry out. -/
def State.takeEntry (s : State) (src : Nat) : State :=
  let r := s.rank src
  if src < 8 then
    { s with eng := { s.eng with ret := upd s.eng.ret (src - 4) ((nth s.eng.ret (src - 4) []).eraseIdx r) } }
  else { s with chans := upd s.chans (src - 8) ((nth s.chans (src - 8) []).eraseIdx r) }

/-- The row and the column of a core in the 4 by 4 grid of its cluster (R13). -/
def gridRow (core : Nat) : Nat := 2 * (core / 4 % 4 / 2) + core % 4 / 2
def gridCol (core : Nat) : Nat := 2 * (core / 4 % 4 % 2) + core % 2

/-- The core of the package at a place of the grid of a core's cluster (R13). -/
def gridCore (core row col : Nat) : Nat := core / 16 * 16 + (row / 2 * 2 + col / 2) * 4 + row % 2 * 2 + col % 2

/-- The order of the cluster's ring, as places (column, row) (R59). -/
def clusterRing : List (Nat × Nat) :=
  [(0, 0), (1, 0), (2, 0), (3, 0), (3, 1), (2, 1), (1, 1), (1, 2), (2, 2), (3, 2), (3, 3), (2, 3), (1, 3), (0, 3), (0, 2), (0, 1)]

/-- The order of a quad's ring, as cores of the quad (R59). -/
def quadRing : List Nat := [0, 1, 3, 2]

/-- The entry of a ring that comes `k` after another. -/
def ringStep {α : Type} [BEq α] (ring : List α) (a : α) (k : Nat) : α := (ring[(ring.idxOf a + k) % ring.length]?).getD a

/-- The core of the package that a channel of a core sends to (R59): 0 to 3 are xe, xw, xn, xs, and 4 to 7 the vector ones. -/
def neighbour (quad : Bool) (core c : Nat) : Nat :=
  let back := if quad then 3 else 15
  let ring (k : Nat) : Nat :=
    if quad then core / 4 * 4 + ringStep quadRing (core % 4) k
    else let p := ringStep clusterRing (gridCol core, gridRow core) k; gridCore core p.2 p.1
  match c % 4 with
  | 0 => ring 1
  | 1 => ring back
  | 2 => gridCore core (gridRow core - 1) (gridCol core)
  | _ => gridCore core (gridRow core + 1) (gridCol core)

/-- CHMODE selects the quad's channels (R59). -/
def State.quadMode (s : State) : Bool := s.regs.chmode.bits 0 2 == 0

/-- One entry leaves for the neighbour of a channel (R60). -/
def State.emitChan (s : State) (c : Nat) (v : VWord) : State :=
  { s with away := upd s.away c (nth s.away c 0 + 1), sent := s.sent ++ [.channel c (neighbour s.quadMode s.core c) v] }

/-- The entries in front of the first that is still missing, and what is left. -/
def readySlots : List Slot → List VWord × List Slot
  | [] => ([], [])
  | x :: t => match x.entry with
    | some v => let r := readySlots t; (v :: r.1, r.2)
    | none => ([], x :: t)

/-- The entries of a channel that nothing earlier is missing before leave, in issue order (R60). -/
def State.flushChan (s : State) (c : Nat) : State :=
  let r := readySlots (nth s.slots c [])
  r.1.foldl (fun s v => s.emitChan c v) { s with slots := upd s.slots c r.2 }

/-- Fill a context's place. -/
def fillSlot (i : Fin 11) (v : VWord) : List Slot → List Slot
  | [] => [⟨i, some v⟩]
  | x :: t => if x.ctx == i && x.entry.isNone then ⟨i, some v⟩ :: t else x :: fillSlot i v t

/-- Send one entry to the neighbour of a channel (R60): at once, or in its place among the entries that earlier instructions have
still to send. -/
def State.sendChan (s : State) (c : Nat) (v : VWord) : State :=
  match nth s.slots c [] with
  | [] => s.emitChan c v
  | l => State.flushChan { s with slots := upd s.slots c (fillSlot s.cur v l) } c

/-- An issued instruction that waits keeps its place in the order of the channels it writes (R60). -/
def State.reserveChan (s : State) (c : Nat) : State :=
  let l := nth s.slots c []
  if l.any fun x => x.ctx == s.cur && x.entry.isNone then s else { s with slots := upd s.slots c (l ++ [⟨s.cur, none⟩]) }

/-- A context gives up the places it has not filled. -/
def State.dropSlots (s : State) (i : Fin 11) : State :=
  if s.slots.toList.all (·.isEmpty) then s
  else
    (List.range 8).foldl (fun s c =>
      State.flushChan { s with slots := upd s.slots c ((nth s.slots c []).filter fun x => x.ctx != i || x.entry.isSome) } c) s

/-- After what ended a context's wait: unless an issued instruction of it waits on, it has no place in a channel's order. -/
def State.settled (s : State) (i : Fin 11) : State :=
  match (s.at i).block with
  | some b => if b.wait.issued then s else s.dropSlots i
  | none => s.dropSlots i

/-- ReadOp in scalar space (R6, R39). -/
def State.readG (s : State) (n : Field) : Word :=
  if n.toNat = 0 then 0 else if n.toNat < 32 then nth s.ctx.g n.toNat 0
  else match srcG n.toNat with
    | some q => ((s.entry q).getD 0).truncate 64
    | none => 0

/-- WriteOp in scalar space (R6, R39): g0 discards, q0 to q3 take a word into the context's staging buffer, a channel
sends an entry. -/
def State.writeG (s : State) (n : Field) (v : Word) : State :=
  if n.toNat = 0 then s
  else if n.toNat < 32 then s.put { s.ctx with g := upd s.ctx.g n.toNat v }
  else if n.toNat < 36 then
    s.put { s.ctx with stage := upd s.ctx.stage (n.toNat - 32) (nth s.ctx.stage (n.toNat - 32) [] ++ [v]) }
  else if 40 ≤ n.toNat ∧ n.toNat < 44 then s.sendChan (n.toNat - 40) (v.zeroExtend 512)
  else s

/-- ReadOp in vector space. -/
def State.readV (s : State) (n : Field) : VWord :=
  if n.toNat < 32 then nth s.ctx.v n.toNat 0
  else match srcV n.toNat with
    | some q => (s.entry q).getD 0
    | none => 0

/-- WriteOp in vector space. -/
def State.writeV (s : State) (n : Field) (v : VWord) : State :=
  if n.toNat < 32 then s.put { s.ctx with v := upd s.ctx.v n.toNat v }
  else if n.toNat < 36 then s.sendChan (n.toNat - 28) v else s

/-- Floating space. -/
def State.readF (s : State) (n : Field) : Word := nth s.ctx.f n.toNat 0
def State.writeF (s : State) (n : Field) (v : Word) : State := s.put { s.ctx with f := upd s.ctx.f n.toNat v }

/-- Mask space: k0 reads all ones and discards writes (R132). -/
def State.readK (s : State) (n : Nat) : Word := if n = 0 then BitVec.allOnes 64 else nth s.ctx.k n 0
def State.writeK (s : State) (n : Field) (v : Word) : State :=
  if n.toNat = 0 then s else s.put { s.ctx with k := upd s.ctx.k n.toNat v }

/-- The entries of a store-hold buffer: one for each store, whatever pieces it is cut to (R309). -/
def heldCount (l : List Held) : Nat := (l.filter (·.head)).length

/-! ### Where a context stands (R32) -/

/-- The head count of a line (R29). -/
def Line.heads (l : Line) : Nat := ((l.bytes[1]?).getD 0).toNat / 8

/-- The address of the next head (R32). -/
def Ctx.next (c : Ctx) : Word :=
  let i := (c.pc.toNat % 64 - 2) / 2
  if i + 1 < (c.line.map Line.heads).getD 0 then c.pc + 2 else BitVec.ofNat 64 (c.pc.toNat / 64 * 64 + 66)

/-- A context goes on at `t`; a transfer fetches anew, the next head of the same line does not (R34). -/
def Ctx.goto (c : Ctx) (t : Word) (keep : Bool) : Ctx :=
  { c with pc := t, block := none, line := if keep then c.line else none,
           spec := c.spec.map fun p => { p with issued := p.issued + 1 } }

/-- An instruction completed: the context goes on at the next head. -/
def Ctx.advance (c : Ctx) : Ctx := c.goto c.next (c.next.toNat / 64 == c.pc.toNat / 64)

/-- Another context's `ssave` is bringing this one to its quiet point (R363): it issues nothing. -/
def State.stopped (s : State) (i : Fin 11) : Bool :=
  allCtx.any fun j => match (s.at j).live, (s.at j).block with
    | true, some ⟨.save _ k _, _, _⟩ => k == i
    | _, _ => false

/-! ### Gangs, halts (R64, R99, R342, R391, R392) -/

/-- GDIVCNT gains one and stops at its largest value (R56). -/
def State.countDivergence (s : State) : State :=
  let n := s.regs.gdivcnt.bits 0 32
  { s with regs := { s.regs with gdivcnt := BitVec.ofNat 64 (if n = 2 ^ 32 - 1 then n else n + 1) } }

/-- A gang dissolves with the count of R64. -/
def State.dissolve (s : State) (i : Fin 11) : State :=
  match (s.at i).gang with
  | none => s
  | some _ => (s.putAt i { s.at i with gang := none }).countDivergence

/-- This core halts alone, for `halt` or a vector failure. -/
def State.haltCore (s : State) (why : HaltCause) (reason vcause : Nat) (i : Fin 11) : State :=
  { s with dbg := { s.dbg with halted := some why, reason := reason, core := s.core % 16, ctx := i.val, vcause := vcause } }

/-- Another core of the cluster is halted, for this cause unless it has one already. -/
def Debug.haltOther (d : Debug) (core : Nat) (why : HaltCause) : Debug :=
  if d.others.any (·.1 == core) then d else { d with others := d.others ++ [(core, why)] }

/-- The whole cluster halts (R392); under XOUT the package cross-trigger fires. Each core keeps the cause that it was halted
by before. -/
def State.haltCluster (s : State) (reason core ctx : Nat) : State :=
  { s with
    dbg := { ((List.range 16).filter (· != s.core % 16)).foldl (fun d c => d.haltOther c .cluster) s.dbg with
      halted := some (s.dbg.halted.getD .cluster)
      clusterHalted := true, reason := reason, core := core, ctx := ctx, vcause := 0 }
    sent := if s.dbg.xout then s.sent ++ [.halt (s.core / 16)] else s.sent }

/-! ### Trace records (R396) -/

/-- A trace session of the incarnation that a context now is. -/
def Session.of (x : Session) (lcore : BitVec 29) (i : Fin 11) (gen : BitVec 8) : Bool :=
  x.lcore == lcore && x.ctx.toNat == i.val && x.gen == gen

/-- The record of a kind: its two doublewords. (DEDUCED: log entry 76.) -/
def State.record (s : State) (i : Fin 11) (kind : Nat) (w : Word) : Word × Word :=
  (BitVec.ofNat 64 (kind * 2 ^ 60 + i.val * 2 ^ 56 + s.units.pcyc.toNat % 2 ^ 56), w)

/-- A record goes to the staging buffer of the sessions on a context that ask for its kind. -/
def State.trace (s : State) (i : Fin 11) (kind : Nat) (w : Word) : State :=
  if s.dbg.sessions.isEmpty then s
  else
    let add (x : Session) : Session :=
      if x.of s.lcore i (s.at i).gen && x.mask.getLsbD kind then { x with staged := x.staged ++ [s.record i kind w] } else x
    { s with dbg := { s.dbg with sessions := s.dbg.sessions.map add } }

/-! ### Taking an exception (R342, R343) -/

/-- CAUSE of a trap (R339). -/
def causeWord (t : TrapInfo) (intr imp eng : Bool) : Word :=
  BitVec.ofNat 64 (intr.toNat * 2 ^ 63 + imp.toNat * 2 ^ 62 + eng.toNat * 2 ^ 61 + t.sub % 256 * 256 + t.cause % 256)

/-- STATUS after a trap's entry (R342): NEST if a handler ran, PPL and PIE saved, PL 1, IE 0, TH 1. -/
def statusEntry (st : Word) : Word :=
  let st := if st.bit 4 then putBit st 7 true else st
  let st := putBit (putBit st 1 (st.bit 0)) 3 (st.bit 2)
  putBit (putBit (putBit st 0 true) 2 false) 4 true

/-- A context at a trap's entry: the saved registers, the status and the vector (R342). -/
def Ctx.enter (c : Ctx) (t : TrapInfo) (cause epc tvec free : Word) : Ctx :=
  { c with
    epc := epc, faddr := t.faddr.getD free, finfo := t.finfo, cause := cause, status := statusEntry c.status
    vstart := match t.vstart with | none => c.vstart | some j => BitVec.ofNat 64 j
    pc := tvec, line := none, block := none, vectoring := true, age := 0 }

/-- A context takes a trap (R342). A vector of 0 halts the core. (DEDUCED: log entry 16.) -/
def State.takeTrap (s : State) (i : Fin 11) (t : TrapInfo) (intr imp eng : Bool) (epc : Word) : State :=
  let c := (s.at i).enter t (causeWord t intr imp eng) epc s.regs.tvec (Config.faddr s.tick)
  let s := ((s.putAt i c).dissolve i).trace i 2 epc
  if s.regs.tvec = 0 then s.haltCore .vector 6 t.cause i else s

/-- Return from an exception (R348): PC, PL, IE and TH. -/
def Ctx.fromTrap (c : Ctx) : Ctx :=
  let st := c.status
  let st := putBit (putBit (putBit st 0 (st.bit 1)) 2 (st.bit 3)) 4 false
  { c with status := st, pc := c.epc, line := none, block := none }

/-- A precise trap of a context outside any window: `brk` under BRKH halts the cluster instead (R100). -/
def State.precise (s : State) (i : Fin 11) (t : TrapInfo) : State :=
  if t.cause = 10 ∧ s.dbg.brkh then
    (s.putAt i { s.at i with block := none, line := none }).haltCluster 2 (s.core % 16) i.val
  else if t.cause = 11 ∨ t.cause = 12 then
    s.takeTrap i { t with faddr := some (s.at i).pc } false false false (s.at i).next
  else s.takeTrap i t false false false (s.at i).pc

/-- A context that waits. -/
def Ctx.blockedBy (c : Ctx) (b : Block) : Ctx := { c with block := some b }

/-- A block on an empty return queue is counted once (R239). -/
def State.countWait (s : State) (w : Wait) : State :=
  let fresh := match s.ctx.block with | none => true | some b => b.wait != w
  match w with
  | .queue _ =>
    let e := s.regs.lodcnt.bits 0 32
    if fresh && e != 2 ^ 32 - 1 then { s with regs := { s.regs with lodcnt := s.regs.lodcnt.setBits 0 32 (e + 1) } } else s
  | _ => s

/-- The places of an instruction's sources as it blocks: one that it claimed already is kept, the others come last. -/
def placesOf (old : Option Block) (fresh : Nat) (srcs : List Nat) : List (Nat × Nat) :=
  srcs.map fun q => (q, ((old.bind (·.place q)).getD fresh))

/-- A wait is the one that a block already is: the same, or another part of what its instruction, issued, awaits. -/
def Block.goesOn (b : Block) (w : Wait) : Bool := b.wait == w || (b.wait.issued && w.issued)

/-- A context blocks (R54). An instruction that goes on with its wait keeps its place in the orders of service; one that comes to
wait for something else has the last place there. -/
def State.blockOn (s : State) (w : Wait) (srcs : List Nat) : State :=
  let seq := match s.ctx.block with
    | some b => if b.goesOn w then b.seq else s.seqNo
    | none => s.seqNo
  { (s.countWait w).put (s.ctx.blockedBy ⟨w, seq, placesOf s.ctx.block s.seqNo srcs⟩) with seqNo := s.seqNo + 1 }

/-- A trap of the issuing context's instruction: taken at once, or deferred inside a window (R312). -/
def State.raise (s : State) (t : TrapInfo) : State :=
  if s.ctx.spec.isEmpty then s.precise s.cur t else s.blockOn (.deferred t) []

/-! ### How an instruction ends -/

/-- What one issue of an instruction comes to. -/
inductive Effect where
  /-- It completes and the context goes on at the next head. -/
  | done (s : State)
  /-- It completes with a transfer to a target already checked (R93). -/
  | jump (s : State) (t : Word)
  /-- It traps precisely, with no effect. -/
  | trap (t : TrapInfo)
  /-- It blocks, with what it has done so far. -/
  | wait (s : State) (w : Wait)
  /-- It has already said where the context stands. -/
  | is (s : State)

/-- Take each queue's and channel's entry (R77). -/
def State.consume (s : State) (srcs : List Nat) : State := srcs.foldl (fun s q => s.takeEntry q) s

/-- What stands for a cause where an instruction finds no free walker (R357): no trap, and its context waits. -/
def noWalker : Nat := 256

/-- Carry an effect out. `srcs` are the queues and channels the instruction reads. -/
def State.finish (s : State) (srcs : List Nat) : Effect → State
  | .done t => let t := t.consume srcs; t.put t.ctx.advance
  | .jump t a => let t := (t.consume srcs).trace s.cur 1 a; t.put (t.ctx.goto a false)
  | .trap t => if t.cause = noWalker then s.blockOn .freeWalker srcs else s.raise t
  | .wait t w => t.blockOn w srcs
  | .is t => t

end Sys2Proof.Machine
end

