-- ==== Sys2Proof/Machine/Operands.lean ====
section
/-!
DEFINITION. The operand forms: the register spaces and their checks (R39 to R41, R59), what a window lets issue (R308),
the waits for queue and channel entries and for room (R60, R238, R239), and the issue of one instruction over them.
-/

namespace Sys2Proof.Machine

open Sys2Proof

/-- The register spaces (R39). -/
inductive Space where
  | g | v | f | k | t | a
  deriving DecidableEq, Repr

/-- One register operand: its field (0 D, 1 A, 2 B, 3 C), its space and number, and how it is used. -/
structure Use where
  field : Nat
  space : Space
  num : Nat
  rd : Bool
  wr : Bool
  deriving DecidableEq, Repr

namespace Use
/-- A source of scalar space in field `i`. -/
def rG (i : Nat) (n : Field) : Use := ⟨i, .g, n.toNat, true, false⟩
/-- The destination of scalar space. -/
def wG (n : Field) : Use := ⟨0, .g, n.toNat, false, true⟩
def rwG (n : Field) : Use := ⟨0, .g, n.toNat, true, true⟩
def rV (i : Nat) (n : Field) : Use := ⟨i, .v, n.toNat, true, false⟩
def wV (n : Field) : Use := ⟨0, .v, n.toNat, false, true⟩
def rwV (n : Field) : Use := ⟨0, .v, n.toNat, true, true⟩
def rF (i : Nat) (n : Field) : Use := ⟨i, .f, n.toNat, true, false⟩
def wF (n : Field) : Use := ⟨0, .f, n.toNat, false, true⟩
def rwF (n : Field) : Use := ⟨0, .f, n.toNat, true, true⟩
def rK (i : Nat) (n : Field) : Use := ⟨i, .k, n.toNat, true, false⟩
def wK (n : Field) : Use := ⟨0, .k, n.toNat, false, true⟩
def tile (i : Nat) (n : Field) : Use := ⟨i, .t, n.toNat, false, false⟩
def acc (i : Nat) (n : Field) : Use := ⟨i, .a, n.toNat, false, false⟩
end Use


/-- Whether a channel of the core has a source (to read) or a destination (to write) under CHMODE (R59). The channels
are 0 to 3 xe, xw, xn, xs and 4 to 7 the vector ones. -/
def State.channelPresent (s : State) (c : Nat) (write : Bool) : Bool :=
  let quad := s.quadMode
  let row := if quad then s.core % 4 / 2 else gridRow s.core
  let last := if quad then 1 else 3
  match c % 4 with
  | 2 => if write then row != 0 else row != last
  | 3 => if write then row != last else row != 0
  | _ => true

/-- Why a register operand is refused (R40, R41, R45): 0 a reserved number or an absent channel, 1 outside the
allotment, 2 the wrong direction. (DEDUCED: log entry 80.) -/
def State.useFault (s : State) (u : Use) : Option Nat :=
  let n := u.num
  match u.space with
  | .g =>
    if 44 ≤ n then some 0
    else if n < 32 then (if 8 ≤ n ∧ 8 * s.ctx.sn ≤ n then some 1 else none)
    else if n < 36 then (if u.rd then some 2 else none)
    else if n < 40 then (if u.wr then some 2 else none)
    else if (u.rd && !s.channelPresent (n - 40) false) || (u.wr && !s.channelPresent (n - 40) true) then some 0 else none
  | .v =>
    if 36 ≤ n then some 0
    else if n < 32 then (if 8 * s.ctx.vn ≤ n then some 1 else none)
    else if (u.rd && !s.channelPresent (n - 28) false) || (u.wr && !s.channelPresent (n - 28) true) then some 0 else none
  | .f => if 16 ≤ n then some 0 else none
  | .k => if 8 ≤ n then some 0 else none
  | .t => if 8 ≤ n then some 0 else none
  | .a => if 4 ≤ n then some 0 else none

/-- The ILLREG of a refused operand (R43, R45). -/
def illreg (op : Nat) (u : Use) (kind : Nat) : TrapInfo :=
  ⟨3, if kind = 2 then 2 else 1, none, BitVec.ofNat 64 (u.num * 2 ^ 16 + op * 2 ^ 8 + kind * 2 ^ 4 + u.field), none⟩

/-- The first refused operand of a list in the order D, A, B, C (R44). -/
def State.firstUse (s : State) (op : Nat) : List Use → Option TrapInfo
  | [] => none
  | u :: t =>
    match s.useFault u with
    | some k => some (illreg op u k)
    | none => s.firstUse op t

/-- The queue or channel a source names. -/
def Use.src (u : Use) : Option Nat :=
  if u.rd then (match u.space with | .g => srcG u.num | .v => srcV u.num | _ => none) else none

/-- Whether the operand is a queue register or a channel register. -/
def Use.special (u : Use) : Bool :=
  match u.space with
  | .g => 32 ≤ u.num
  | .v => 32 ≤ u.num
  | _ => false

/-- The distinct queues and channels that a list of operands reads (R77). -/
def sources (l : List Use) : List Nat := (l.filterMap Use.src).eraseDups

/-- The first source with no entry for this context (R60, R239). -/
def State.emptySource (s : State) : List Nat → Option Wait
  | [] => none
  | q :: t =>
    match s.entry q with
    | some _ => s.emptySource t
    | none => some (if q < 8 then .queue q else .chanIn (q - 8))

/-- The entries of a channel that count against a writer (R60): those the neighbour has not read, and those that instructions
which issued earlier have still to send; a writer's own place does not. -/
def State.chanLoad (s : State) (i : Fin 11) (c : Nat) : Nat :=
  nth s.away c 0 + ((nth s.slots c []).filter fun x => x.ctx != i || x.entry.isSome).length

/-- The channel that a destination names. -/
def Use.dest (u : Use) : Option Nat :=
  if u.wr && u.space == .g && 40 ≤ u.num then some (u.num - 40)
  else if u.wr && u.space == .v && 32 ≤ u.num then some (u.num - 28) else none

/-- The first destination without room (R60, R238). -/
def State.fullDest (s : State) : List Use → Option Wait
  | [] => none
  | u :: t =>
    if u.wr && u.space == .g && 32 ≤ u.num && u.num < 36 &&
        Config.stageDepth ≤ (nth s.ctx.stage (u.num - 32) []).length then some (.stage (u.num - 32))
    else
      match u.dest with
      | some c => if Config.channelDepth ≤ s.chanLoad s.cur c then some (.chanOut c) else s.fullDest t
      | none => s.fullDest t

/-- The scalar or vector register that an operand writes, by number, the vector ones from 32 on. -/
def Use.reg (u : Use) : Option Nat :=
  if u.wr && u.num < 32 then (match u.space with | .g => some u.num | .v => some (32 + u.num) | _ => none) else none

/-- Early reads whose address could come from a register that the instruction writes were performed before its issue (R192). -/
def State.wroteRegs (s : State) (i : Fin 11) (uses : List Use) : State :=
  { s with early := s.early.map fun e => if e.ctx == i then { e with wrote := uses.filterMap Use.reg ++ e.wrote } else e }

/-- An instruction that issued and waits keeps its place in the order of the channels it will write (R60). -/
def State.reserve (s : State) (uses : List Use) : State :=
  match s.ctx.block with
  | some b => if b.wait.issued then (uses.filterMap Use.dest).foldl (fun s c => s.reserveChan c) s else s
  | none => s

/-- What the issue of an instruction leaves behind besides its effect: its place in the order of the channels it will write (R60),
and the registers it writes (R192). -/
def State.issued (t : State) (i : Fin 11) (uses : List Use) : State := (t.reserve uses).wroteRegs i uses

/-- The instruction is held at issue by a stall of bounded length (R54, R58): it changes nothing, and the choice of a context
passes on. -/
def State.stall (s : State) : State := { s with stalled := true }

/-- What the window of a collective branch does with an instruction (R308, R309): it issues; or it stalls until the
vote resolves; or it stalls and, the window closed, waits until the store-hold buffer is empty. -/
inductive Class where
  | free | stall | ordered
  deriving DecidableEq, Repr

/-- Privilege (R338, R346): PROT with sub-code 3. (DEDUCED: log entry 80.) -/
def privileged : TrapInfo := ⟨6, 3, none, 0, none⟩

/-- Whether the window holds its last instruction (R308). -/
def Ctx.windowFull (c : Ctx) : Bool :=
  match c.spec with
  | [] => false
  | p :: _ => Config.windowLength ≤ p.issued

/-- The issue of an instruction of opcode `op`: the register checks (R44 step 5), the privilege check (step 6), the
stall in a window, the waits for entries and for room, and then its own effect. -/
def State.run (s : State) (op : Nat) (cls : Class) (uses : List Use) (priv : Bool) (body : State → Effect) : State :=
  match s.firstUse op uses with
  | some t => s.raise t
  | none =>
    if priv && !s.ctx.pl then s.raise privileged
    else if !s.ctx.spec.isEmpty && (cls != .free || uses.any Use.special) then s.blockOn .window []
    else if s.ctx.windowFull then s.blockOn .windowFull []
    else if cls == .ordered && !s.ctx.hold.isEmpty then s.stall
    else
      match s.emptySource (sources uses) with
      | some w => s.blockOn w (sources uses)
      | none =>
        match s.fullDest uses with
        | some w => s.blockOn w (sources uses)
        | none => (s.finish (sources uses) (body s)).issued s.cur uses

/-- The outcome of an instruction: this machine always goes on. -/
abbrev Out := Host.Outcome State Fault Refusal

/-- An instruction without privilege. -/
def State.issue (s : State) (op : Nat) (cls : Class) (uses : List Use) (body : State → Effect) : Out :=
  .next (s.run op cls uses false body)

/-- A privileged instruction. -/
def State.issueP (s : State) (op : Nat) (cls : Class) (uses : List Use) (body : State → Effect) : Out :=
  .next (s.run op cls uses true body)

end Sys2Proof.Machine
end

