-- ==== Sys2Proof/Machine/Flags.lean ====
section
/-!
DEFINITION. The number formats (R102 to R110), rounding (R111 to R113), the flags (R114, R115), the random stream (R116)
and the exact arithmetic over them. Values are exact: a sign, a natural significand and a power of two.
-/

namespace Sys2Proof.Machine

open Sys2Proof

/-- The flags of R114; `of` is overflow. -/
structure Flags where
  nv : Bool
  dz : Bool
  of : Bool
  uf : Bool
  nx : Bool
  deriving DecidableEq, Repr

def Flags.none : Flags := ⟨false, false, false, false, false⟩
def Flags.invalid : Flags := ⟨true, false, false, false, false⟩
def Flags.or (a b : Flags) : Flags := ⟨a.nv || b.nv, a.dz || b.dz, a.of || b.of, a.uf || b.uf, a.nx || b.nx⟩

/-- The flags in their places of FRM (R115). -/
def Flags.word (f : Flags) : Word :=
  BitVec.ofNat 64 (f.nx.toNat * 256 + f.uf.toNat * 512 + f.of.toNat * 1024 + f.dz.toNat * 2048 + f.nv.toNat * 4096)

/-- A value: a NaN, an infinity, or (−1)^neg × m × 2^e. -/
inductive Num where
  | nan (signalling : Bool)
  | inf (neg : Bool)
  | fin (neg : Bool) (m : Nat) (e : Int)
  deriving DecidableEq, Repr

/-- A floating format (R102): exponent bits, fraction bits, bias, and whether it has infinities, and a NaN. -/
structure Format where
  ew : Nat
  mw : Nat
  bias : Nat
  ieee : Bool
  hasNan : Bool
  deriving DecidableEq, Repr

def fp32 : Format := ⟨8, 23, 127, true, true⟩
def fp16 : Format := ⟨5, 10, 15, true, true⟩
def bf16 : Format := ⟨8, 7, 127, true, true⟩
def e4m3 : Format := ⟨4, 3, 7, false, true⟩
def e5m2 : Format := ⟨5, 2, 15, true, true⟩
def e2m1 : Format := ⟨2, 1, 1, false, false⟩
def fa48 : Format := ⟨8, 39, 127, true, true⟩

/-- The floating formats by code (R110). -/
def formatOf : Nat → Option Format
  | 0 => some fp32 | 1 => some fp16 | 2 => some bf16 | 3 => some e4m3 | 4 => some e5m2 | 5 => some e2m1
  | 15 => some fa48 | _ => none

/-- The integer formats by code: signed or not, and the width (R107, R110). -/
def integerOf : Nat → Option (Bool × Nat)
  | 8 => some (true, 8) | 9 => some (false, 8) | 10 => some (true, 32) | 11 => some (false, 32)
  | 12 => some (true, 64) | 13 => some (false, 64) | 14 => some (true, 48) | _ => none

/-- Read an encoding of a floating format (R103, R106). -/
def Format.read (f : Format) (x : Nat) : Num :=
  let m := x % 2 ^ f.mw
  let e := x / 2 ^ f.mw % 2 ^ f.ew
  let neg := x / 2 ^ (f.mw + f.ew) % 2 == 1
  let top := 2 ^ f.ew - 1
  if f.ieee && e == top then
    if m = 0 then .inf neg else .nan (f.mw != 39 && m < 2 ^ (f.mw - 1))
  else if f.hasNan && !f.ieee && e == top && m == 2 ^ f.mw - 1 then .nan false
  else if e = 0 then .fin neg m (1 - (f.bias : Int) - f.mw)
  else .fin neg (2 ^ f.mw + m) ((e : Int) - f.bias - f.mw)

/-- The canonical NaN (R106). -/
def Format.canonical (f : Format) : Nat :=
  if f.ieee then (2 ^ f.ew - 1) * 2 ^ f.mw + 2 ^ (f.mw - 1) else if f.hasNan then 2 ^ (f.ew + f.mw) - 1 else 0

/-- An infinity of the format. -/
def Format.infinity (f : Format) (neg : Bool) : Nat := neg.toNat * 2 ^ (f.ew + f.mw) + (2 ^ f.ew - 1) * 2 ^ f.mw

/-- The largest finite magnitude, without the sign (R102). -/
def Format.largest (f : Format) : Nat :=
  if f.ieee then (2 ^ f.ew - 1) * 2 ^ f.mw - 1 else if f.hasNan then 2 ^ (f.ew + f.mw) - 2 else 2 ^ (f.ew + f.mw) - 1

/-- The number of bits of a natural number. -/
def bitLen (m : Nat) : Nat := if m = 0 then 0 else Nat.log2 m + 1

/-- Whether the magnitude moves up from its lower neighbour: `rem` of `unit` is the fraction between the neighbours
(R111, R113). -/
def roundsUp (rm : Nat) (neg odd : Bool) (rem unit r : Nat) : Bool :=
  match rm with
  | 0 => unit < 2 * rem || (unit == 2 * rem && odd)
  | 1 => false
  | 2 => !neg && rem != 0
  | 3 => neg && rem != 0
  | _ => r < 2 ^ 16 * rem / unit

/-- Round a finite value to a floating format (R111 to R114), with the flags; `r` are the random bits of SR. -/
def Format.round (f : Format) (rm : Nat) (sat : Bool) (r : Nat) (neg : Bool) (m : Nat) (e : Int) : Nat × Flags :=
  let sign := neg.toNat * 2 ^ (f.ew + f.mw)
  if m = 0 then (sign, .none)
  else
    let least : Int := 1 - (f.bias : Int) - f.mw
    let q : Int := max (e + bitLen m - 1 - f.mw) least
    let exact : Bool := decide (q ≤ e)
    let unit := 2 ^ (q - e).toNat
    let lo := if exact then m * 2 ^ (e - q).toNat else m / unit
    let rem := if exact then 0 else m % unit
    let sig := lo + (roundsUp rm neg (lo % 2 == 1) rem unit r).toNat
    let (sig, q) := if sig = 2 ^ (f.mw + 1) then (2 ^ f.mw, q + 1) else (sig, q)
    let inexact := rem != 0
    let biased : Int := q + f.mw + f.bias
    let code : Nat := if sig < 2 ^ f.mw then sig else biased.toNat * 2 ^ f.mw + (sig - 2 ^ f.mw)
    if f.largest < code then
      let overflow : Flags := ⟨false, false, true, false, true⟩
      let toInf := f.ieee && !sat && (match rm with | 0 => true | 1 => false | 2 => !neg | 3 => neg | _ => true)
      (if toInf then f.infinity neg else sign + f.largest, overflow)
    else (sign + code, ⟨false, false, false, inexact && sig != 0 && decide (sig < 2 ^ f.mw), inexact⟩)

/-! ### TW8 (R108, R109) -/

/-- A TW8 term in units of 2^−6. -/
def tw8Term (s e : Nat) : Int := if e = 7 then 0 else if s = 1 then -(2 ^ (6 - e) : Int) else 2 ^ (6 - e)

/-- The value of a TW8 code in units of 2^−6. -/
def tw8Units (c : Nat) : Int := tw8Term (c / 128 % 2) (c / 16 % 8) + tw8Term (c / 8 % 2) (c % 8)

/-- A TW8 value. -/
def tw8Read (c : Nat) : Num := let v := tw8Units c; .fin (decide (v < 0)) v.natAbs (-6)

/-- The non-negative canonical codes in the order of R109's tests: no term, one term, two of equal signs, two of
opposite signs; the smaller E1 first. -/
def tw8Codes : List Nat :=
  [0x77] ++ (List.range 7).map (fun e => e * 16 + 7) ++
    ((List.range 7).flatMap fun a => (List.range 7).filterMap fun b => if a < b then some (a * 16 + b) else none) ++
    (List.range 7).map (fun a => a * 16 + a) ++
    ((List.range 7).flatMap fun a => (List.range 7).filterMap fun b => if a < b then some (a * 16 + 8 + b) else none)

/-- The canonical code of a magnitude in units of 2^−6, if it has one. -/
def tw8Find (v : Nat) : Option Nat := tw8Codes.find? fun c => tw8Units c == (v : Int)

/-- Turn the sign of every present term. -/
def tw8Negate (c : Nat) : Nat :=
  (if c / 16 % 8 = 7 then c else c ^^^ 0x80) |> fun c => if c % 8 = 7 then c else c ^^^ 0x08

/-- The largest TW8 magnitude at most `v`, and the least above it, in units of 2^−6. -/
def tw8Below : Nat → Nat
  | 0 => 0
  | n + 1 => if (tw8Find (n + 1)).isSome then n + 1 else tw8Below n
def tw8Above (v : Nat) : Nat → Nat
  | 0 => v
  | n + 1 => if (tw8Find v).isSome then v else tw8Above (v + 1) n

/-- Round a finite value to TW8 (R111 to R113): ties toward the smaller magnitude. A magnitude above 2 gives 2 and counts as an
overflow in every mode. (DESIGN CHOICE: log entry 101.) -/
def tw8Round (rm r : Nat) (neg : Bool) (m : Nat) (e : Int) : Nat × Flags :=
  let sh := (-6 - e).toNat
  let unit := 2 ^ sh
  let scaled := m * 2 ^ (e + 6).toNat
  let whole := scaled / unit
  let overflow : Flags := ⟨false, false, true, false, true⟩
  let enc (v : Nat) : Nat := let c := (tw8Find v).getD 0x77; if neg then tw8Negate c else c
  if 128 < whole || (whole == 128 && scaled % unit != 0) then (enc 128, overflow)
  else
    let lo := tw8Below whole
    if lo * unit = scaled then (enc lo, .none)
    else
      let hi := tw8Above (lo + 1) 128
      let rem := scaled - lo * unit
      (enc (if roundsUp rm neg false rem ((hi - lo) * unit) r then hi else lo), ⟨false, false, false, false, true⟩)

/-! ### Integers (R107, R112) -/

/-- The range of an integer format. -/
def intLow (signed : Bool) (w : Nat) : Int := if signed then -(2 ^ (w - 1) : Int) else 0
def intHigh (signed : Bool) (w : Nat) : Int := if signed then 2 ^ (w - 1) - 1 else 2 ^ w - 1

/-- Sat (R6): the nearer end of a range outside it. -/
def satInt (x lo hi : Int) : Int := if x < lo then lo else if hi < x then hi else x

/-- Round a finite value to an integer, before its range. -/
def roundInt (rm r : Nat) (neg : Bool) (m : Nat) (e : Int) : Int × Bool :=
  let unit := 2 ^ (-e).toNat
  let scaled := m * 2 ^ e.toNat
  let lo := scaled / unit
  let rem := scaled % unit
  let mag := lo + (roundsUp rm neg (lo % 2 == 1) rem unit r).toNat
  (if neg then -(mag : Int) else mag, rem != 0)

/-- The low `w` bits of an integer, as a number. -/
def lowBits (w : Nat) (x : Int) : Nat := (x % (2 ^ w : Int)).toNat

/-! ### Values by format code (R110) -/

/-- The value of an encoding in the format of a code; higher bits of `x` are ignored. -/
def readCode (code x : Nat) : Num :=
  match formatOf code with
  | some f => f.read x
  | none =>
    if code = 6 then (if x % 256 = 255 then .nan false else .fin false 1 ((x % 256 : Nat) - 127 : Int))
    else if code = 7 then tw8Read (x % 256)
    else match integerOf code with
      | some (sg, w) =>
        let v : Int := if sg && x % 2 ^ w ≥ 2 ^ (w - 1) then (x % 2 ^ w : Nat) - (2 ^ w : Nat) else (x % 2 ^ w : Nat)
        .fin (decide (v < 0)) v.natAbs 0
      | none => .nan false

/-- Write a value in the format of a code, by Round and R112, with the flags of the conversion (R126); a NaN source
gives the canonical NaN, or the value zero with NV where there is none. -/
def writeCode (code rm : Nat) (sat : Bool) (r : Nat) (x : Num) : Nat × Flags :=
  match formatOf code, x with
  | some f, .nan sg =>
    if f.hasNan then (f.canonical, ⟨sg || !f.ieee, false, false, false, false⟩) else (0, .invalid)
  | some f, .inf neg =>
    if f.ieee then (f.infinity neg, .none) else (neg.toNat * 2 ^ (f.ew + f.mw) + f.largest, .invalid)
  | some f, .fin neg m e => f.round rm sat r neg m e
  | none, .nan _ => (if code = 7 then 0x77 else if code = 6 then 0xFF else 0, .invalid)
  | none, .inf neg =>
    if code = 7 then (if neg then 0x88 else 0x00, .invalid)
    else match integerOf code with
      | some (sg, w) => (lowBits w (if neg then intLow sg w else intHigh sg w), .invalid)
      | none => (0, .none)
  | none, .fin neg m e =>
    if code = 7 then tw8Round rm r neg m e
    else match integerOf code with
      | some (sg, w) =>
        let (v, inexact) := roundInt rm r neg m e
        let c := satInt v (intLow sg w) (intHigh sg w)
        (lowBits w c, if c = v then ⟨false, false, false, false, inexact⟩ else .invalid)
      | none => (0, .none)

/-! ### Exact arithmetic -/

/-- The signed significand. -/
def signed (neg : Bool) (m : Nat) : Int := if neg then -(m : Int) else m

/-- A value from a signed significand; a zero takes the given sign. -/
def ofSigned (zeroNeg : Bool) (v : Int) (e : Int) : Num :=
  if v = 0 then .fin zeroNeg 0 e else .fin (decide (v < 0)) v.natAbs e

def Num.isNan : Num → Bool | .nan _ => true | _ => false
def Num.isSnan : Num → Bool | .nan s => s | _ => false
def Num.neg : Num → Num
  | .nan s => .nan s
  | .inf n => .inf !n
  | .fin n m e => .fin (!n) m e
def Num.isZero : Num → Bool | .fin _ 0 _ => true | _ => false
def Num.isInf : Num → Bool | .inf _ => true | _ => false
def Num.sign : Num → Bool | .nan _ => false | .inf n => n | .fin n _ _ => n

/-- An exact sum, or an invalid operation (∞ − ∞, a signalling NaN); the sign of an exact zero by R112. -/
def Num.add (rm : Nat) (a b : Num) : Num × Flags :=
  match a, b with
  | .nan s, y => (.nan false, ⟨s || y.isSnan, false, false, false, false⟩)
  | x, .nan s => (.nan false, ⟨s || x.isSnan, false, false, false, false⟩)
  | .inf p, .inf q => if p = q then (.inf p, .none) else (.nan false, .invalid)
  | .inf p, .fin .. => (.inf p, .none)
  | .fin .., .inf q => (.inf q, .none)
  | .fin p m e, .fin q n d =>
    let low := min e d
    let v := signed p (m * 2 ^ (e - low).toNat) + signed q (n * 2 ^ (d - low).toNat)
    (ofSigned (if p = q then p else rm == 3) v low, .none)

/-- An exact product, or an invalid operation (0 × ∞). -/
def Num.mul (a b : Num) : Num × Flags :=
  match a, b with
  | .nan s, y => (.nan false, ⟨s || y.isSnan, false, false, false, false⟩)
  | x, .nan s => (.nan false, ⟨s || x.isSnan, false, false, false, false⟩)
  | .inf p, .inf q => (.inf (p != q), .none)
  | .inf p, .fin q n _ => if n = 0 then (.nan false, .invalid) else (.inf (p != q), .none)
  | .fin p m _, .inf q => if m = 0 then (.nan false, .invalid) else (.inf (p != q), .none)
  | .fin p m e, .fin q n d => (.fin (p != q) (m * n) (e + d), .none)

/-- A quotient with 128 bits beyond the point and a last bit that tells a remainder: it rounds as the exact one. -/
def Num.div (a b : Num) : Num × Flags :=
  match a, b with
  | .nan s, y => (.nan false, ⟨s || y.isSnan, false, false, false, false⟩)
  | x, .nan s => (.nan false, ⟨s || x.isSnan, false, false, false, false⟩)
  | .inf _, .inf _ => (.nan false, .invalid)
  | .inf p, .fin q _ _ => (.inf (p != q), .none)
  | .fin p _ _, .inf q => (.fin (p != q) 0 0, .none)
  | .fin p m e, .fin q n d =>
    if n = 0 then (if m = 0 then (.nan false, .invalid) else (.inf (p != q), ⟨false, true, false, false, false⟩))
    else
      let k := m * 2 ^ 128
      (.fin (p != q) (2 * (k / n) + (if k % n = 0 then 0 else 1)) (e - d - 129), .none)

/-- The integer square root, bit by bit from the top. -/
def isqrt (n : Nat) : Nat → Nat → Nat
  | 0, r => r
  | k + 1, r => let c := r + 2 ^ k; isqrt n k (if c * c ≤ n then c else r)

/-- A square root with 64 bits beyond the significand and a last bit that tells a remainder. -/
def Num.sqrt (a : Num) : Num × Flags :=
  match a with
  | .nan s => (.nan false, ⟨s, false, false, false, false⟩)
  | .inf p => if p then (.nan false, .invalid) else (.inf false, .none)
  | .fin p m e =>
    if m = 0 then (.fin p 0 e, .none)
    else if p then (.nan false, .invalid)
    else
      let (m, e) := if e % 2 = 0 then (m, e) else (2 * m, e - 1)
      let k := m * 2 ^ 128
      let r := isqrt k ((bitLen k + 2) / 2) 0
      (.fin false (2 * r + (if r * r = k then 0 else 1)) (e / 2 - 65), .none)

/-- Order of two values that are no NaN: negative, zero or positive difference; both zeros equal. -/
def Num.cmp (a b : Num) : Int :=
  match a, b with
  | .inf p, .inf q => (if p = q then 0 else if p then -1 else 1)
  | .inf p, _ => if p then -1 else 1
  | _, .inf q => if q then 1 else -1
  | .fin p m e, .fin q n d =>
    let low := min e d
    signed p (m * 2 ^ (e - low).toNat) - signed q (n * 2 ^ (d - low).toNat)
  | _, _ => 0

/-- Whether `fmin` (or `fmax`) takes its first operand, −0 below +0 (R123). -/
def Num.firstIs (greater : Bool) (a b : Num) : Bool :=
  let c := a.cmp b
  if c = 0 then (if greater then !a.sign || b.sign else a.sign || !b.sign)
  else if greater then decide (0 < c) else decide (c < 0)

/-- `fmin` and `fmax` on encodings of a format: the chosen operand's bits, the canonical NaN for two NaNs (R123). -/
def minMax (f : Format) (greater : Bool) (a b : Nat) : Nat × Flags :=
  let x := f.read a
  let y := f.read b
  let fl : Flags := ⟨x.isSnan || y.isSnan, false, false, false, false⟩
  (if x.isNan && y.isNan then f.canonical else if x.isNan then b else if y.isNan then a
   else if x.firstIs greater y then a else b, fl)

/-- The conditions of R124, with NV. -/
def fcond (c : Nat) (a b : Num) : Bool × Flags :=
  let un := a.isNan || b.isNan
  let sig := a.isSnan || b.isSnan
  let d := a.cmp b
  match c with
  | 0 => (!un && d == 0, ⟨sig, false, false, false, false⟩)
  | 1 => (!un && decide (d < 0), ⟨un, false, false, false, false⟩)
  | 2 => (!un && decide (d ≤ 0), ⟨un, false, false, false, false⟩)
  | 3 => (un, ⟨sig, false, false, false, false⟩)
  | _ => (un || d != 0, ⟨sig, false, false, false, false⟩)

/-- Finish an exact result in a floating format: NaNs canonical, the flags of the operation and of the rounding. (DEDUCED: log entry 69.) -/
def finishNum (f : Format) (rm : Nat) (sat : Bool) (r : Nat) (x : Num × Flags) : Nat × Flags :=
  match x.1 with
  | .nan _ => (f.canonical, x.2)
  | .inf n => (f.infinity n, x.2)
  | .fin n m e => let y := f.round rm sat r n m e; (y.1, x.2.or y.2)

/-! ### FRM and the stream -/

/-- FRM.SAT (R115). -/
def Ctx.sat (c : Ctx) : Bool := c.frm.bit 3

/-- The effective rounding mode: code 7 is FRM.RM (R111). -/
def Ctx.mode (c : Ctx) (m : BitVec 3) : Nat := if m = 7 then c.frm.bits 0 3 else m.toNat

/-- Set flags in FRM (R114: sticky). -/
def Ctx.flag (c : Ctx) (f : Flags) : Ctx := { c with frm := c.frm ||| f.word }
def State.flag (s : State) (f : Flags) : State := s.put (s.ctx.flag f)

/-- The mixing function of the random stream (R116). -/
def mix (seed lc n : Word) : Word :=
  let x := seed ^^^ (lc * 0x9D4F3B27E1A865C3)
  let x := x + n * 0xE7A319C54F6B2D8B
  let x := x ^^^ (x >>> 31)
  let x := x * 0x8B5EC247D93A1F6D
  let x := x ^^^ (x >>> 27)
  let x := x * 0x9D4F3B27E1A865C3
  x ^^^ (x >>> 33)

/-- The word of the draw `k` draws on (R116). -/
def State.drawAt (s : State) (k : Nat) : Word :=
  mix s.regs.jobseed s.regs.lcore (s.ctx.srcount.setBits 0 48 (s.ctx.srcount.bits 0 48 + k))

/-- `k` draws are made: SRCOUNT advances. -/
def State.drew (s : State) (k : Nat) : State :=
  s.put { s.ctx with srcount := s.ctx.srcount.setBits 0 48 (s.ctx.srcount.bits 0 48 + k) }

end Sys2Proof.Machine
end

