-- ==== Sys2Proof/Machine/Home.lean ====
section
/-!
DEFINITION. What a home performs (R158, R163, R166, R167, R174 to R179): plain reads and writes, full-empty accesses,
near-bank atomics, poison and seals, each indivisible.
-/

namespace Sys2Proof.Machine

open Sys2Proof

/-- The 8-byte word of an address is full (R158). -/
def Memory.full (m : Memory) (ga : Nat) : Bool := !m.empty.contains (ga / 8)

/-- Set or clear a word's full-empty bit (R163). -/
def Memory.setFull (m : Memory) (ga : Nat) (full : Bool) : Memory :=
  { m with empty := if full then setOut m.empty (ga / 8) else if m.empty.contains (ga / 8) then m.empty else setIn m.empty (ga / 8) }

/-- The granule of an address is sealed (R178). -/
def Memory.isSealed (m : Memory) (ga : Nat) : Bool := m.sealed.contains (granule ga)

/-- Write the listed bytes. -/
def Memory.put (m : Memory) (ga : Nat) : List (Nat × Byte) → Memory
  | [] => m
  | (i, b) :: t => Memory.put { m with cells := cellsSet m.cells (ga + i) b } ga t

/-- The 8-byte words that listed bytes touch. -/
def wordsOf (ga : Nat) (bytes : List (Nat × Byte)) : List Nat := (bytes.map fun p => (ga + p.1) / 8).eraseDups

/-- A word is wholly covered by listed bytes (R167). -/
def covered (ga : Nat) (bytes : List (Nat × Byte)) (w : Nat) : Bool :=
  (List.range 8).all fun i => bytes.any fun p => ga + p.1 == 8 * w + i

/-- A plain write (R167): a partial write to a poisoned word is not performed; a whole word's write clears poison. -/
def Memory.store (m : Memory) (ga : Nat) (bytes : List (Nat × Byte)) : Memory × Reply :=
  match bytes.find? fun p => m.isSealed (ga + p.1) with
  | some p => (m, .fail 9 0 0 p.1)
  | none =>
    match bytes.find? fun p => m.poison.contains ((ga + p.1) / 8) && !covered ga bytes ((ga + p.1) / 8) with
    | some p => (m, .fail 17 0 0 p.1)
    | none =>
      ({ m.put ga bytes with poison := m.poison.filter fun w => !(wordsOf ga bytes).contains w }, .data 0)

/-- The bytes of a value as listed bytes. -/
def listed (v n : Nat) : List (Nat × Byte) := (List.range n).map fun i => (i, BitVec.ofNat 8 (v / 256 ^ i))

/-- The integer result of a near-bank atomic on `n`-byte values (R174). -/
def amoValue (op : AmoOp) (n old b : Nat) : Nat :=
  let w := 8 * n
  let sg (x : Nat) : Int := if x ≥ 2 ^ (w - 1) then (x : Int) - 2 ^ w else x
  match op with
  | .add => (old + b) % 2 ^ w
  | .and => old &&& b
  | .or => old ||| b
  | .xor => old ^^^ b
  | .swap => b
  | .min => if sg b < sg old then b else old
  | .max => if sg old < sg b then b else old
  | .minu => if b < old then b else old
  | .maxu => if old < b then b else old

/-- The result of a near-bank floating atomic (R175): RNE, SAT 0, canonical NaNs, no flags. -/
def amofValue (op : AmofOp) (fmt old b : Nat) : Nat :=
  match formatOf fmt with
  | none => old
  | some f =>
    match op with
    | .add => (finishNum f 0 false 0 ((f.read old).add 0 (f.read b))).1
    | .min => (minMax f false old b).1
    | .max => (minMax f true old b).1

/-- What a home does with an access it accepts. -/
inductive Performed where
  /-- Performed, with its reply. -/
  | done (m : Memory) (r : Reply)
  /-- A full-empty access that has to wait (R163). -/
  | waits

/-- A read-modify-write of a word or half of one: poison anywhere in the word gives DATAERR (R167), a seal SEALST. -/
def Memory.rmw (m : Memory) (ga n new : Nat) (old : Nat) : Memory × Reply :=
  if m.isSealed ga then (m, .fail 9 0 0 0)
  else if m.poisoned ga n then (m, .fail 17 0 0 0)
  else (m.write ga n new, .data old)

/-- Perform an access of memory itself (R158). (DESIGN CHOICE: log entry 113.) -/
def Memory.perform (m : Memory) (ga : Nat) (op : MemOp) : Performed :=
  let w := ga / 8 * 8
  match op with
  | .read n =>
    match (List.range n).find? fun i => m.poison.contains ((ga + i) / 8) with
    | some i => .done m (.fail 17 0 0 i)
    | none => .done m (.data (m.read ga n))
  | .sector mask =>
    let offs := (List.range 32).filter mask.getLsbD
    match offs.find? fun i => m.poison.contains ((ga + i) / 8) with
    | some i => .done m (.fail 17 0 0 i)
    | none => .done m (.data (offs.foldl (fun v i => v + (m.byte (ga + i)).toNat * 256 ^ i) 0))
  | .write bytes => let p := m.store ga bytes; .done p.1 p.2
  | .ldfe =>
    if m.full w then (if m.poisoned w 8 then .done m (.fail 17 0 0 0) else .done m (.data (m.read w 8))) else .waits
  | .ldfeE =>
    if m.full w then
      (if m.poisoned w 8 then .done m (.fail 17 0 0 0) else .done (m.setFull w false) (.data (m.read w 8)))
    else .waits
  | .stfe v =>
    if m.isSealed w then .done m (.fail 9 0 0 0)
    else if m.full w then .waits
    else .done ((m.store w (listed v.toNat 8)).1.setFull w true) (.data 0)
  | .feset => if m.isSealed w then .done m (.fail 9 0 0 0) else .done (m.setFull w true) (.data 0)
  | .feclr => if m.isSealed w then .done m (.fail 9 0 0 0) else .done (m.setFull w false) (.data 0)
  | .amo op n b =>
    let old := m.read ga n
    let p := m.rmw ga n (amoValue op n old (b.toNat % 256 ^ n)) old
    .done p.1 p.2
  | .amof op fmt b =>
    let n := if fmt = 0 then 4 else 2
    let old := m.read ga n
    let p := m.rmw ga n (amofValue op fmt old (b.toNat % 256 ^ n)) old
    .done p.1 p.2
  | .cas n expected new =>
    let old := m.read ga n
    let p := m.rmw ga n (if old = expected.toNat % 256 ^ n then new.toNat % 256 ^ n else old) old
    .done p.1 p.2
  | .seal => .done { m with sealed := if m.isSealed ga then m.sealed else setIn m.sealed (granule ga) } (.data 0)
  | .unseal => .done { m with sealed := setOut m.sealed (granule ga) } (.data 0)
  | .tnew _ => .done m (.data 0)
  | .tdec => .done m (.data 0)

/-- A full-empty access (R163). -/
def opFullEmpty : MemOp → Bool
  | .ldfe => true | .ldfeE => true | .stfe _ => true | _ => false

/-- An access that changes a word's full-empty bit. -/
def opChangesBit : MemOp → Bool
  | .ldfeE => true | .stfe _ => true | .feset => true | .feclr => true | _ => false

/-- One scan of the retry list for a word (R163): each entry that can be performed is, oldest first. The answers come
in that order. -/
def serveList (w : Nat) : Memory → List FeEntry → Memory × List FeEntry × List (Source × Reply)
  | m, [] => (m, [], [])
  | m, e :: t =>
    if e.ga / 8 = w then
      match m.perform e.ga e.op with
      | .waits => let r := serveList w m t; (r.1, e :: r.2.1, r.2.2)
      | .done m' rep => let r := serveList w m' t; (r.1, r.2.1, (e.src, rep) :: r.2.2)
    else let r := serveList w m t; (r.1, e :: r.2.1, r.2.2)

/-- The home serves the waiting entries of a word after its bit changed (R163). -/
def Memory.serve (m : Memory) (ga : Nat) : Memory × List (Source × Reply) :=
  let r := serveList (ga / 8) m m.retry
  ({ r.1 with retry := r.2.1 }, r.2.2)

/-- An access at its home, with the answers of entries it lets go (R163). None: it waits, or is refused (R164). -/
inductive Accepted where
  | done (m : Memory) (r : Reply) (others : List (Source × Reply))
  | listed (m : Memory)
  | refused (m : Memory)

/-- The refusal queue of the slice or memory core that is an address's home (R166). -/
def Memory.refusalsAt (m : Memory) (ga : Nat) : List FeEntry := m.refusals.filter fun e => homeOf e.ga == homeOf ga

/-- Whether a request is recorded at the head of its home's refusal queue, or the queue is empty (R166). -/
def Memory.mayList (m : Memory) (src : Source) (ga : Nat) : Bool :=
  match m.refusalsAt ga with
  | [] => true
  | e :: _ => e.src == src

/-- Accept an access from a source (R161, R163, R164, R166): frozen pages and full lists answer RNR. The 256 entries
of a list, and the 64 of a refusal queue, are those of one home. -/
def Memory.accept (m : Memory) (src : Source) (ga : Nat) (op : MemOp) : Accepted :=
  if m.frozen.contains (granule ga) then .refused m
  else
    match m.perform ga op with
    | .done m' r =>
      let m' := { m' with refusals := m'.refusals.filter (·.src != src) }
      if opChangesBit op then let p := m'.serve ga; .done p.1 r p.2 else .done m' r []
    | .waits =>
      let here := m.retry.filter fun e => homeOf e.ga == homeOf ga
      if here.length < Config.retryDepth && m.mayList src ga then
        .listed { m with retry := m.retry ++ [⟨src, ga, op⟩], refusals := m.refusals.filter (·.src != src) }
      else if m.refusals.any (·.src == src) then .refused m
      else if (m.refusalsAt ga).length < Config.refusalDepth then
        .refused { m with refusals := m.refusals ++ [⟨src, ga, op⟩] }
      else .refused m

end Sys2Proof.Machine
end

