-- ==== Sys2Proof/Machine/Translate.lean ====
section
/-!
DEFINITION. Translation (R353 to R357, R360), instruction fetch and the check of a transfer's target (R29 to R34, R93).
-/

namespace Sys2Proof.Machine

open Sys2Proof

/-! ### Homes that answer with an error -/

/-- FINFO of RMTDEAD: a package and 11 bits that name the part of it (R205, R376, R377). -/
def deadInfo (pkg low : Nat) : Word := BitVec.ofNat 64 (pkg * 2 ^ 11 + low)

/-- The error of a package that is failed or unreachable. (DEDUCED: log entry 83.) -/
def State.deadPackage (s : State) (p : Nat) : Option Word :=
  if s.launch.failed.contains (BitVec.ofNat 18 p) then some (deadInfo p 0x7FF)
  else if s.launch.unreachable.contains (BitVec.ofNat 18 p) then some (deadInfo p 0x7FE)
  else none

/-- The error of a cluster that has been reset and whose boundary is closed (R382). -/
def State.closedAt (s : State) (pkg core : Nat) : Option Word :=
  let c := BitVec.ofNat 7 (core / 16)
  if (pkg == s.pkg && s.guard.closedClusters.contains c) || s.guard.closedElsewhere.contains (BitVec.ofNat 18 pkg, c) then
    some (deadInfo pkg (core / 16 * 16))
  else none

/-- A home whose package is announced as failed, or unreachable from here (R376, R377). Host space has its home in this package
(R156). -/
def State.deadHome (s : State) (ga : Nat) : Option Word := if gaSpace ga = 3 then none else s.deadPackage (gaPkg ga)

/-- The pool region that a CXL address of this package lies in, if another package owns it (R185). -/
def State.lent (s : State) (ga : Nat) : Bool :=
  gaSpace ga == 1 && gaPkg ga == s.pkg && s.pools.any fun r =>
    r.port.toNat == gaPort ga && r.base ≤ ga % 2 ^ 40 && ga % 2 ^ 40 < r.base + r.size && r.owner.toNat != s.pkg

/-- Its owner has the granule sealed, so that it can be read through this port. (DESIGN CHOICE: log entry 74.) -/
def State.lentSealed (s : State) (ga : Nat) : Bool :=
  Config.ownerSealed (BitVec.ofNat 4 (gaPort ga)) (ga % 2 ^ 40 / 65536) s.tick

/-- A CXL address with no memory behind it (R184). (DESIGN CHOICE: log entry 74.) -/
def State.cxlAbsent (s : State) (ga : Nat) (read : Bool) : Bool :=
  Config.cxlCapacity (BitVec.ofNat 18 (gaPkg ga)) (BitVec.ofNat 4 (gaPort ga)) ≤ ga % 2 ^ 40 ||
    s.lent ga && !(read && s.lentSealed ga)

/-- A store to a region that another package owns and has sealed (R185). -/
def State.sealedLoan (s : State) (ga : Nat) (read : Bool) : Bool :=
  !read && s.lent ga && s.lentSealed ga &&
    ga % 2 ^ 40 < Config.cxlCapacity (BitVec.ofNat 18 (gaPkg ga)) (BitVec.ofNat 4 (gaPort ga))

/-- A mapping change of the granule is in progress (R164). -/
def State.changing (s : State) (ga : Nat) : Bool :=
  s.migrations.any fun m => (m.m.old ≤ ga && ga < m.m.old + 2 ^ m.m.bits) || (m.m.new ≤ ga && ga < m.m.new + 2 ^ m.m.bits)

/-- The value that a read of a region of another package gives: its owner's data. (DESIGN CHOICE: log entry 74.) -/
def lentRead (ga : Nat) : MemOp → Nat
  | .sector mask => ((List.range 32).filter mask.getLsbD).foldl (fun v i =>
      v + (Config.poolByte (BitVec.ofNat 4 (gaPort ga)) ((ga + i) % 2 ^ 40)).toNat * 256 ^ i) 0
  | .read n => (List.range n).foldl (fun v i =>
      v + (Config.poolByte (BitVec.ofNat 4 (gaPort ga)) ((ga + i) % 2 ^ 40)).toNat * 256 ^ i) 0
  | _ => 0

/-- Where a frame's bytes are now: after the last copy the old home forwards (R362), and a page may have moved again since. -/
def State.moved (s : State) (ga : Nat) : Nat :=
  s.migrations.foldl (fun a m =>
    if m.forwarding && m.m.old ≤ a && a < m.m.old + 2 ^ m.m.bits then m.m.new + (a - m.m.old) else a) ga

/-! ### Sector buffers (R183) -/

/-- The 4 µs that an access keeps a unit, in nominal cycles. -/
def sectorCycles : Nat := 5000

/-- A unit is in its sector buffer. -/
def State.buffered (s : State) (ga : Nat) : Bool := s.sectors.any (·.unit == ga / 64 * 64)

/-- An access brings a unit in, or keeps it there. -/
def State.touchSector (s : State) (ga : Nat) : State :=
  let u := ga / 64 * 64
  { s with sectors := s.sectors.filter (·.unit != u) ++ [⟨u, s.units.pcyc + BitVec.ofNat 64 sectorCycles⟩] }

/-- An access to a unit of the package's own CXL memory, from whatever source. -/
def State.touch (s : State) (ga : Nat) : State := if gaSpace ga = 1 && gaPkg ga == s.pkg then s.touchSector ga else s

/-- An access to a range of addresses in it: each unit that the range meets. -/
def State.touchUnits (s : State) (ga n : Nat) : State :=
  if gaSpace ga = 1 && gaPkg ga == s.pkg then
    (List.range ((n + 63) / 64)).foldl (fun s i => s.touchSector (ga + 64 * i)) s
  else s

/-! ### Walks (R353 to R356) -/

/-- The kind of access as FINFO[9:8] codes it (R356). -/
def kindCode : Access → Nat
  | .load => 0 | .store => 1 | .atomic => 2 | .fetch => 3

/-- The levels of a walk: the lowest index bit and the number of index bits (R354). -/
def walkLevels : List (Nat × Nat) := [(48, 9), (39, 9), (30, 9), (21, 9), (16, 5)]

/-- The page size of a leaf's level (R354). -/
def pageSize (level : Nat) : Nat := if level = 2 then 2 ^ 30 else if level = 3 then 2 ^ 21 else 2 ^ 16

/-- A virtual address is canonical (R353). -/
def canonical (va : Word) : Bool := va.toNat / 2 ^ 56 == 0 || va.toNat / 2 ^ 56 == 255

/-- The frame of a leaf entry. -/
def leafFrame (e : Nat) : Nat := e / 2 ^ 16 * 2 ^ 16

/-- The next table of a pointer entry (R355). -/
def nextTable (e : Nat) : Nat := e / 2 ^ 8 * 2 ^ 8

/-- An entry whose V is 1 is malformed (R356). -/
def malformed (level e : Nat) : Bool :=
  if e / 2 % 2 = 1 then
    slice e 8 8 != 0 || level < 2 || leafFrame e % pageSize level != 0 ||
      (gaSpace e == 0 && (slice e 24 9 != 0 || level == 2))
  else
    slice e 2 6 != 0 || level == 4 || (level < 3 && slice e 8 4 != 0) || (gaSpace e == 0 && slice e 24 9 != 0)

/-- The error that the home of bytes answers the machine's own access with: PROT of a CXL address with no memory behind it (R184),
RMTDEAD of a failed package or a closed cluster (R376, R377, R382), DATAERR of a poisoned word that is read (R167); cause, sub-code
and FINFO. -/
def State.homeError (s : State) (ga n : Nat) (read : Bool) : Option (Nat × Nat × Word) :=
  let closed := if gaSpace ga = 0 then s.closedAt (gaPkg ga) (gaCore ga) else none
  match s.deadHome ga, closed with
  | some i, _ => some (19, 0, i)
  | none, some i => some (19, 0, i)
  | none, none =>
    if gaSpace ga = 1 && s.cxlAbsent ga read then some (6, 5, 0)
    else if read && s.mem.poisoned ga n then some (17, 0, 0) else none

/-- The `n` bytes at an address as its home gives them; those of a region of another package are its owner's (R185). -/
def State.homeRead (s : State) (ga n : Nat) : Nat := if s.lent ga then lentRead ga (.read n) else s.mem.read ga n

/-- The plain 8-byte read of a table entry; none when it gives an error. -/
def State.tableRead (s : State) (a : Nat) : Option Nat :=
  if (s.homeError (s.moved a) 8 true).isSome then none else some (s.homeRead (s.moved a) 8)

/-- A walk over the remaining levels from a table, by the reads of entries: the leaf entry and its level, or the PGFAULT's sub-code
and the level reached. -/
def walk (read : Nat → Option Nat) (va : Nat) : List (Nat × Nat) → Nat → Nat → Except (Nat × Nat) (Nat × Nat)
  | [], level, _ => .error (1, level)
  | (lo, len) :: rest, level, table =>
    match read (table + 8 * slice va lo len) with
    | none => .error (2, level)
    | some e =>
      if e % 2 = 0 then .error (0, level)
      else if malformed level e then .error (1, level)
      else if e / 2 % 2 = 1 then .ok (e, level)
      else walk read va rest (level + 1) (nextTable e)

/-- The addresses of the table entries that a walk reads. -/
def walkPath (read : Nat → Option Nat) (va : Nat) : List (Nat × Nat) → Nat → List Nat
  | [], _ => []
  | (lo, len) :: rest, table =>
    let a := table + 8 * slice va lo len
    a :: (match read a with
      | none => []
      | some e => if e % 2 = 0 || e / 2 % 2 = 1 then [] else walkPath read va rest (nextTable e))

/-- The address of the leaf entry that a walk ends at, if it does. -/
def walkLeaf (m : Memory) (va : Nat) : List (Nat × Nat) → Nat → Option Nat
  | [], _ => none
  | (lo, len) :: rest, table =>
    let a := table + 8 * slice va lo len
    let e := m.read a 8
    if e % 2 = 0 then none else if e / 2 % 2 = 1 then some a else walkLeaf m va rest (nextTable e)

/-- A translated address. -/
structure Trans where
  ga : Nat
  x : Xlate
  deriving DecidableEq, Repr

/-- The SEAL bit of the leaf (R355). -/
def Xlate.seal (x : Xlate) : Bool := x.leaf.testBit 6

/-- FINFO of a translation's trap (R356). (DEDUCED: log entry 17.) -/
def walkInfo (k : Access) (op elem level : Nat) : Word :=
  BitVec.ofNat 64 (elem % 64 + kindCode k * 2 ^ 8 + level * 2 ^ 12 + op * 2 ^ 16)

/-- The lowest byte of an access that a filter watches, with the filter's number (R360). -/
def State.watched (s : State) (va n : Nat) (k : Access) : Option (Nat × Nat) :=
  ((List.range n).flatMap fun i => (List.range 8).filterMap fun f =>
    let b := va + i
    let w := (nth s.units.wfa f 0).toNat
    let on := match k with
      | .load => w.testBit 0 | .store => w.testBit 1 | .atomic => w.testBit 0 || w.testBit 1 | .fetch => w.testBit 2
    if on && b / 64 == w / 64 && (nth s.units.wfm f 0).toNat.testBit (b % 64) then some (b, f) else none).head?

/-- A translation of a page that overlaps a range (R358). -/
def Xlate.overlaps (x : Xlate) (base len : Nat) : Bool := len != 0 && base < x.base + x.size && x.base < base + len

/-- An invalidation of the translation is under way: nothing new is accessed through it (R359). -/
def State.leaving (s : State) (x : Xlate) : Bool :=
  s.net.any fun q => match q.msg with
    | .shootdown base len _ => x.overlaps base.toNat len.toNat
    | _ => false

/-- The translation a TLB still holds for an address (R357), or the walk's. (DESIGN CHOICE: log entry 10.) -/
def State.lookup (s : State) (root : Word) (va : Nat) : Except (Nat × Nat) Xlate :=
  match s.tlb.find? fun x => x.base ≤ va && va < x.base + x.size && Config.tlbHeld s.tick && !s.leaving x with
  | some x => .ok x
  | none =>
    let table := root.toNat / 2 ^ 12 * 2 ^ 12
    match walk s.tableRead va walkLevels 0 table with
    | .error e => .error e
    | .ok (e, level) =>
      .ok ⟨va / pageSize level * pageSize level, pageSize level, e, level,
        ((walkPath s.tableRead va walkLevels table).map s.moved).filter fun a => gaSpace a == 1⟩

/-- Translate an address of `n` bytes within one page, through a table root at a privilege level, with a kind (R356).
`op` and `elem` go into FINFO. -/
def State.translateBy (s : State) (root : Word) (pl : Bool) (va : Word) (n : Nat) (k : Access) (op elem : Nat) :
    Except TrapInfo Trans :=
  let trap (cause sub level : Nat) : TrapInfo := ⟨cause, sub, some va, walkInfo k op elem level, none⟩
  if !canonical va then .error (trap 7 3 0)
  else
    match s.lookup root va.toNat with
    | .error (sub, level) => .error (trap 7 sub level)
    | .ok x =>
      let ga := leafFrame x.leaf + va.toNat % x.size
      let lacks := match k with
        | .load => !x.leaf.testBit 2 | .store => !x.leaf.testBit 3 | .fetch => !x.leaf.testBit 4
        | .atomic => !x.leaf.testBit 2 || !x.leaf.testBit 3
      if !s.jobPackage (gaPkg ga) then .error (trap 6 2 x.level)
      else if (!pl && !x.leaf.testBit 5) || lacks then .error (trap 6 0 x.level)
      else if (k == .store || k == .atomic) && x.seal then .error (trap 9 0 x.level)
      else if x.leaf.testBit 7 then
        match s.watched va.toNat n k with
        | some (b, f) =>
          .error ⟨8, 0, some (BitVec.ofNat 64 b), walkInfo k op elem x.level + BitVec.ofNat 64 (f * 2 ^ 24), none⟩
        | none => .ok ⟨ga, x⟩
      else .ok ⟨ga, x⟩

/-- A miss of an address finds every walker of the cluster busy, and waits (R357). In the first step after reset no walk is under
way. (DESIGN CHOICE: log entry 10.) -/
def State.walkWaits (s : State) (va : Word) : Bool :=
  1 < s.tick && Config.walkersBusy s.tick &&
    !(s.tlb.any fun x => x.base ≤ va.toNat && va.toNat < x.base + x.size && Config.tlbHeld s.tick && !s.leaving x)

/-- No trap: the context waits for a walker, as for a waited access (R357). -/
def walkBusy : TrapInfo := ⟨noWalker, 0, none, 0, none⟩

/-- Translate for a context. -/
def State.translate (s : State) (i : Fin 11) (va : Word) (n : Nat) (k : Access) (op elem : Nat) : Except TrapInfo Trans :=
  if s.walkWaits va then .error walkBusy else s.translateBy (s.at i).root (s.at i).pl va n k op elem

/-- The TLBs hold a translation (R357); the units of CXL memory that its walk read come to their sector buffers (R183). (DESIGN
CHOICE: log entry 108.) -/
def State.install (s : State) (x : Xlate) : State :=
  let s := x.path.foldl State.touch s
  let y : Xlate := { x with path := [] }
  if s.tlb.contains y then s else { s with tlb := s.tlb ++ [y] }

/-! ### Lines (R29 to R34) -/

/-- A byte of a line. -/
def lineByte (l : List Byte) (i : Nat) : Nat := ((l[i]?).getD 0).toNat

/-- A 16-bit value of a line. -/
def lineHalf (l : List Byte) (i : Nat) : Nat := lineByte l i + 256 * lineByte l (i + 1)

/-- Head `i` of a line. -/
def lineHead (l : List Byte) (i : Nat) : Nat := lineHalf l (2 + 2 * i)

/-- P(i): the tail bytes of heads 0 to i (R31). -/
def tailSum (l : List Byte) : Nat → Nat
  | 0 => tailBytes (lineHead l 0 / 2 ^ 14)
  | i + 1 => tailSum l i + tailBytes (lineHead l (i + 1) / 2 ^ 14)

/-- The tail of head `i`, a little-endian value at offset 64 − P(i) (R31). -/
def lineTail (l : List Byte) (i : Nat) : Nat :=
  ofBytes ((l.drop (64 - tailSum l i)).take (tailBytes (lineHead l i / 2 ^ 14)))

/-- Why a line is not well-formed: FINFO[3:0] of ILLLINE (R30, R45). When several conditions fail at once, the first in this
order is reported. (DESIGN CHOICE: log entry 89.) -/
def lineFault (l : List Byte) : Option Nat :=
  let lcw := lineHalf l 0
  let hc := lcw / 2 ^ 11
  let tb := lcw / 2 ^ 5 % 2 ^ 6
  if hc = 0 then some 0
  else if lcw % 2 ^ 5 ≠ 0 then some 1
  else if tailSum l (hc - 1) ≠ tb ∨ 64 < 2 + 2 * hc + tb then some 2
  else if ((l.drop (2 + 2 * hc)).take (62 - 2 * hc - tb)).any (· != 0) then some 3
  else none

/-- An address is the address of a head of a line with that many heads (R33). -/
def isHead (t : Word) (heads : Nat) : Bool :=
  let o := t.toNat % 64
  o % 2 == 0 && 2 ≤ o && o < 2 + 2 * heads

/-- The address of the line of an address. -/
def lineOf (t : Word) : Word := BitVec.ofNat 64 (t.toNat / 64 * 64)

/-- A fetched line that the core still holds (R34, R209). A line that another page was mapped at its address for is none of them
(R211). (DESIGN CHOICE: log entry 10.) -/
def State.heldLine (s : State) (va : Word) (ga : Nat) : Option Line :=
  s.lines.find? fun l => l.va == va && l.ga == ga && Config.lineHeld s.tick

/-- The 64 bytes of a line as its home gives them. -/
def State.lineAt (s : State) (ga : Nat) : List Byte := bytesOf (s.homeRead (s.moved ga) 64) 64

/-- The 64 bytes of a line as fetch sees them: a fetched line still held by the core, else memory. -/
def State.fetchBytes (s : State) (va : Word) (ga : Nat) : List Byte := ((s.heldLine va ga).map (·.bytes)).getD (s.lineAt ga)

/-- The error that the home of a line answers a fetch with. -/
def State.lineError (s : State) (ga : Nat) : Option (Nat × Nat × Word) := s.homeError (s.moved ga) 64 true

/-- The core holds a fetched line, in place of an older copy of it. -/
def State.keepLine (s : State) (l : Line) : State :=
  if s.lines.contains l then s else { s with lines := (s.lines.filter fun x => x.va != l.va || x.ga != l.ga) ++ [l] }

/-- Issuing head 0 of a line begins the fetch of the next line, if the core does not hold it (R101). A line that cannot be
fetched is left to the context's own fetch. -/
def State.prefetch (s : State) (i : Fin 11) (l : Line) (x : Xlate) : State :=
  if (s.at i).pc.toNat % 64 != 2 then s
  else
    let va := l.va + 64
    let ga :=
      if x.base ≤ va.toNat && va.toNat < x.base + x.size then some (l.ga + 64)
      else (s.translate i va 64 .fetch 0 0).toOption.map (·.ga)
    match ga with
    | some ga =>
      if 2 ≤ gaSpace ga || (s.lineError ga).isSome || (s.lines.any fun l => l.va == va && l.ga == ga) then s
      else (s.touch (s.moved ga)).keepLine ⟨va, ga, s.lineAt ga⟩
    | none => s

/-- Fetch the line of an address for a context: translation, then PROT of a space that is not executed from (R156), then the
bytes, or the error of their home. FADDR is the address of the instruction or target, but of a WATCH the byte that matched
(R360). (DESIGN CHOICE: log entry 90.) -/
def State.fetchLine (s : State) (i : Fin 11) (t : Word) : Except TrapInfo (Xlate × Line) :=
  let va := lineOf t
  match s.translate i va 64 .fetch 0 0 with
  | .error e => .error { e with faddr := if e.cause = 8 then e.faddr else some t }
  | .ok x =>
    if 2 ≤ gaSpace x.ga then .error ⟨6, 1, some t, walkInfo .fetch 0 0 x.x.level, none⟩
    else
      match s.lineError x.ga with
      | some (cause, sub, info) => .error ⟨cause, sub, some t, info, none⟩
      | none => .ok (x.x, ⟨va, x.ga, s.fetchBytes va x.ga⟩)

/-- A fault of a fetch that is the home's, not the translation's. -/
def TrapInfo.ofHome (e : TrapInfo) : Bool := e.cause == 17 || e.cause == 19 || (e.cause == 6 && e.sub == 5)

/-- The check of a transfer's target before any effect (R33, R93): the fetch translation of its line, then the head
check of a well-formed line. An error of the line's home is no fault of the transfer: the first fetch there traps.
(DESIGN CHOICE: log entry 90.) -/
def State.checkTarget (s : State) (t : Word) : Option TrapInfo :=
  match s.fetchLine s.cur t with
  | .error e => if e.ofHome then none else some e
  | .ok (_, l) =>
    match lineFault l.bytes with
    | some _ => none
    | none => if isHead t l.heads then none else some ⟨4, 0, some t, 0, none⟩

/-- A transfer to a target, checked (R93). -/
def State.transfer (s : State) (t : Word) : Effect :=
  match s.checkTarget t with
  | some e => .trap e
  | none => .jump s t

end Sys2Proof.Machine
end

