-- ==== Sys2Proof/Machine/Access.lean ====
section
/-!
DEFINITION. Accesses as a context makes them: the pieces of an access (R158), the space rules (R156), the request and its
answer (R159 to R162, R164), the store-hold buffer (R187, R309), sealed replicas (R190, R198) and the scratchpad (R180,
R181).
-/

namespace Sys2Proof.Machine

open Sys2Proof

/-- Act as another context. -/
def State.as (s : State) (i : Fin 11) (f : State → State) : State := { f { s with cur := i } with cur := s.cur }

/-! ### Pieces and spaces -/

/-- The pieces of an access, one for each 32-byte sector it touches, from the lowest (R158): the address and the number
of bytes of each. -/
def pieces : Nat → Word → Nat → List (Word × Nat)
  | 0, _, _ => []
  | f + 1, va, n =>
    if n = 0 then []
    else let k := min n (32 - va.toNat % 32); (va, k) :: pieces f (va + BitVec.ofNat 64 k) (n - k)

/-- A translated piece. -/
structure Piece where
  va : Word
  n : Nat
  ga : Nat
  x : Xlate
  deriving DecidableEq, Repr

/-- The refusal of an access kind in its space (R156): PROT with sub-code 1, laid out as R356 gives. (DEDUCED: log entry 17.) -/
def spaceTrap (va : Word) (k : Access) (op elem level : Nat) : TrapInfo := ⟨6, 1, some va, walkInfo k op elem level, none⟩

/-- PROT of an instruction's own address rule (R340). (DEDUCED: log entry 16.) -/
def ownRule : TrapInfo := ⟨6, 4, none, 0, none⟩

/-- PROT of a core that the job does not have (R340). (DEDUCED: log entry 16.) (DESIGN CHOICE: log entry 74.) -/
def noSuchCore : TrapInfo := ⟨6, 2, none, 0, none⟩

/-- Which spaces an instruction may reach (R156). -/
inductive Reach where
  /-- `ld`, `st` of `n` bytes: every space; device space only for 8 bytes at an 8-byte-aligned address. -/
  | plain (n : Nat)
  /-- Atomics and vector elements: home and CXL space. -/
  | memory
  /-- Full-empty accesses: home space. -/
  | home
  deriving DecidableEq, Repr

/-- Whether a global address is refused, to a piece of `m` bytes at `va`: a piece of an access that is not whole is none of an
aligned one. -/
def Reach.refuses (r : Reach) (va : Word) (m ga : Nat) : Bool :=
  match r with
  | .plain n => gaSpace ga == 2 && (n != 8 || m != 8 || va.toNat % 8 != 0)
  | .memory => 2 ≤ gaSpace ga
  | .home => gaSpace ga != 0

/-- Translate the pieces of an access, the lowest first; the TLBs come to hold the translations. -/
def State.translateAllBy (s : State) (root : Word) (pl : Bool) (k : Access) (op elem : Nat) (r : Reach) :
    List (Word × Nat) → Except TrapInfo (List Piece)
  | [] => .ok []
  | (va, n) :: rest =>
    match s.translateBy root pl va n k op elem with
    | .error e => .error e
    | .ok t =>
      if r.refuses va n t.ga then .error (spaceTrap va k op elem t.x.level)
      else
        match s.translateAllBy root pl k op elem r rest with
        | .error e => .error e
        | .ok ps => .ok (⟨va, n, t.ga, t.x⟩ :: ps)

/-- For the issuing context. -/
def State.translateAll (s : State) (k : Access) (op elem : Nat) (r : Reach) (l : List (Word × Nat)) :
    Except TrapInfo (List Piece) :=
  if l.any fun p => s.walkWaits p.1 then .error walkBusy else s.translateAllBy s.ctx.root s.ctx.pl k op elem r l

/-- The TLBs hold the translations of an access. -/
def State.installAll (s : State) (ps : List Piece) : State := ps.foldl (fun s p => s.install p.x) s

/-! ### Imprecise faults (R162) -/

/-- Imprecise faults of a context, kept in issue order. -/
def insertFault (f : Imprecise) : List Imprecise → List Imprecise
  | [] => [f]
  | g :: t => if f.order < g.order then f :: g :: t else g :: insertFault f t

/-- A fault becomes known for a context's incarnation. -/
def State.addFault (s : State) (i : Fin 11) (gen : BitVec 8) (f : Imprecise) : State :=
  let c := s.at i
  if c.live && c.gen == gen then s.putAt i { c with imprecise := insertFault f c.imprecise } else s

/-- The error reply of a posted access (R162). -/
def postedFault (id : Nat) (pc va : Word) (cause sub : Nat) : Imprecise :=
  ⟨id, false, cause, sub, va, BitVec.ofNat 64 (pc.toNat % 2 ^ 57)⟩

/-! ### Requests (R159 to R164) -/

/-- What takes no outstanding access: an event, which travels for the event queue or the front end (R267), a service
request, which no reply answers (R351), and the invalidations. -/
def Message.free : Message → Bool
  | .event _ _ => true
  | .hcall .. => true
  | .shootdown .. => true
  | .discard .. => true
  | .patch .. => true
  | _ => false

/-- The scope that marks the `tlbinv.pkg` of a migration, which a memory core issues (R362). -/
def migrationScope : Nat := 10

/-- A request that its context's ordering points and quiet point wait for; the messages of the event queue and the front
end are none of its accesses. -/
def Message.ofContext : Message → Bool
  | .event _ _ => false
  | .onew .. => false
  | .odel .. => false
  | .esread .. => false
  | .hcall .. => false
  | .shootdown _ _ scope => scope != 0 && scope != migrationScope
  | .patch .. => false
  | _ => true

/-- The outstanding accesses in use (R160): those of other homes. -/
def State.inFlight (s : State) : Nat := (s.net.filter fun r => !s.ownSlice r.ga && !r.msg.free && r.stage != .answered).length

/-- Whether `k` more can be sent. -/
def State.room (s : State) (k : Nat) : Bool := s.inFlight + k ≤ Config.outstanding

/-- The answers that a home lets go: to this core they are on their way; to others they leave. -/
def State.answer (s : State) : List (Source × Reply) → State
  | [] => s
  | (.own id, r) :: t =>
    State.answer { s with net := s.net.map fun q => if q.id = id then { q with stage := .replied r } else q } t
  | (.foreign c, r) :: t => State.answer { s with sent := s.sent ++ [.reply c r] } t

/-- The bytes an access writes, or whose full-empty bit it changes, by their distance from its address. -/
def written (op : MemOp) : List Nat :=
  match op with
  | .read _ => [] | .sector _ => [] | .write bytes => bytes.map (·.1) | .ldfe => [] | .ldfeE => List.range 8
  | .stfe _ => List.range 8 | .feset => List.range 8 | .feclr => List.range 8 | .amo _ n _ => List.range n | .amof _ f _ => List.range (if f = 0 then 4 else 2)
  | .cas n _ _ => List.range n | .tnew _ => List.range 64 | .tdec => List.range 64 | .seal => [] | .unseal => []

/-- A migrating frame remembers the sectors written since they were last copied (R362). -/
def Migration.mark (m : Migration) (ga : Nat) (offs : List Nat) : Migration :=
  let inside := offs.filter fun o => m.m.old ≤ ga + o && ga + o < m.m.old + 2 ^ m.m.bits
  { m with marked := inside.foldl (fun l o => setIn l ((ga + o - m.m.old) / 32)) m.marked }

/-- Every migrating frame does. (DESIGN CHOICE: log entry 26.) -/
def State.mark (s : State) (ga : Nat) (offs : List Nat) : State :=
  if s.migrations.isEmpty then s
  else { s with migrations := s.migrations.map fun m => m.mark ga offs }

/-- The answers that a home lets go belong to entries of its list, whose words change too. -/
def State.markServed (s : State) (ga : Nat) (others : List (Source × Reply)) : State :=
  if others.isEmpty then s else s.mark (ga / 8 * 8) (List.range 8)

/-- A home takes up an access of memory; what it answers at once, if anything: listed and refused accesses get their
answer later. -/
inductive Taken where
  | now (r : Reply)
  | listed
  | refused
  deriving DecidableEq, Repr

/-- After its `ssave.ack` the core's slice refuses every request (R369). -/
def State.takeUp (s : State) (src : Source) (ga : Nat) (op : MemOp) : State × Taken :=
  let ga := s.moved ga
  if s.launch.acked && s.ownSlice ga then (s, .refused)
  else
    match s.mem.accept src ga op with
    | .done m r others => ((({ s with mem := m }.mark ga (written op)).markServed ga others).answer others, .now r)
    | .listed m => ({ s with mem := m }, .listed)
    | .refused m => ({ s with mem := m }, .refused)

/-- A message to send. -/
structure Msg where
  va : Word
  ga : Nat
  msg : Message
  posted : Bool
  adaptive : Bool
  deriving DecidableEq, Repr

/-- The access of memory in a message. -/
def Message.op : Message → Option MemOp
  | .access op => some op
  | _ => none

/-- The lowest byte that a message writes, by its distance from the message's address. -/
def Message.lowest : Message → Nat
  | .access (.write bytes) => (bytes.map (·.1)).foldl min 31
  | _ => 0

/-- The virtual address of a posted access that failed (R162): its lowest byte. -/
def lowestVa (va : Word) (m : Message) : Word := va + BitVec.ofNat 64 m.lowest

/-- An access that the home slice performs as soon as it arrives, other than a task's record. -/
def Message.direct : Message → Bool
  | .access (.tnew _) => false
  | .access .tdec => false
  | .access _ => true
  | _ => false

/-- An earlier access of the own slice is not performed: it was refused (R164), or is on its way. Later ones keep behind it (R159,
R161 rule 5, R420). (DEDUCED: log entry 25.) -/
def State.behindRefused (s : State) : Bool :=
  s.net.any fun q => s.ownSlice q.ga && q.msg.op.isSome && (q.stage == .refused || q.stage == .sent || q.tries != 0)

/-- An access to a page whose invalidation the core has not carried out yet: it is held back until the accesses made through
the old translation are performed (R359, R362). (DEDUCED: log entry 21.) -/
def heldBack (tlb : List Xlate) (l : List Request) (va : Nat) : Bool :=
  l.any fun e => e.stage == .sent && match e.msg with
    | .shootdown base len _ => tlb.any fun x => x.overlaps base.toNat len.toNat && x.base ≤ va && va < x.base + x.size
    | _ => false

/-! ### Early reads (R192) -/

/-- An access of the issuing context reaches its home later than every early read there was performed: those of the context
are of no use to it any more, and with an access of device or host space none is. -/
def State.noEarly (s : State) (ga : Nat) : State :=
  { s with early := s.early.filter fun e => e.ctx != s.cur || (gaSpace ga < 2 && homeOf e.ga != homeOf ga) }

/-- The early read of a piece by the issuing context, if there is one and none of the registers that the address comes from has
been written since: the last one performed. -/
def State.earlyOf (s : State) (regs : List Nat) (p : Piece) : Option Early :=
  s.early.reverse.find? fun e => e.ctx == s.cur && e.ga == p.ga / 32 * 32 && !regs.any e.wrote.contains

/-- Its bytes, from the piece's on. -/
def Early.bytes (e : Early) (p : Piece) : Nat := e.value / 256 ^ (p.ga % 32) % 256 ^ p.n

/-- An early read issues: those of the same home that were performed before it are of no use to later reads. -/
def State.usedEarly (s : State) (e : Early) : State :=
  { s with early := (s.early.takeWhile (· != e)).filter (fun x => x.ctx != s.cur || homeOf x.ga != homeOf e.ga) ++
      s.early.dropWhile (· != e) }

/-- Send a message from the issuing context: its number, and its reply when there is one at once: an access of the
core's own slice is performed now (R159), and a failed package answers at once (R377). -/
def State.send (s : State) (m : Msg) : State × Nat × Option Reply :=
  let id := s.seqNo
  let s := { s with seqNo := id + 1 }.noEarly m.ga
  let r : Request := ⟨id, s.cur, s.ctx.gen, m.ga, m.va, s.ctx.pc, m.msg, m.posted, m.adaptive, 0, [], .sent, 0⟩
  match m.msg.op with
  | some op =>
    if s.ownSlice m.ga && m.msg.direct && !s.behindRefused && !heldBack s.tlb s.net m.va.toNat then
      match s.takeUp (.own id) m.ga op with
      | (s, .now rep) => (s, id, some rep)
      | (s, .listed) => ({ s with net := s.net ++ [{ r with stage := .listed }] }, id, none)
      | (s, .refused) => ({ s with net := s.net ++ [{ r with stage := .refused }] }, id, none)
    else
      match s.deadHome m.ga with
      | some info => (s, id, some (.fail 19 0 info 0))
      | none => ({ s with net := s.net ++ [r] }, id, none)
  | none => ({ s with net := s.net ++ [r] }, id, none)

/-- A failing reply taken in by a context: its place as a virtual address. -/
def Reply.placed (r : Reply) (va : Word) : Reply :=
  match r with
  | .data v => .data v
  | .fail c sub info b => .fail c sub info (va.toNat + b)

/-- Send messages in order: their numbers, and the replies there are at once. -/
def State.sendAll (s : State) : List Msg → State × List Nat × List (Nat × Reply)
  | [] => (s, [], [])
  | m :: t =>
    let a := s.send m
    let b := a.1.sendAll t
    (b.1, a.2.1 :: b.2.1, (match a.2.2 with | some r => [(a.2.1, r.placed m.va)] | none => []) ++ b.2.2)

/-- The posted messages of an access: the accesses of the core's own slice that are still to be performed, which the context waits
for (R159), by number; and the failure of one that was performed, which is precise. One answered at once by a dead package is
reported by R162. -/
def State.postAll (s : State) : List Msg → State × List Nat × Option Reply
  | [] => (s, [], none)
  | m :: t =>
    let a := s.send m
    match a.2.2 with
    | some (.fail c sub info b) =>
      if s.ownSlice m.ga then (a.1, [], some ((Reply.fail c sub info b).placed m.va))
      else
        (a.1.addFault s.cur s.ctx.gen (postedFault a.2.1 s.ctx.pc (lowestVa m.va m.msg) c sub)).postAll t
    | some (.data _) => a.1.postAll t
    | none =>
      let b := a.1.postAll t
      (b.1, if s.ownSlice m.ga then a.2.1 :: b.2.1 else b.2.1, b.2.2)

/-- R161 rule 4: an adaptive store of a context to one of these bytes is unacknowledged. (DEDUCED: log entry 21.) -/
def State.overtakesFor (s : State) (i : Fin 11) (ps : List (Nat × Nat)) : Bool :=
  s.net.any fun r => r.adaptive && r.ctx == i && r.gen == (s.at i).gen && r.stage != .answered && match r.msg with
    | .access (.write bytes) => bytes.any fun b => ps.any fun p => p.1 ≤ r.ga + b.1 && r.ga + b.1 < p.1 + p.2
    | _ => false

/-- One of the issuing context is. -/
def State.overtakes (s : State) (ps : List (Nat × Nat)) : Bool := s.overtakesFor s.cur ps

/-! ### The store-hold buffer (R187, R309) -/

/-- The newest held byte at an address, if any. -/
def heldByte (spad : Bool) (a : Nat) : List Held → Option Byte
  | [] => none
  | h :: t =>
    match heldByte spad a t with
    | some b => some b
    | none => if h.spad == spad then (h.bytes.find? fun p => h.ga + p.1 == a).map (·.2) else none

/-- The held bytes over an access, by their distance `base` on. -/
def overlay (spad : Bool) (l : List Held) (base ga n : Nat) : List (Nat × Byte) :=
  (List.range n).filterMap fun i => (heldByte spad (ga + i) l).map fun b => (base + i, b)

/-- Lay bytes over a list. -/
def layOver (bs : List Byte) (laid : List (Nat × Byte)) : List Byte := laid.foldl (fun l p => l.set p.1 p.2) bs

/-- Whether stores of the context go to its hold buffer (R309): inside a window, and while the buffer drains. -/
def Ctx.holds (c : Ctx) : Bool := !c.spec.isEmpty || !c.hold.isEmpty

/-- Put entries into the hold buffer; outside a window they are released already. -/
def State.hold (s : State) (l : List Held) : State :=
  let c := s.ctx
  s.put { c with hold := c.hold ++ l, released := if c.spec.isEmpty then c.released + l.length else c.released }

/-- The wait of a store that the full hold buffer holds back (R308, R309). -/
def State.holdFull (s : State) (k : Nat) : Bool := Config.holdDepth < heldCount s.ctx.hold + k

/-! ### Sealed replicas (R178, R190, R198) -/

/-- The data cache holds a line, if it still does. -/
def State.cached (s : State) (ga : Nat) : Option (Nat × List Byte) :=
  if Config.replicaHeld s.tick then s.replicas.find? (·.1 == ga / 64) else none

/-- The own slice refuses what reaches it: its page is frozen (R362), or its core has reported itself saved (R369). -/
def State.sliceRefuses (s : State) (ga : Nat) : Bool := s.mem.frozen.contains (granule ga) || s.launch.acked

/-- An earlier access of the issuing context to the own slice is not performed yet. -/
def State.ownPending (s : State) : Bool :=
  s.net.any fun q => q.ctx == s.cur && q.gen == s.ctx.gen && s.ownSlice q.ga && q.msg.op.isSome && match q.stage with
    | .replied _ => false
    | .answered => false
    | _ => true

/-- The bytes of a line the data cache holds, if it still does: a sealed line, or, while its slice refuses the access, a line of
the own slice, which never differs from the slice (R159), once the context's earlier accesses there are performed (R161 rule 5).
(DESIGN CHOICE: log entry 10.) -/
def State.replica (s : State) (p : Piece) : Option Nat :=
  if s.ownSlice p.ga then
    (if s.sliceRefuses p.ga && s.moved p.ga == p.ga && !s.mem.poisoned p.ga p.n && !s.ownPending && (s.cached p.ga).isSome then
      some (s.mem.read p.ga p.n) else none)
  else if p.x.seal then (s.cached p.ga).map fun l => ofBytes ((l.2.drop (p.ga % 64)).take p.n)
  else none

/-- The data cache takes a line, in place of the one it took first when all are taken (R18). (DESIGN CHOICE: log entry 10.) -/
def State.cacheLine (s : State) (line : Nat) (bytes : List Byte) : State :=
  if s.replicas.any (·.1 == line) then s
  else { s with replicas := s.replicas.drop (s.replicas.length + 1 - Config.cacheLines) ++ [(line, bytes)] }

/-- The data cache fills the line of an address: one of the own slice, or of a sealed granule (R178, R411). A line with a poisoned
word is no data (R167). -/
def State.fill (s : State) (ga : Nat) : State :=
  if s.mem.poisoned (ga / 64 * 64) 64 then s
  else if s.ownSlice ga then s.cacheLine (ga / 64) []
  else if s.mem.isSealed ga then (s.touch ga).cacheLine (ga / 64) (bytesOf (s.mem.read (ga / 64 * 64) 64) 64)
  else s

/-- A read that needs no message (R190, R192): served by the data cache, or performed early. -/
inductive AtHand where
  | cached (v : Nat)
  | early (e : Early)

/-- The registers that an address comes from: scalar ones by number, vector ones from 32 on. None when an entry of a queue or a
channel is among the operands, which is taken as the instruction issues. -/
def addressFrom (g v : List Field) : Option (List Nat) :=
  if (g ++ v).all (·.toNat < 32) then some (g.map (·.toNat) ++ v.map (32 + ·.toNat)) else none

/-- What is at hand for a piece whose address comes from these registers; none for a read that is never early (R192).
(DESIGN CHOICE: log entry 11.) -/
def State.atHand (s : State) (regs : Option (List Nat)) (p : Piece) : Option AtHand :=
  match s.replica p, regs.bind fun l => s.earlyOf l p with
  | some v, _ => some (.cached v)
  | none, some e => if Config.takesEarly s.tick then some (.early e) else none
  | none, none => none

/-- A read that the own slice has performed fills its line (R411). -/
def State.fillOwn (s : State) (ga : Nat) (r : Option Reply) : State :=
  match r with
  | some (.data _) => if s.ownSlice ga then s.fill ga else s
  | _ => s

/-- A read of a piece by the issuing context: what is at hand, or a message to its home. A read that the data cache serves is
performed then, after every early read there (R191, R198). -/
def State.ask (s : State) (regs : Option (List Nat)) (p : Piece) (m : Msg) : State × Nat × Option Reply :=
  match s.atHand regs p with
  | some (.cached v) => ({ s.noEarly p.ga with seqNo := s.seqNo + 1 }, s.seqNo, some (.data v))
  | some (.early e) => ({ s.usedEarly e with seqNo := s.seqNo + 1 }, s.seqNo, some (.data (e.bytes p)))
  | none => let a := s.send m; (a.1.fillOwn p.ga a.2.2, a.2)

/-- Reads in order: their numbers, and the replies there are at once. -/
def State.askAll (s : State) (regs : Option (List Nat)) : List (Piece × Msg) → State × List Nat × List (Nat × Reply)
  | [] => (s, [], [])
  | (p, m) :: t =>
    let a := s.ask regs p m
    let b := a.1.askAll regs t
    (b.1, a.2.1 :: b.2.1, (match a.2.2 with | some r => [(a.2.1, r.placed m.va)] | none => []) ++ b.2.2)

/-! ### The scratchpad (R180, R181, R167) -/

/-- The core of the cluster that holds a buffer, by its handle: the OWNER unless the handle has been given. -/
def State.holder (s : State) (buf : Nat) : Option Nat :=
  match s.spad.held.find? (·.1 == buf) with
  | some h => h.2.map (·.toNat)
  | none => some (buf / 64)

/-- The followed core holds a buffer. -/
def State.holdsBuf (s : State) (buf : Nat) : Bool := s.holder buf == some (s.core % 16)

/-- Why a scratchpad access is refused: an address out of range, or a buffer not held. -/
def State.spadFault (s : State) (a : Word) : Option TrapInfo :=
  if a.toNat / 2 ^ 22 ≠ 0 then some ⟨6, 4, some a, 0, none⟩
  else if !s.holdsBuf (a.toNat / 4096) then some ⟨16, 0, some a, 0, none⟩
  else none

/-- A scratchpad's `n` bytes. -/
def State.spadRead (s : State) (a : Nat) : Nat → Nat
  | 0 => 0
  | n + 1 => (cellsGet s.spad.cells a).toNat + 256 * s.spadRead (a + 1) n

/-- Some 4-byte word of an access is poisoned. -/
def State.spadBad (s : State) (a n : Nat) : Bool := s.spad.poison.any fun w => a / 4 ≤ w && w ≤ (a + n - 1) / 4

/-- Write `n` bytes; a whole word's write clears its poison. -/
def State.spadWrite (s : State) (a : Nat) : Nat → Nat → State
  | 0, _ => s
  | n + 1, v =>
    State.spadWrite { s with spad := { s.spad with cells := cellsSet s.spad.cells a (BitVec.ofNat 8 v) } } (a + 1) n (v / 256)

/-- A store of an aligned access: a partial write to a poisoned word is not performed. -/
def State.spadStore (s : State) (a n v : Nat) : Except Nat State :=
  if n < 4 && s.spadBad a n then .error 17
  else
    let s := s.spadWrite a n v
    .ok { s with spad := { s.spad with poison := s.spad.poison.filter fun w => !(a / 4 ≤ w && w ≤ (a + n - 1) / 4) } }

/-- Change a request. -/
def State.changeRequest (s : State) (id : Nat) (f : Request → Request) : State :=
  { s with net := s.net.map fun r => if r.id = id then f r else r }

/-- One piece of a held store leaves (R309): it is performed, or sent in its own class. A failure has no precise place any more and
is reported by R162. -/
def State.drainPiece (s : State) (i : Fin 11) (h : Held) : State :=
  if h.spad then
    match s.spadStore h.ga h.bytes.length (ofBytes (h.bytes.map (·.2))) with
    | .ok s => s
    | .error e => { s.addFault i (s.at i).gen (postedFault s.seqNo h.pc h.va e 0) with seqNo := s.seqNo + 1 }
  else
    s.as i fun s =>
      let a := s.send ⟨h.va, h.ga, .access (.write h.bytes), true, h.adaptive⟩
      let s := { a.1 with net := a.1.net.map fun r => if r.id = a.2.1 then { r with pc := h.pc } else r }
      match a.2.2 with
      | some (.fail cause sub _ _) =>
        s.addFault i s.ctx.gen (postedFault a.2.1 h.pc (lowestVa h.va (.access (.write h.bytes))) cause sub)
      | _ => s

/-- The first entry of a hold buffer: a store's first piece and the ones that belong to it. -/
def heldEntry : List Held → List Held
  | [] => []
  | h :: t => h :: t.takeWhile fun x => !x.head

/-- One released entry of a hold buffer leaves, as if it issued then (R309): when outstanding accesses are free for it, and no
adaptive store of the context to its bytes is unacknowledged (R161 rule 4). -/
def State.drainOne (s : State) (i : Fin 11) : State :=
  let c := s.at i
  let e := heldEntry c.hold
  if e.isEmpty || c.released < e.length || !s.room (e.filter fun h => !h.spad && !s.ownSlice h.ga).length ||
      s.overtakesFor i (e.flatMap fun h => if h.spad then [] else h.bytes.map fun b => (h.ga + b.1, 1)) then s
  else
    let s := s.putAt i { c with
      hold := c.hold.drop e.length, released := c.released - e.length
      spec := c.spec.map fun p => { p with older := p.older - e.length } }
    e.foldl (fun s h => s.drainPiece i h) s

end Sys2Proof.Machine
end

