-- ==== Sys2Proof/Machine/Layout.lean ====
section
/-!
DEFINITION. Layout-table entries (R241 to R244): their fields, the element a coordinate tuple names, and elements in the
scratchpad.
-/

namespace Sys2Proof.Machine

open Sys2Proof

def Layout.base (l : Layout) : Word := nth l 0 0
def Layout.space (l : Layout) : Nat := (nth l 1 0).bits 0 2
/-- Element size: 0 is 4 bits, 1 to 4 are 8 to 64 bits. -/
def Layout.es (l : Layout) : Nat := (nth l 1 0).bits 8 3
def Layout.rank (l : Layout) : Nat := (nth l 1 0).bits 16 4
def Layout.sws (l : Layout) : Nat := (nth l 1 0).bits 20 3
def Layout.swm (l : Layout) : Nat := (nth l 1 0).bits 24 8

/-- The extent of a dimension; 1 from RANK on. -/
def Layout.ext (l : Layout) (d : Nat) : Nat := if d < l.rank then (nth l (2 + d) 0).bits 0 20 else 1

/-- The stride of a dimension in elements, signed; 0 from RANK on. -/
def Layout.stride (l : Layout) (d : Nat) : Int :=
  if d < l.rank then
    let x := (nth l (2 + d) 0).bits 20 40
    if x < 2 ^ 39 then x else (x : Int) - 2 ^ 40
  else 0

/-- The bytes of an element of a size code; a 4-bit element lies in one byte. -/
def esBytes (es : Nat) : Nat := if es = 0 then 1 else 2 ^ (es - 1)

/-- An entry is valid (R241, R244). -/
def Layout.valid (l : Layout) : Bool := l.rank != 0

/-- Whether an image may be written to the table (R244). -/
def Layout.loads (l : Layout) : Bool :=
  1 ≤ l.rank && l.rank ≤ 9 && l.es ≤ 4 && l.space ≤ 1 && (List.range l.rank).all fun d => l.ext d != 0

/-- An image with its reserved fields cleared (R244). -/
def Layout.clean (l : Layout) : Layout :=
  .ofFn fun i =>
    if i.val = 0 then l.base
    else if i.val = 1 then
      BitVec.ofNat 64 (l.space + l.es * 2 ^ 8 + l.rank * 2 ^ 16 + l.sws * 2 ^ 20 + l.swm * 2 ^ 24)
    else if i.val < 11 then BitVec.ofNat 64 ((nth l i.val 0).bits 0 60) else 0

/-- The linear element offset of a coordinate tuple that is inside the entry (R242); coordinates not given are 0. -/
def Layout.offset (l : Layout) (cs : List Nat) : Option Int :=
  if (cs.zipIdx).all fun p => p.1 < l.ext p.2 then
    some (cs.zipIdx.foldl (fun a p => a + (p.1 : Int) * l.stride p.2) 0)
  else none

/-- The swizzle of a scratchpad address (R242): the column of the word within its row. -/
def Layout.swizzle (l : Layout) (a : Nat) : Nat :=
  let row := a / 2 ^ 10 % 2 ^ 8
  let col := a / 4 % 2 ^ 8
  a / 2 ^ 10 * 2 ^ 10 + (col ^^^ (row >>> l.sws &&& l.swm)) * 4 + a % 4

/-- Where an element lies: its byte address and, for a 4-bit element, its nibble (R104). A scratchpad address is
swizzled and its low bits are ignored (R180). -/
structure Place where
  addr : Word
  nibble : Nat
  deriving DecidableEq, Repr

/-- The place of an element offset: an element of 64 bits is swizzled once, as its first word. (DESIGN CHOICE: log entry 119.) -/
def Layout.place (l : Layout) (e : Int) : Place :=
  let n := esBytes l.es
  let raw : Word := l.base + BitVec.ofInt 64 (if l.es = 0 then e / 2 else e * n)
  let a := if l.space = 1 then BitVec.ofNat 64 (l.swizzle raw.toNat / n * n) else raw
  ⟨a, if l.es = 0 then (e % 2).toNat else 0⟩

/-- The place of a coordinate tuple, if it is inside. -/
def Layout.locate (l : Layout) (cs : List Nat) : Option Place := (l.offset cs).map l.place

/-- A scratchpad address is in range (R180). -/
def inSpad (a : Word) : Bool := a.toNat / 2 ^ 22 == 0

/-- Read an element of the scratchpad. (DESIGN CHOICE: log entry 117.) -/
def State.spadElem (s : State) (es : Nat) (p : Place) : Nat :=
  let v := s.spadRead p.addr.toNat (esBytes es)
  if es = 0 then v / 16 ^ p.nibble % 16 else v

/-- Write bytes of the scratchpad; a partial write to a poisoned word is not performed (R167). (DESIGN CHOICE: log entry 117.) -/
def State.spadPut (s : State) (a n v : Nat) : State :=
  match s.spadStore a n v with
  | .ok t => t
  | .error _ => s

/-- A byte with one nibble replaced (R104). -/
def setNibble (b nib v : Nat) : Nat := if nib = 0 then b / 16 * 16 + v % 16 else b % 16 + v % 16 * 16

/-- Write an element of the scratchpad. -/
def State.spadSetElem (s : State) (es : Nat) (p : Place) (v : Nat) : State :=
  if es = 0 then s.spadPut p.addr.toNat 1 (setNibble (s.spadRead p.addr.toNat 1) p.nibble v)
  else s.spadPut p.addr.toNat (esBytes es) v

/-- A box of a tile move, streaming multiply or accumulator store: `rows` by `cols` elements at (c0, c1), rows along
dimension 1, or along dimension 0 with `col` (R219, R228): the row, the position and the coordinates of each. -/
def moveBox (rows cols c0 c1 : Nat) (col : Bool) : List (Nat × Nat × List Nat) :=
  (List.range rows).flatMap fun r => (List.range cols).map fun j =>
    (r, j, if col then [c0 + r, c1 + j] else [c0 + j, c1 + r])

/-- The handles of the scratchpad buffers that a list of coordinate tuples touches (R181, R218). An element whose address lies
outside the scratchpads touches none: it is refused as an access of its own (R242). -/
def Layout.buffers (l : Layout) (css : List (List Nat)) : List Nat :=
  (css.filterMap fun cs => (l.locate cs).bind fun p => if inSpad p.addr then some (p.addr.toNat / 4096) else none).eraseDups

/-- The bytes of the scratchpad it touches (R216). -/
def Layout.bytes (l : Layout) (css : List (List Nat)) : List Nat :=
  css.flatMap fun cs => match l.locate cs with
    | some p => (List.range (esBytes l.es)).map (p.addr.toNat + ·)
    | none => []

/-- Every element of the box that is inside the entry has a scratchpad address in range (R219). -/
def Layout.allInSpad (l : Layout) (css : List (List Nat)) : Bool :=
  css.all fun cs => match l.locate cs with
    | some p => inSpad p.addr
    | none => true

/-- The linear offset, swizzled address of elements takes the whole raw address: an address in range before the swizzle
stays in its buffer. -/
theorem swizzle_buffer (l : Layout) (a : Nat) : l.swizzle a / 2 ^ 10 = a / 2 ^ 10 := by
  have h : (a / 4 % 2 ^ 8 ^^^ ((a / 2 ^ 10 % 2 ^ 8) >>> l.sws &&& l.swm)) < 2 ^ 8 := by
    apply Nat.xor_lt_two_pow (Nat.mod_lt _ (by decide))
    exact Nat.lt_of_le_of_lt Nat.and_le_left (Nat.lt_of_le_of_lt (Nat.shiftRight_le _ _) (Nat.mod_lt _ (by decide)))
  unfold Layout.swizzle
  simp only
  omega

end Sys2Proof.Machine
end

