-- ==== Sys2Proof/Machine/Matrix.lean ====
section
/-!
DEFINITION. The matrix unit's data: tiles and their shapes (R214), the multiply (R221 to R224), read-outs (R225), and what
a matrix command does to tiles, accumulators and the scratchpad (R219, R220, R228).
-/

namespace Sys2Proof.Machine

open Sys2Proof

/-! ### Shapes and pairs -/

def shapeEw (w : Word) : Nat := w.bits 16 2
def shapeCols (w : Word) : Nat := w.bits 8 8
def shapeRows (w : Word) : Nat := w.bits 0 7

/-- The element width in bits of a width code. -/
def ewBits (ew : Nat) : Nat := 4 * 2 ^ ew

/-- TSHAPE of a tile. -/
def State.shape (s : State) (t : Nat) : Word := nth s.regs.tshape t 0

/-- ACFG of an accumulator; its KIND. -/
def State.acfg (s : State) (k : Nat) : Word := nth s.regs.acfg k 0
def State.kind (s : State) (k : Nat) : Nat := (s.acfg k).bits 0 1

/-- A format pair (R221): the formats by code, K, the accumulator KIND, and whether block scales apply. -/
structure Pair where
  a : Nat
  b : Nat
  k : Nat
  kind : Nat
  scales : Bool
  deriving DecidableEq, Repr

def pairOf : Nat → Option Pair
  | 0xA2 => some ⟨2, 2, 32, 0, false⟩
  | 0xA3 => some ⟨1, 1, 32, 0, false⟩
  | 0xA4 => some ⟨3, 3, 64, 0, true⟩
  | 0xA5 => some ⟨4, 3, 64, 0, true⟩
  | 0xA6 => some ⟨3, 4, 64, 0, true⟩
  | 0xA7 => some ⟨8, 8, 64, 1, false⟩
  | 0xA8 => some ⟨9, 8, 64, 1, false⟩
  | 0xA9 => some ⟨5, 5, 128, 0, true⟩
  | 0xAA => some ⟨7, 8, 64, 1, false⟩
  | 0xAB => some ⟨7, 3, 64, 0, true⟩
  | 0xAC => some ⟨7, 2, 64, 0, true⟩
  | _ => none

/-- The bits of an element of a matrix format. -/
def fmtBits (code : Nat) : Nat := if code = 5 then 4 else if code = 1 || code = 2 then 16 else 8

/-- The element-width code of a format. -/
def fmtEw (code : Nat) : Nat := if code = 5 then 0 else if code = 1 || code = 2 then 2 else 1

/-- Element `k` of a row of a tile, within its shape (R214); none reads as zero. -/
def tileElem (tile : Vector VWord 64) (shape : Word) (w row k : Nat) : Option Nat :=
  if row < shapeRows shape && k < shapeCols shape then some ((nth tile row 0).toNat / 2 ^ (w * k) % 2 ^ w) else none

def elemNum (code : Nat) : Option Nat → Num
  | none => .fin false 0 0
  | some x => readCode code x

/-- An element of an integer pair, TW8 in units of 2^−6. -/
def elemInt (code : Nat) : Option Nat → Int
  | none => 0
  | some x => if code = 7 then tw8Units x else if code = 9 || x < 128 then x else (x : Int) - 256

/-! ### The multiply (R223). Flags are NV 8, OF 4, NX 2, SAT 1, as ACFG[7:4]. -/

/-- The exponent of a block's scale; none for 0xFF, which makes every product NaN (R119). -/
def blockScale (on : Bool) (word : Word) (side j : Nat) : Option Int :=
  if on then
    let x := word.bits (32 * side + 8 * j) 8
    if x = 255 then none else some ((x : Int) - 127)
  else some 0

/-- A product with its block scales. -/
def scaledProduct (x y : Num) (sa sb : Option Int) : Num :=
  match sa, sb with
  | some i, some j =>
    (match (x.mul y).1 with
     | .fin n m e => .fin n m (e + i + j)
     | z => z)
  | _, _ => .nan false

/-- The exact sum of group `g`. -/
def groupSum (f : Nat → Num) (g : Nat) : Num :=
  (List.range 7).foldl (fun s i => (s.add 0 (f (8 * g + i + 1))).1) (f (8 * g))

/-- One FA48 cell over `n` groups: the new cell and the flags. (DEDUCED: log entry 70.) -/
def accFloat (f : Nat → Num) (n start : Nat) : Nat × Nat :=
  (List.range n).foldl (fun x g =>
    let old := fa48.read x.1
    if old.isNan then (fa48.canonical, x.2)
    else
      match (old.add 0 (groupSum f g)).1 with
      | .nan _ => (fa48.canonical, x.2 ||| 8)
      | .inf p => (fa48.infinity p, x.2)
      | .fin p m e =>
        let y := fa48.round 0 false 0 p m e
        (y.1, x.2 ||| ((if y.2.of then 4 else 0) + (if y.2.nx then 2 else 0)))) (start, 0)

/-- A signed 48-bit cell. -/
def cellInt (c : Nat) : Int := if c < 2 ^ 47 then c else (c : Int) - 2 ^ 48

/-- One INT48 cell over `n` groups. -/
def accInt (f : Nat → Int) (n : Nat) (sat32 : Bool) (start : Nat) : Nat × Nat :=
  let lo : Int := if sat32 then -(2 ^ 31) else -(2 ^ 47)
  let hi : Int := if sat32 then 2 ^ 31 - 1 else 2 ^ 47 - 1
  let r := (List.range n).foldl (fun (x : Int × Nat) g =>
    let v := (List.range 8).foldl (fun a i => a + f (8 * g + i)) x.1
    let c := satInt v lo hi
    (c, if c = v then x.2 else x.2 ||| 1)) (cellInt start, 0)
  (lowBits 48 r.1, r.2)

/-- The value of one cell of a multiply, from the elements of its row of A and its column of B. (DEDUCED: log entry 70.) -/
def mmaCell (p : Pair) (sa sb sat32 : Bool) (scale : Word) (a b : Nat → Option Nat) (start : Nat) : Nat × Nat :=
  if p.kind = 0 then
    accFloat (fun k => scaledProduct (elemNum p.a (a k)) (elemNum p.b (b k))
      (blockScale sa scale 0 (k / 32)) (blockScale sb scale 1 (k / 32))) (p.k / 8) start
  else accInt (fun k => elemInt p.a (a k) * elemInt p.b (b k)) (p.k / 8) sat32 start

/-- M of an `mma` (R222). -/
def mmaM (mc : BitVec 2) : Nat := 16 * 2 ^ mc.toNat

/-- N. -/
def mmaN (nc : BitVec 6) : Nat := 16 * (nc.toNat + 1)

/-- A tile's row elements in a format. -/
def State.tileRow (s : State) (t fmt row k : Nat) : Option Nat :=
  tileElem (nth s.mx.tiles t (.replicate 64 0)) (s.shape t) (fmtBits fmt) row k

/-- Column `n` of B from its tile, or two tiles for `tw8bf` (R221). -/
def State.bColumn (s : State) (op t fmt n k : Nat) : Option Nat :=
  if op = 0xAC && 32 ≤ k then s.tileRow (t + 1) fmt n (k - 32) else s.tileRow t fmt n k

def State.accCells (s : State) (k : Nat) : Vector (BitVec 48) 4096 := nth s.mx.accs k (.replicate 4096 0)

/-- Replace an accumulator. -/
def State.setAcc (s : State) (k : Nat) (cells : Vector (BitVec 48) 4096) : State :=
  { s with mx := { s.mx with accs := upd s.mx.accs k cells } }

/-- Raise flags in ACFG (R215). -/
def State.raiseAcc (s : State) (k fl : Nat) : State :=
  { s with regs := { s.regs with acfg := upd s.regs.acfg k (s.acfg k ||| BitVec.ofNat 64 (fl * 16)) } }

/-- The cells of a rectangle. -/
def rectangle (m n : Nat) : List (Nat × Nat) := (List.range m).flatMap fun i => (List.range n).map fun j => (i, j)

/-- `mma` (R223): the accumulator's new cells and the flags. -/
def State.runMma (s : State) (op : Nat) (m : MmaArgs) (scale : Word) : State × Nat :=
  match pairOf op with
  | none => (s, 0)
  | some p =>
    let k := m.d.toNat
    let cells := s.accCells k
    let one (i j : Nat) : Nat × Nat :=
      mmaCell p m.sa m.sb ((s.acfg k).bit 1) scale (s.tileRow m.a.toNat p.a i) (s.bColumn op m.b.toNat p.b j)
        (if m.clr then 0 else (nth cells (64 * i + j) 0).toNat)
    let new : Vector (BitVec 48) 4096 := .ofFn fun c =>
      if c.val / 64 < mmaM m.mc && c.val % 64 < mmaN m.nc then BitVec.ofNat 48 (one (c.val / 64) (c.val % 64)).1 else cells[c]
    let fl := (rectangle (mmaM m.mc) (mmaN m.nc)).foldl (fun f q => f ||| (one q.1 q.2).2) 0
    (s.setAcc k new, fl)

/-! ### Read-outs (R225) -/

/-- The rounding shift of R137, exact on any integer; with whether non-zero bits were discarded. -/
def roundShift (x : Int) (sh : Nat) (even : Bool) : Int × Bool :=
  if sh = 0 then (x, false)
  else
    let low := x % 2 ^ sh
    let r := (x + 2 ^ (sh - 1)) / 2 ^ sh
    (if even && low = 2 ^ (sh - 1) && r % 2 = 1 then r - 1 else r, low != 0)

/-- A cell read out: the bits, and the flags. (DEDUCED: log entry 66.) (DESIGN CHOICE: log entry 112.) -/
def readOut (kind cell fmt rm sh : Nat) (even : Bool) : Nat × Nat :=
  if fmt = 12 then (if kind = 1 then lowBits 64 (cellInt cell) else cell, 0)
  else
    match kind, integerOf fmt with
    | 1, some (sg, w) =>
      let r := roundShift (cellInt cell) sh even
      let c := satInt r.1 (intLow sg w) (intHigh sg w)
      (lowBits w c, (if r.2 then 2 else 0) ||| (if c = r.1 then 0 else 3))
    | _, i =>
      let x : Num := if kind = 1 then .fin (decide (cellInt cell < 0)) (cellInt cell).natAbs 0 else fa48.read cell
      let x : Num := match x with | .fin n m e => .fin n m (e - sh) | z => z
      let y := writeCode fmt rm false 0 x
      match i with
      | some _ =>
        if x.isNan then (0, 8) else (y.1, if y.2.nv then 3 else if y.2.nx then 2 else 0)
      | none => (y.1, if x.isNan then 0 else (if y.2.of then 4 else 0) ||| (if y.2.nx || y.2.nv then 2 else 0))

/-- The bits of a read-out element. -/
def readBits (fmt : Nat) : Nat := if fmt = 0 || fmt = 10 then 32 else if fmt = 1 || fmt = 2 then 16 else if fmt = 12 then 64 else 8

/-- The element-size code of a layout entry that matches a read-out format. -/
def readEs (fmt : Nat) : Nat := if fmt = 0 || fmt = 10 then 3 else if fmt = 1 || fmt = 2 then 2 else if fmt = 12 then 4 else 1

/-- A vector from its elements. -/
def vecOf (w n : Nat) (f : Nat → Nat) : VWord :=
  BitVec.ofNat 512 ((List.range n).foldl (fun v i => v + f i % 2 ^ w * 2 ^ (w * i)) 0)

/-- Element `i` of a vector. -/
def vecElem (v : VWord) (w i : Nat) : Nat := v.toNat / 2 ^ (w * i) % 2 ^ w

/-- `mrd` (R227): the vector and the flags. -/
def State.runMrd (s : State) (m : MrdArgs) : VWord × Nat :=
  let w := readBits m.fmt.toNat
  let n := 512 / w
  let k := m.acc.toNat
  let one (i : Nat) : Nat × Nat :=
    let j := m.part.toNat * n + i
    let c := if m.dir then 64 * j + m.index.toNat else 64 * m.index.toNat + j
    readOut (s.kind k) (nth (s.accCells k) c 0).toNat m.fmt.toNat m.rm.toNat m.shift.toNat m.ev
  (vecOf w n fun i => (one i).1, (List.range n).foldl (fun f i => f ||| (one i).2) 0)

/-! ### Moves (R219, R220, R224, R228) -/

/-- Replace a tile. -/
def State.setTile (s : State) (t : Nat) (x : Vector VWord 64) : State :=
  { s with mx := { s.mx with tiles := upd s.mx.tiles t x } }

/-- `tld` (R219): elements outside the extents are zero, and so is every other byte of the tile. -/
def State.runTld (s : State) (t : Nat) (l : Layout) (c0 c1 : Nat) (col : Bool) : State :=
  let sh := s.shape t
  let w := ewBits (shapeEw sh)
  s.setTile t <| .ofFn fun r =>
    if r.val < shapeRows sh then
      vecOf w (shapeCols sh) fun j =>
        match l.locate (if col then [c0 + r.val, c1 + j] else [c0 + j, c1 + r.val]) with
        | some p => s.spadElem l.es p
        | none => 0
    else 0

/-- `tst` (R219). -/
def State.runTst (s : State) (t : Nat) (l : Layout) (c0 c1 : Nat) (col : Bool) : State :=
  let sh := s.shape t
  let tile := nth s.mx.tiles t (.replicate 64 0)
  (moveBox (shapeRows sh) (shapeCols sh) c0 c1 col).foldl (fun s q =>
    match l.locate q.2.2 with
    | some p => s.spadSetElem l.es p (vecElem (nth tile q.1 0) (ewBits (shapeEw sh)) q.2.1)
    | none => s) s

/-- The words of q2 that a streaming `mma` (R224) and an `mst` (R228) take. -/
def streamEven (q : Word) : Bool := q.bit 49
/-- SHIFT of it, taken as it stands. (DESIGN CHOICE: log entry 115.) -/
def streamShift (q : Word) : Nat := q.bits 43 6
def streamRm (q : Word) : Nat := q.bits 40 3
def streamFmt (q : Word) : Nat := q.bits 36 4
def streamDc1 (q : Word) : Nat := q.bits 24 12
def streamSc1 (q : Word) : Nat := q.bits 12 12
def streamDlt (q : Word) : Nat := q.bits 6 6
def streamSlt (q : Word) : Nat := q.bits 0 6
def mstEven (q : Word) : Bool := q.bit 38
/-- SHIFT of it. (DESIGN CHOICE: log entry 115.) -/
def mstShift (q : Word) : Nat := q.bits 32 6
def mstMc (q : Word) : Nat := q.bits 30 2
def mstNc (q : Word) : Nat := q.bits 24 6
def mstC1 (q : Word) : Nat := q.bits 12 12
def mstC0 (q : Word) : Nat := q.bits 0 12
def mstM (q : Word) : Nat := 16 * 2 ^ mstMc q
def mstN (q : Word) : Nat := 16 * (mstNc q + 1)

/-- Streaming `mma` (R224): column by column, B from the scratchpad, each value read out into the scratchpad. (DESIGN CHOICE: log entry 116.) -/
def State.runStream (s : State) (op : Nat) (m : MmaArgs) (scale q : Word) (src dst : Layout) : State × Nat :=
  match pairOf op with
  | none => (s, 0)
  | some p =>
    let k := m.d.toNat
    let cells := s.accCells k
    (List.range (mmaN m.nc)).foldl (fun (x : State × Nat) n =>
      let column := (List.range (mmaM m.mc)).map fun i =>
        mmaCell p m.sa m.sb ((s.acfg k).bit 1) scale (s.tileRow m.a.toNat p.a i)
          (fun j => (src.locate [j, streamSc1 q + n]).map (x.1.spadElem src.es))
          (if m.clr then 0 else (nth cells (64 * i + n % 64) 0).toNat)
      (column.zipIdx).foldl (fun (y : State × Nat) c =>
        let o := readOut (s.kind k) c.1.1 (streamFmt q) (streamRm q) (streamShift q) (streamEven q)
        (match dst.locate [c.2, streamDc1 q + n] with
         | some pl => y.1.spadSetElem dst.es pl o.1
         | none => y.1, y.2 ||| c.1.2 ||| o.2)) x) (s, 0)

/-- The box of an `mst` (R228). -/
def mstBox (q : Word) (col : Bool) : List (Nat × Nat × List Nat) := moveBox (mstM q) (mstN q) (mstC0 q) (mstC1 q) col

/-- `mst` out (R228). -/
def State.runMst (s : State) (k fmt rm : Nat) (col : Bool) (l : Layout) (q : Word) : State × Nat :=
  let cells := s.accCells k
  (mstBox q col).foldl (fun (x : State × Nat) e =>
    match l.locate e.2.2 with
    | some p =>
      let o := readOut (s.kind k) (nth cells (64 * e.1 + e.2.1) 0).toNat fmt rm (mstShift q) (mstEven q)
      (x.1.spadSetElem l.es p o.1, x.2 ||| o.2)
    | none => x) (s, 0)

/-- `mst.in` (R228). -/
def State.runMstIn (s : State) (k : Nat) (col : Bool) (l : Layout) (q : Word) : State :=
  s.setAcc k <| (mstBox q col).foldl (fun cells e =>
    match l.locate e.2.2 with
    | some p => upd cells (64 * e.1 + e.2.1) (BitVec.ofNat 48 (s.spadElem l.es p))
    | none => cells) (s.accCells k)

/-- What a command that did not fail does, with the flags it raises. -/
def State.runMx (s : State) (op : Nat) (x : MxOp) : State × Nat :=
  match x with
  | .tld t l c0 c1 col => (s.runTld t l c0 c1 col, 0)
  | .tst t l c0 c1 col => (s.runTst t l c0 c1 col, 0)
  | .tzero t => (s.setTile t (.replicate 64 0), 0)
  | .mzero k => (s.setAcc k (.replicate 4096 0), 0)
  | .mma _ m scale => s.runMma op m scale
  | .stream _ m scale q src dst => s.runStream op m scale q src dst
  | .mst k fmt rm col l q => s.runMst k fmt.toNat rm.toNat col l q
  | .mstIn k col l q => (s.runMstIn k col l q, 0)

/-! ### What a command touches (R216 to R218) -/

/-- The accumulator a command names and so owns. -/
def MxOp.acc : MxOp → Option Nat
  | .mzero k => some k
  | .mma _ m _ => some m.d.toNat
  | .stream _ m _ _ _ _ => some m.d.toNat
  | .mst k _ _ _ _ _ => some k
  | .mstIn k _ _ _ => some k
  | _ => none

/-- The accumulator it writes. -/
def MxOp.writesAcc : MxOp → Option Nat
  | .mzero k => some k
  | .mma _ m _ => some m.d.toNat
  | .mstIn k _ _ _ => some k
  | _ => none

/-- The tiles it reads and writes. -/
def MxOp.readsTiles (op : Nat) : MxOp → List Nat
  | .tst t _ _ _ _ => [t]
  | .mma _ m _ => [m.a.toNat, m.b.toNat] ++ (if op = 0xAC then [m.b.toNat + 1] else [])
  | .stream _ m _ _ _ _ => [m.a.toNat]
  | _ => []

def MxOp.writesTile : MxOp → Option Nat
  | .tld t _ _ _ _ => some t
  | .tzero t => some t
  | _ => none

/-- The coordinates it reads and writes in the scratchpad, with their entries. -/
def State.mxReads (s : State) (op : Nat) : MxOp → Option (Layout × List (List Nat))
  | .tld t l c0 c1 col => some (l, (moveBox (shapeRows (s.shape t)) (shapeCols (s.shape t)) c0 c1 col).map (·.2.2))
  | .stream _ m _ q src _ =>
    some (src, (rectangle ((pairOf op).map (·.k) |>.getD 0) (mmaN m.nc)).map fun e => [e.1, streamSc1 q + e.2])
  | .mstIn _ col l q => some (l, (mstBox q col).map (·.2.2))
  | _ => none

def State.mxWrites (s : State) : MxOp → Option (Layout × List (List Nat))
  | .tst t l c0 c1 col => some (l, (moveBox (shapeRows (s.shape t)) (shapeCols (s.shape t)) c0 c1 col).map (·.2.2))
  | .stream _ m _ q _ dst => some (dst, (rectangle (mmaM m.mc) (mmaN m.nc)).map fun e => [e.1, streamDc1 q + e.2])
  | .mst _ _ _ col l q => some (l, (mstBox q col).map (·.2.2))
  | _ => none

def boxBytes : Option (Layout × List (List Nat)) → List Nat
  | some (l, c) => l.bytes c
  | none => []

def boxBuffers : Option (Layout × List (List Nat)) → List Nat
  | some (l, c) => l.buffers c
  | none => []

/-- Two lists share a number. -/
def meet (a b : List Nat) : Bool := a.any b.contains

/-- A later command conflicts with an earlier unfinished one (R216): one writes what the other reads or writes, save two
`mma`s on one accumulator. -/
def State.conflict (s : State) (e l : MxCmd) : Bool :=
  let both := (match e.what, l.what with | .mma .., .mma .. => true | _, _ => false)
  let tiles (a b : MxCmd) : Bool :=
    match a.what.writesTile with
    | some t => (b.what.readsTiles b.op.toNat).contains t || b.what.writesTile == some t
    | none => false
  let accs (a b : MxCmd) : Bool :=
    match a.what.writesAcc with
    | some k => b.what.acc == some k
    | none => false
  let bytes (a b : MxCmd) : Bool :=
    let w := boxBytes (s.mxWrites a.what)
    !w.isEmpty && (meet w (boxBytes (s.mxReads b.op.toNat b.what)) || meet w (boxBytes (s.mxWrites b.what)))
  tiles e l || tiles l e || (!both && (accs e l || accs l e)) || bytes e l || bytes l e

/-- Whether a command may start beside the unfinished ones before it: those it conflicts with, and those a `qfence` set
before it (R253), are complete. -/
def State.mxFree (s : State) (before : List MxCmd) (c : MxCmd) : Bool :=
  c.after.isEmpty && before.all fun e => !s.conflict e c

/-- The buffers a command uses (R218). -/
def State.mxBuffers (s : State) (c : MxCmd) : List Nat :=
  boxBuffers (s.mxReads c.op.toNat c.what) ++ boxBuffers (s.mxWrites c.what)

/-- Whether an `mma` streams columns (R234). -/
def MxOp.streams : MxOp → Bool
  | .mma .. => true
  | .stream .. => true
  | _ => false

end Sys2Proof.Machine
end

