-- ==== Sys2Proof/Machine/Engine.lean ====
section
/-!
DEFINITION. What copy and gather commands do (R242, R245 to R250, R252): the element accesses, in box order, up to the first
that faults.
-/

namespace Sys2Proof.Machine

open Sys2Proof

/-- Whose translations an engine access uses, and its opcode. -/
structure Via where
  root : Word
  pl : Bool
  op : Nat
  deriving DecidableEq, Repr

/-- The gather engine's sectors. -/
def State.withShared (s : State) (l : List SharedRead) : State := { s with eng := { s.eng with shared := l } }

/-- A fault of an element's access. (DEDUCED: log entry 17.) -/
def engTrap (cause sub : Nat) (va : Word) : TrapInfo := ⟨cause, sub, some va, 0, none⟩

/-- The error of an access that finds no memory: SEALST for a store to a region that its owner has sealed, else PROT (R184, R185). -/
def State.absentTrap (s : State) (p : Piece) (read : Bool) : TrapInfo :=
  if s.sealedLoan p.ga read then engTrap 9 0 p.va else engTrap 6 5 p.va

/-- The refusal of an element's home, if any: no memory (R184), a failed package or a closed cluster (R376, R377, R382), a page
frozen for migration (R164), or a slice whose core has reported itself saved (R369). RNR is cause 18 here until its last retry. -/
def State.engHome (s : State) (p : Piece) (read : Bool) : Option TrapInfo :=
  if gaSpace p.ga = 1 && s.cxlAbsent p.ga read then some (if s.changing (s.moved p.ga) then engTrap 18 0 p.va else s.absentTrap p read)
  else if (s.deadHome p.ga).isSome || (gaSpace p.ga == 0 && (s.closedAt (gaPkg p.ga) (gaCore p.ga)).isSome) then
    some (engTrap 19 0 p.va)
  else if s.mem.frozen.contains (granule (s.moved p.ga)) || (s.launch.acked && s.ownSlice (s.moved p.ga)) then
    some (engTrap 18 0 p.va)
  else none

/-- The bytes of a piece as its home gives them. -/
def State.homeBytes (s : State) (p : Piece) : List Byte := bytesOf (s.homeRead (s.moved p.ga) p.n) p.n

/-- The units that the pieces lie in come to their sector buffers (R183). -/
def State.touchAll (s : State) (ps : List Piece) : State := ps.foldl (fun s p => s.touch (s.moved p.ga)) s

/-- The pieces of an element of memory, translated and with a home. -/
def State.engPieces (s : State) (v : Via) (va : Word) (n : Nat) (k : Access) : Except TrapInfo (List Piece) :=
  match s.translateAllBy v.root v.pl k v.op 0 .memory (pieces 9 va n) with
  | .error e => .error e
  | .ok ps =>
    match ps.filterMap fun p => s.engHome p (k == .load) with
    | e :: _ => .error e
    | [] => .ok ps

/-- Read the bytes of an element of memory. -/
def State.engRead (s : State) (v : Via) (va : Word) (n : Nat) : Except TrapInfo (State × Nat) :=
  match s.engPieces v va n .load with
  | .error e => .error e
  | .ok ps =>
    match ps.find? fun p => s.mem.poisoned (s.moved p.ga) p.n with
    | some p => .error (engTrap 17 0 p.va)
    | none => .ok ((s.installAll ps).touchAll ps, ofBytes (ps.flatMap s.homeBytes))

/-- Write bytes of memory for the machine itself: the home's plain store, remembered by a migration, and in CXL memory through its
unit's sector buffer (R183). -/
def State.storeAt (s : State) (ga : Nat) (bytes : List (Nat × Byte)) : State × Reply :=
  let ga := s.moved ga
  let r := s.mem.store ga bytes
  let t : State := { s with mem := r.1 }
  ((t.mark ga (bytes.map (·.1))).touch ga, r.2)

/-- A write of memory that the machine makes for itself, where there is memory behind the address (R184). -/
def State.storeHome (s : State) (ga : Nat) (bytes : List (Nat × Byte)) : State :=
  if gaSpace (s.moved ga) = 1 && s.cxlAbsent (s.moved ga) false then s else (s.storeAt ga bytes).1

/-- Write the pieces of an element, the first first. -/
def State.engStore (s : State) (bs : List Byte) : List Piece → Except TrapInfo State
  | [] => .ok s
  | p :: t =>
    match s.storeAt p.ga ((bs.take p.n).zipIdx.map fun (b : Byte × Nat) => (b.2, b.1)) with
    | (s, .data _) => s.engStore (bs.drop p.n) t
    | (_, .fail c sub _ b) => .error (engTrap c sub (p.va + BitVec.ofNat 64 b))

def State.engWrite (s : State) (v : Via) (va : Word) (n x : Nat) : Except TrapInfo State :=
  match s.engPieces v va n .store with
  | .error e => .error e
  | .ok ps => ((s.installAll ps).touchAll ps).engStore (bytesOf x n) ps

/-- The refusal of a scratchpad element of `n` bytes: an address out of range (R242), or a word with an error that the access reads,
or writes in part (R167). Its FADDR is 0: it is no virtual address. -/
def State.spadRefuses (s : State) (p : Place) (n : Nat) (read : Bool) : Option TrapInfo :=
  if !inSpad p.addr then some (engTrap 6 4 0)
  else if (read || n < 4) && s.spadBad p.addr.toNat n then some (engTrap 17 0 0)
  else none

/-- Read an element through an entry. -/
def State.getElem (s : State) (v : Via) (l : Layout) (p : Place) : Except TrapInfo (State × Nat) :=
  if l.space = 1 then
    match s.spadRefuses p (esBytes l.es) true with
    | some e => .error e
    | none => .ok (s, s.spadElem l.es p)
  else
    match s.engRead v p.addr (esBytes l.es) with
    | .error e => .error e
    | .ok (s, x) => .ok (s, if l.es = 0 then x / 16 ^ p.nibble % 16 else x)

/-- Write an element through an entry. -/
def State.setElem (s : State) (v : Via) (l : Layout) (p : Place) (x : Nat) : Except TrapInfo State :=
  if l.space = 1 then
    match s.spadRefuses p (esBytes l.es) false with
    | some e => .error e
    | none => .ok (s.spadSetElem l.es p x)
  else if l.es = 0 then
    match s.engPieces v p.addr 1 .store with
    | .error e => .error e
    | .ok ps =>
      let old := match ps with | q :: _ => s.mem.read (s.moved q.ga) 1 | [] => 0
      ((s.installAll ps).touchAll ps).engStore (bytesOf (setNibble old p.nibble x) 1) ps
  else s.engWrite v p.addr (esBytes l.es) x

/-- The element size of a `cpyr` format (R248), as a size code. -/
def cpyrEs (fmt : Nat) : Nat := if fmt = 1 || fmt = 2 then 2 else if fmt = 12 || fmt = 13 then 4 else 3

/-- The update of `cpyr` (R248): floating as R175, integers wrapping, signed for i32 and i64. -/
def cpyrValue (op fmt old v : Nat) : Nat :=
  let n := esBytes (cpyrEs fmt)
  if fmt ≤ 2 then amofValue (match op with | 0 => .add | 1 => .min | _ => .max) fmt old v
  else
    let sg := fmt = 10 || fmt = 12
    amoValue (match op with
      | 0 => .add | 1 => if sg then .min else .minu | 2 => if sg then .max else .maxu
      | 3 => .and | 4 => .or | _ => .xor) n old v

/-- An indivisible update at the element's home. -/
def State.updElem (s : State) (v : Via) (op fmt : Nat) (p : Place) (x : Nat) : Except TrapInfo State :=
  let n := esBytes (cpyrEs fmt)
  match s.engPieces v p.addr n .atomic with
  | .error e => .error e
  | .ok ps =>
    match ps.find? fun q => s.mem.poisoned (s.moved q.ga) q.n with
    | some q => .error (engTrap 17 0 q.va)
    | none =>
      let old := ofBytes (ps.flatMap fun q => bytesOf (s.mem.read (s.moved q.ga) q.n) q.n)
      ((s.installAll ps).touchAll ps).engStore (bytesOf (cpyrValue op fmt old x) n) ps

/-! ### Boxes (R247, R248) -/

def dimCount (w : Word) : Nat := w.bits 40 20
def dimDc (w : Word) : Nat := w.bits 20 20
def dimSc (w : Word) : Nat := w.bits 0 20

/-- Position `j` of a box of these counts, dimension 0 fastest. -/
def boxPos : List Nat → Nat → List Nat
  | [], _ => []
  | c :: t, j => j % c :: boxPos t (j / c)

/-- The elements of a box. -/
def boxSize (dims : List Word) : Nat := (dims.map dimCount).foldl (· * ·) 1

/-- The source and destination coordinates of an element. -/
def boxSource (dims : List Word) (j : Nat) : List Nat := (dims.zip (boxPos (dims.map dimCount) j)).map fun p => dimSc p.1 + p.2
def boxDest (dims : List Word) (j : Nat) : List Nat := (dims.zip (boxPos (dims.map dimCount) j)).map fun p => dimDc p.1 + p.2

/-- The word of a gather or a `pack` (q1). -/
def gathDc (w : Word) : Nat := w.bits 40 20
def gathIc (w : Word) : Nat := w.bits 20 20
def gathCount (w : Word) : Nat := w.bits 0 20

/-- How many elements a command visits. -/
def EngOp.size : EngOp → Nat
  | .cpy _ _ dims _ => boxSize dims
  | .cpyr _ _ _ _ dims _ => boxSize dims
  | .gath src _ _ w _ => if src.rank = 2 then gathCount w * src.ext 0 else gathCount w
  | .gathQ _ _ w _ => gathCount w
  | .pull _ _ _ n => (n.map fun x => x.len.toNat).getD 0
  | .pack _ _ _ w => gathCount w

/-- How many of them it passes over (R245). -/
def EngOp.skip : EngOp → Nat
  | .cpy _ _ _ k => k
  | .cpyr _ _ _ _ _ k => k
  | .gath _ _ _ _ k => k
  | .gathQ _ _ _ k => k
  | _ => 0

/-- The source element at coordinates, 0 outside the entry. (DEDUCED: log entry 71.) -/
def State.sourceElem (s : State) (v : Via) (l : Layout) (cs : List Nat) : Except TrapInfo (State × Nat) :=
  match l.locate cs with
  | none => .ok (s, 0)
  | some p => s.getElem v l p

/-- Write at coordinates, nothing outside the entry. -/
def State.destElem (s : State) (v : Via) (l : Layout) (cs : List Nat) (x : Nat) : Except TrapInfo State :=
  match l.locate cs with
  | none => .ok s
  | some p => s.setElem v l p x

/-- The sector of an address that a gather has read for a run of its indices. -/
def State.sharedAt (s : State) (run ga : Nat) : Option SharedRead :=
  s.eng.shared.find? fun x => x.run == run && x.ga == ga / 32 * 32

/-- A sector is read for a run. -/
def State.share (s : State) (run ga : Nat) : State :=
  let a := s.moved (ga / 32 * 32)
  let x : SharedRead := ⟨run, ga / 32 * 32,
    s.homeRead a 32,
    (List.range 4).filterMap fun k => if s.mem.poison.contains (a / 8 + k) then some (ga / 32 * 4 + k) else none⟩
  s.withShared (x :: s.eng.shared.filter (·.run == run))

/-- Read an element of memory for a run of a gather's indices: those that fall in one 32-byte sector share one read (R249). -/
def State.engReadShared (s : State) (v : Via) (run : Nat) (va : Word) (n : Nat) : Except TrapInfo (State × Nat) :=
  match s.translateAllBy v.root v.pl .load v.op 0 .memory (pieces 9 va n) with
  | .error e => .error e
  | .ok ps =>
    match (ps.filter fun p => (s.sharedAt run p.ga).isNone).filterMap fun p => s.engHome p true with
    | e :: _ => .error e
    | [] =>
      let t := ps.foldl (fun (s : State) p =>
        if (s.sharedAt run p.ga).isSome then s else (s.touch (s.moved p.ga)).share run p.ga) (s.installAll ps)
      let bytes (p : Piece) : Nat := (((t.sharedAt run p.ga).map (·.value)).getD 0) / 256 ^ (p.ga % 32) % 256 ^ p.n
      let bad (p : Piece) : Bool := (((t.sharedAt run p.ga).map (·.bad)).getD []).any fun w => p.ga / 8 ≤ w && w ≤ (p.ga + p.n - 1) / 8
      match ps.find? bad with
      | some p => .error (engTrap 17 0 p.va)
      | none => .ok (t, ofBytes (ps.flatMap fun p => bytesOf (bytes p) p.n))

/-- The value that element `j` of a gather reads (R249): for indices within one run of 64, a sector of memory is read once. -/
def State.gathered (s : State) (v : Via) (src idx : Layout) (w : Word) (j : Nat) : Except TrapInfo (State × Nat) :=
  let row := if src.rank = 2 then j / src.ext 0 else j
  match s.sourceElem v idx [gathIc w + row] with
  | .error e => .error e
  | .ok (s, x) =>
    match src.locate (if src.rank = 2 then [j % src.ext 0, x] else [x]) with
    | none => .ok (s, 0)
    | some p =>
      if src.space = 1 then s.getElem v src p
      else
        match s.engReadShared v (row / 64) p.addr (esBytes src.es) with
        | .error e => .error e
        | .ok (s, x) => .ok (s, if src.es = 0 then x / 16 ^ p.nibble % 16 else x)

/-- One element of a command: the state, and DONE with it (R246, R250): the elements visited, skipped ones among them, of `cpy`,
`cpyr` and `gath`; those written of `pack` and `pull`. -/
def State.engElem (s : State) (v : Via) (x : EngOp) (j kept : Nat) : Except TrapInfo (State × Nat) :=
  match x with
  | .cpy src dst dims _ =>
    (match s.sourceElem v src (boxSource dims j) with
     | .error e => .error e
     | .ok (s, a) => (s.destElem v dst (boxDest dims j) a).map (·, kept + 1))
  | .cpyr op fmt src dst dims _ =>
    (match s.sourceElem v src (boxSource dims j) with
     | .error e => .error e
     | .ok (s, a) =>
       match dst.locate (boxDest dims j) with
       | none => .ok (s, kept + 1)
       | some p => (s.updElem v op.toNat fmt.toNat p a).map (·, kept + 1))
  | .gath src idx dst w _ =>
    (match s.gathered v src idx w j with
     | .error e => .error e
     | .ok (s, a) =>
       let dest := if src.rank = 2 then [j % src.ext 0, gathDc w + j / src.ext 0] else [gathDc w + j]
       (s.destElem v dst dest a).map (·, kept + 1))
  | .gathQ .. => .ok (s, kept)
  | .pull dst c0 c1 n =>
    (match n, dst.locate [c0 + j, c1] with
     | some n, some p =>
       let ga := n.ga.toNat + j
       let q : Piece := ⟨0, 1, ga, ⟨0, 0, 0, 0, []⟩⟩
       (match s.engHome q true with
        | some e => .error e
        | none =>
          if s.mem.poisoned (s.moved ga) 1 then .error (engTrap 17 0 0)
          else ((s.touchAll [q]).setElem v dst p (ofBytes (s.homeBytes q))).map (·, kept + 1))
     | _, _ => .ok (s, kept))
  | .pack src mask dst w =>
    (match s.sourceElem v mask [gathIc w + j] with
     | .error e => .error e
     | .ok (s, b) =>
       if b = 0 then .ok (s, kept)
       else
         match s.sourceElem v src [gathIc w + j] with
         | .error e => .error e
         | .ok (s, a) =>
           match dst.locate [gathDc w + kept] with
           | none => .ok (s, kept)
           | some p => (s.setElem v dst p a).map (·, kept + 1))

/-- What visiting elements comes to: the state, the next element, DONE, and the fault that stopped the command (R245). -/
structure Visit where
  state : State
  pos : Nat
  done : Nat
  fault : Option TrapInfo

/-- Visit `n` elements from `j` on. (DEDUCED: log entry 72.) -/
def State.engRun (s : State) (v : Via) (x : EngOp) : Nat → Nat → Nat → Visit
  | 0, j, kept => ⟨s, j, kept, none⟩
  | n + 1, j, kept =>
    match s.engElem v x j kept with
    | .error e => ⟨s, j, kept, some e⟩
    | .ok (s, kept) => s.engRun v x n (j + 1) kept

/-- The elements that a visit performs, each with DONE before it. -/
def State.engSteps (s : State) (v : Via) (x : EngOp) : Nat → Nat → Nat → List (Nat × Nat)
  | 0, _, _ => []
  | n + 1, j, kept =>
    match s.engElem v x j kept with
    | .error _ => []
    | .ok r => (j, kept) :: r.1.engSteps v x n (j + 1) r.2

/-- Put a position among others by a key. (DESIGN CHOICE: log entry 8.) -/
def insertBy (key : Nat → Nat) (j : Nat × Nat) : List (Nat × Nat) → List (Nat × Nat)
  | [] => [j]
  | i :: l => if key j.1 ≤ key i.1 then j :: i :: l else i :: insertBy key j l

/-- Visit the elements of a command, up to the first in box order that faults. Those before it are performed in a free order
(R245, R248: none holds among them). (DESIGN CHOICE: log entry 8.) -/
def State.engVisit (s : State) (v : Via) (x : EngOp) (n j kept : Nat) : Visit :=
  let l := (s.engSteps v x n j kept).foldr (insertBy (Config.order s.tick)) []
  { s.engRun v x n j kept with state := l.foldl (fun s e => ((s.engElem v x e.1 e.2).toOption.map (·.1)).getD s) s }

/-- The scratchpad buffers that a command's box can touch (R245). -/
def EngOp.buffers (x : EngOp) : List Nat :=
  let of (l : Layout) (css : List (List Nat)) : List Nat := if l.space = 1 then l.buffers css else []
  let range (n : Nat) (f : Nat → List Nat) : List (List Nat) := (List.range n).map f
  match x with
  | .cpy src dst dims _ =>
    of src (range (boxSize dims) (boxSource dims)) ++ of dst (range (boxSize dims) (boxDest dims))
  | .cpyr _ _ src dst dims _ =>
    of src (range (boxSize dims) (boxSource dims)) ++ of dst (range (boxSize dims) (boxDest dims))
  | .gath src idx dst w _ =>
    of src (if src.rank = 2 then rectangle (src.ext 0) (src.ext 1) |>.map fun p => [p.1, p.2] else range (src.ext 0) ([·])) ++
      of idx (range (gathCount w) fun j => [gathIc w + j]) ++
      of dst (if src.rank = 2 then rectangle (src.ext 0) (gathCount w) |>.map fun p => [p.1, gathDc w + p.2]
        else range (gathCount w) fun j => [gathDc w + j])
  | .gathQ src idx w _ =>
    of src (range (src.ext 0) ([·])) ++ of idx (range (gathCount w) fun j => [gathIc w + j])
  | .pull dst c0 c1 n => of dst (range ((n.map fun x => x.len.toNat).getD 0) fun j => [c0 + j, c1])
  | .pack src mask dst w =>
    of src (range (gathCount w) fun j => [gathIc w + j]) ++ of mask (range (gathCount w) fun j => [gathIc w + j]) ++
      of dst (range (gathCount w) fun j => [gathDc w + j])

/-- The code of a cause in a completion record (R246). -/
def recordCause (c : Nat) : Nat :=
  match c with
  | 16 => 1 | 7 => 2 | 6 => 3 | 8 => 4 | 9 => 5 | 17 => 6 | 19 => 7 | 18 => 8 | _ => 3

end Sys2Proof.Machine
end

