-- ==== Sys2Proof/Machine/Beats.lean ====
section
/-!
DEFINITION. Beats of the scratchpad ports and the cycles they lose to bank conflicts, which BANKCNT counts (R242, R408).
-/

namespace Sys2Proof.Machine

open Sys2Proof

/-- The bank of a word, numbered by its scratchpad, row and column (R242). -/
def bankOf (w : Nat) : Nat := (w / 2 ^ 8 + w) % 2 ^ 8

/-- The words that an element touches through an entry; a word's number is its scratchpad address over 4. -/
def Layout.words (l : Layout) (cs : List Nat) : List Nat :=
  if l.space = 1 then
    match l.locate cs with
    | some p => if inSpad p.addr then (List.range ((esBytes l.es + 3) / 4)).map (p.addr.toNat / 4 + ·) else []
    | none => []
  else []

/-- The words of one beat: those it reads, those of its index list or mask, and those it writes. Each is a beat of its own
at its port. (DEDUCED: log entry 85.) -/
abbrev Beat := List (List Nat)

/-- The extra cycles of one side of a beat at the scratchpad of a core of the cluster: the largest number of its words in one
bank, less one. -/
def sideExtra (core : Nat) (ws : List Nat) : Nat :=
  let mine := (ws.filter fun w => w / 2 ^ 16 == core).eraseDups
  (mine.map fun w => (mine.filter fun x => bankOf x == bankOf w).length).foldl max 0 - 1

def beatExtra (core : Nat) (b : Beat) : Nat := (b.map (sideExtra core)).foldl (· + ·) 0

/-- The sides of a beat with one more element. -/
def joinSides (b e : Beat) : Beat := List.zipWith (fun x y => (x ++ y).eraseDups) b e

/-- Beats from consecutive elements: a beat takes elements for as long as it touches no more than 16 words at each side and no
more than 512 bits of data (R408). `used` counts the bits it holds. The last beat, still open, stands beside the others. -/
def formBeats (bits : Nat) : List Beat → Beat → Nat → List Beat × Beat × Nat
  | [], cur, used => ([], cur, used)
  | e :: t, cur, used =>
    let new := joinSides cur e
    if used != 0 && (decide (512 < used + bits) || new.any fun x => decide (16 < x.length)) then
      let r := formBeats bits t e bits
      (cur :: r.1, r.2)
    else formBeats bits t new (used + bits)

/-- The words of element `j` of a command: read, index or mask, written. (DEDUCED: log entry 85.) -/
def State.engSides (s : State) (v : Via) (x : EngOp) (j kept : Nat) : Beat :=
  match x with
  | .cpy src dst dims _ => [src.words (boxSource dims j), [], dst.words (boxDest dims j)]
  | .cpyr _ _ src _ dims _ => [src.words (boxSource dims j), [], []]
  | .gath src idx dst w _ =>
    let row := if src.rank = 2 then j / src.ext 0 else j
    let i := match s.sourceElem v idx [gathIc w + row] with | .ok r => r.2 | .error _ => 0
    if src.rank = 2 then
      [src.words [j % src.ext 0, i], idx.words [gathIc w + row], dst.words [j % src.ext 0, gathDc w + row]]
    else [src.words [i], idx.words [gathIc w + row], dst.words [gathDc w + row]]
  | .gathQ src idx w _ =>
    let i := match s.sourceElem v idx [gathIc w + j] with | .ok r => r.2 | .error _ => 0
    [src.words [i], idx.words [gathIc w + j], []]
  | .pull dst c0 c1 _ => [[], [], dst.words [c0 + j, c1]]
  | .pack src mask dst w =>
    let keep := match s.sourceElem v mask [gathIc w + j] with | .ok r => r.2 != 0 | .error _ => false
    if keep then [src.words [gathIc w + j], mask.words [gathIc w + j], dst.words [gathDc w + kept]]
    else [[], mask.words [gathIc w + j], []]

/-- The words of the elements that a command performs, `n` from `j` on, up to the first whose access faults. -/
def State.engTouched (s : State) (v : Via) (x : EngOp) : Nat → Nat → Nat → List Beat
  | 0, _, _ => []
  | n + 1, j, kept =>
    match s.engElem v x j kept with
    | .error _ => []
    | .ok r => s.engSides v x j kept :: r.1.engTouched v x n (j + 1) r.2

/-- The bits of an element of a command's data. -/
def EngOp.bits : EngOp → Nat
  | .cpy src .. => if src.es = 0 then 4 else 8 * esBytes src.es
  | .cpyr _ _ src .. => if src.es = 0 then 4 else 8 * esBytes src.es
  | .gath src .. => if src.es = 0 then 4 else 8 * esBytes src.es
  | .gathQ src .. => if src.es = 0 then 4 else 8 * esBytes src.es
  | .pull .. => 8
  | .pack src .. => if src.es = 0 then 4 else 8 * esBytes src.es

/-- BANKCNT gains so many cycles and stops at its largest value (R240). -/
def State.addBank (s : State) (n : Nat) : State :=
  let v := s.regs.bankcnt.bits 0 32 + n
  { s with regs := { s.regs with bankcnt := BitVec.ofNat 64 (if 2 ^ 32 - 1 < v then 2 ^ 32 - 1 else v) } }

/-- BANKCNT of this core gains the extra cycles of beats at its scratchpad (R242). -/
def State.countBeats (s : State) (l : List Beat) : State :=
  s.addBank ((l.map (beatExtra (s.core % 16))).foldl (· + ·) 0)

/-- A command visits `n` elements from its next on: the beats they fill are counted, and the last stays open. -/
def State.countElems (s : State) (v : Via) (c : EngCmd) (n : Nat) : EngCmd × List Beat :=
  let r := formBeats c.what.bits (s.engTouched v c.what n c.pos c.done) c.beat c.beatBits
  ({ c with beat := r.2.1, beatBits := r.2.2 }, r.1)

/-- The last beat of a command is counted. -/
def State.countLast (s : State) (c : EngCmd) : State := if c.beatBits = 0 then s else s.countBeats [c.beat]

/-- A list cut into pieces of `n`, of at most `fuel` pieces. -/
def chunks (n : Nat) : Nat → List α → List (List α)
  | 0, _ => []
  | fuel + 1, l => if l.isEmpty then [] else l.take n :: chunks n fuel (l.drop n)

/-- Each 64 bytes of a read-out run is a beat (R408): a run goes along dimension 0 of the entry. -/
def mstRuns (q : Word) (col : Bool) (l : Layout) : List Beat :=
  let m := mstM q
  let n := mstN q
  let runs : List (List (List Nat)) :=
    if col then (List.range n).map fun j => (List.range m).map fun i => [mstC0 q + i, mstC1 q + j]
    else (List.range m).map fun i => (List.range n).map fun j => [mstC0 q + j, mstC1 q + i]
  runs.flatMap fun r => (chunks (64 / esBytes l.es) 64 r).map fun c => [c.flatMap l.words]

/-- Each row of a tile is a beat (R408). -/
def tileBeats (rows cols c0 c1 : Nat) (col : Bool) (l : Layout) : List Beat :=
  (List.range rows).map fun r =>
    [(List.range cols).flatMap fun j => l.words (if col then [c0 + r, c1 + j] else [c0 + j, c1 + r])]

/-- The beats of a matrix command. -/
def State.mxBeats (s : State) : MxOp → List Beat
  | .tld t l c0 c1 col => tileBeats (shapeRows (s.shape t)) (shapeCols (s.shape t)) c0 c1 col l
  | .tst t l c0 c1 col => tileBeats (shapeRows (s.shape t)) (shapeCols (s.shape t)) c0 c1 col l
  | .mst _ _ _ col l q => mstRuns q col l
  | .mstIn _ col l q => mstRuns q col l
  | _ => []

/-- BANKCNT after a matrix command's accesses. How a streaming `mma` forms its beats is not stated, so what it adds is a free
value. (DESIGN CHOICE: log entry 86.) -/
def State.countMx (s : State) (x : MxOp) : State :=
  match x with
  | .stream .. => s.addBank (Config.streamExtra s.tick)
  | _ => s.countBeats (s.mxBeats x)

end Sys2Proof.Machine
end

