-- ==== Sys2Proof/Machine/Drone.lean ====
section
/-!
DEFINITION. The Drone front end (R260 to R275): the directory and records in the home slice, integration of events, firing,
the residual queue and its overflow ring, and events on their way.
-/

namespace Sys2Proof.Machine

open Sys2Proof

/-! ### The machine's own reads and writes of memory -/

/-- Read `n` bytes where a frame's bytes are now. (DEDUCED: log entry 24.) -/
def State.peek (s : State) (ga n : Nat) : Nat := s.mem.read (s.moved ga) n

/-- Write `n` bytes. (DEDUCED: log entry 24.) -/
def State.poke (s : State) (ga n v : Nat) : State := (s.storeAt ga (listed v n)).1

/-- Replace bits of a number. -/
def putBits (x lo len v : Nat) : Nat := x - slice x lo len * 2 ^ lo + v % 2 ^ len * 2 ^ lo

/-! ### Directory and records (R260 to R264) -/

/-- The address of a directory entry. -/
def State.dirAddr (s : State) (idx : Nat) : Nat := s.ownBase + s.regs.objbase.bits 16 8 * 65536 + 8 * idx

def State.dir (s : State) (idx : Nat) : Nat := s.peek (s.dirAddr idx) 8

def dirGen (d : Nat) : Nat := slice d 56 8
/-- 0 free, 1 live, 2 deleting. -/
def dirSt (d : Nat) : Nat := slice d 54 2
/-- 0 idle, 1 in the residual queue, 2 in the overflow ring, 3 handler running. -/
def dirQ (d : Nat) : Nat := slice d 52 2
def dirOff (d : Nat) : Nat := slice d 0 24

/-- The address of an object's record. -/
def State.recAddr (s : State) (idx : Nat) : Nat := s.ownBase + dirOff (s.dir idx)

def State.hd (s : State) (idx n : Nat) : Nat := s.peek (s.recAddr idx + 8 * n) 8
def State.setHd (s : State) (idx n v : Nat) : State := s.poke (s.recAddr idx + 8 * n) 8 v

def hdSw (h : Nat) : Nat := slice h 31 5
def hdNs (h : Nat) : Nat := slice h 25 6
def hdType (h : Nat) : Nat := slice h 19 6
def hdKind (h : Nat) : Nat := slice h 17 2

/-- The bytes of a block of `sw` words. -/
def blockBytes (sw : Nat) : Nat := 32 * ((sw + 7) / 8)

/-- The distance of the first block from the record. -/
def firstBlock (ns : Nat) : Nat := 64 + 32 * ((ns + 3) / 4)

/-- The size of a record (R263). -/
def recordSize (sw ns : Nat) : Nat := firstBlock ns + blockBytes sw * (3 + ns)

/-- Block `b` of a record: 0 the state, 1 REF, 2 SHADOW, 3 + n slot n. -/
def State.blockAddr (s : State) (idx b : Nat) : Nat :=
  let h := s.hd idx 0
  s.recAddr idx + firstBlock (hdNs h) + b * blockBytes (hdSw h)

def State.word32 (s : State) (idx b i : Nat) : Nat := s.peek (s.blockAddr idx b + 4 * i) 4
def State.setWord32 (s : State) (idx b i v : Nat) : State := s.poke (s.blockAddr idx b + 4 * i) 4 v

/-- Write words 0 to `n` − 1 of a block. -/
def State.setBlock (s : State) (idx b n : Nat) (f : Nat → Nat) : State :=
  (List.range n).foldl (fun s i => s.setWord32 idx b i (f i)) s

def State.tagOf (s : State) (idx i : Nat) : Nat := s.peek (s.recAddr idx + 64 + 8 * i) 8
def State.setTag (s : State) (idx i v : Nat) : State := s.poke (s.recAddr idx + 64 + 8 * i) 8 v

/-- Set Q of a directory entry, and SETTLED with it (R263). -/
def State.setQ (s : State) (idx q : Nat) : State :=
  let s := s.poke (s.dirAddr idx) 8 (putBits (s.dir idx) 52 2 q)
  s.setHd idx 0 (putBits (s.hd idx 0) 37 1 (if q = 0 then 1 else 0))

def State.resid (s : State) (idx : Nat) : Nat := slice (s.hd idx 1) 0 32
def State.setResid (s : State) (idx v : Nat) : State := s.setHd idx 1 (putBits (s.hd idx 1) 0 32 v)

/-! ### FP32 arithmetic of the banks (R269): RNE, SAT 0, canonical NaNs, no flags -/

def bankRound (x : Num) : Nat := (finishNum fp32 0 false 0 (x, .none)).1

/-- Round(a + b − c), the exact sum rounded once. -/
def bankSum (a b c : Nat) : Nat :=
  bankRound ((((fp32.read a).add 0 (fp32.read b)).1).add 0 (fp32.read c).neg).1

/-- Round(a − c). -/
def bankDiff (a c : Nat) : Nat := bankRound ((fp32.read a).add 0 (fp32.read c).neg).1

/-- `a > b`, false when either is NaN. -/
def bankGt (a b : Nat) : Bool :=
  let x := fp32.read a
  let y := fp32.read b
  !x.isNan && !y.isNan && decide (0 < x.cmp y)

/-- `a ≥ b`, false when either is NaN. -/
def bankGe (a b : Nat) : Bool :=
  let x := fp32.read a
  let y := fp32.read b
  !x.isNan && !y.isNan && decide (0 ≤ x.cmp y)

def fpInf : Nat := 0x7F800000

/-- Before (R266). -/
def before (a b : Nat) : Bool :=
  let d := (b + 2 ^ 32 - a % 2 ^ 32) % 2 ^ 32
  1 ≤ d && d < 2 ^ 31

/-! ### Drone registers -/

def State.now (s : State) : Nat := s.regs.etime.bits 0 32
def State.held (s : State) : Bool := s.regs.etcfg.bit 16
def State.cutActive (s : State) : Bool := s.regs.esnap.bit 40
def State.cut (s : State) : Nat := s.regs.esnap.bits 32 8
def State.cutTime (s : State) : Nat := s.regs.esnap.bits 0 32

/-- Change the front end. -/
def State.withDrone (s : State) (f : Drone → Drone) : State := { s with drone := f s.drone }

/-- A 32-bit counter gains one and wraps (R290). -/
def bump32 (w : Word) : Word := BitVec.ofNat 64 ((w.toNat + 1) % 2 ^ 32)

def State.countDrop (s : State) : State := s.withDrone fun d => { d with drop := bump32 d.drop }
def State.countStale (s : State) : State := s.withDrone fun d => { d with stale := bump32 d.stale }

/-- A handler-table entry; THR of an invalid one is +∞ and its MODE 0 (R291). -/
def State.handler (s : State) (t : Nat) : Handler := nth s.drone.handlers t .reset
def Handler.threshold (h : Handler) : Nat := if h.valid then h.thr.toNat else fpInf
def Handler.effMode (h : Handler) : Nat := if h.valid then h.mode else 0

/-! ### The residual queue (R273) -/

/-- Insert an entry: larger RESID first, equal ones in order of entry. -/
def queueInsert (e : BitVec 12 × BitVec 32 × Nat) : List (BitVec 12 × BitVec 32 × Nat) → List (BitVec 12 × BitVec 32 × Nat)
  | [] => [e]
  | x :: t =>
    if bankGt e.2.1.toNat x.2.1.toNat || (!bankGt x.2.1.toNat e.2.1.toNat && e.2.2 < x.2.2) then e :: x :: t
    else x :: queueInsert e t

/-- An object enters the queue. -/
def State.enterQueue (s : State) (idx : Nat) : State :=
  let r := BitVec.ofNat 32 (s.resid idx)
  let s := s.withDrone fun d => { d with residual := queueInsert (BitVec.ofNat 12 idx, r, d.seq) d.residual, seq := d.seq + 1 }
  s.setQ idx 1

/-- An object goes to the tail of the ring. -/
def State.enterRing (s : State) (idx : Nat) : State :=
  (s.withDrone fun d => { d with ring := d.ring ++ [BitVec.ofNat 12 idx] }).setQ idx 2

/-- The last of the queue, of the smallest RESID, goes to the ring. -/
def State.displaceLast (s : State) : State :=
  match s.drone.residual.getLast? with
  | none => s
  | some m => (s.withDrone fun d => { d with residual := d.residual.dropLast }).enterRing m.1.toNat

/-- RESID of an object exceeds the smallest of the queue. -/
def State.exceedsLast (s : State) (idx : Nat) : Bool :=
  match s.drone.residual.getLast? with
  | none => false
  | some m => bankGt (s.resid idx) m.2.1.toNat

/-- An object joins (R273); while delivery is held everything lies in the ring (R293). -/
def State.join (s : State) (idx : Nat) : State :=
  if s.held then s.enterRing idx
  else if s.drone.residual.length < 64 then s.enterQueue idx
  else if s.exceedsLast idx then s.displaceLast.enterQueue idx
  else s.enterRing idx

/-- An entry leaves the queue and the oldest of the ring takes its place; or it leaves the ring. -/
def State.leaveQueue (s : State) (idx : Nat) : State :=
  let i := BitVec.ofNat 12 idx
  if s.drone.residual.any (·.1 == i) then
    let s := s.withDrone fun d => { d with residual := d.residual.filter (·.1 != i) }
    match s.drone.ring with
    | [] => s
    | m :: t => (s.withDrone fun d => { d with ring := t }).enterQueue m.toNat
  else s.withDrone fun d => { d with ring := d.ring.filter (· != i) }

/-- A queued object's RESID changed: its place moves. -/
def State.replace (s : State) (idx : Nat) : State :=
  let i := BitVec.ofNat 12 idx
  match s.drone.residual.find? (·.1 == i) with
  | some e =>
    s.withDrone fun d => { d with
      residual := queueInsert (i, BitVec.ofNat 32 (s.resid idx), e.2.2) (d.residual.filter (·.1 != i)) }
  | none =>
    if s.exceedsLast idx && !s.held then
      (s.displaceLast.withDrone fun d => { d with ring := d.ring.filter (· != i) }).enterQueue idx
    else s

/-- Residual() (R270). -/
def State.residual (s : State) (idx : Nat) : State :=
  let h := s.hd idx 0
  let sw := hdSw h
  let words := (List.range sw).map fun i => bankDiff (s.word32 idx 0 i) (s.word32 idx 1 i) % 2 ^ 31
  let nan := words.any fun w => (fp32.read w).isNan
  let r := if nan then fpInf else words.foldl (fun a w => if bankGt w a then w else a) 0
  let s := s.setResid idx r
  match dirQ (s.dir idx) with
  | 0 => if bankGt r (s.handler (hdType h)).threshold then s.join idx else s
  | 3 => s
  | _ => s.replace idx

/-! ### Events on their way -/

/-- The destination core of an identity, and its index. -/
def idCore (i : BitVec 41) : Nat := i.toNat / 4096
def idIndex (i : BitVec 41) : Nat := i.toNat % 4096

/-- An identity of this core. -/
def State.ownId (s : State) (idx : Nat) : BitVec 41 := BitVec.ofNat 41 (s.lcore.toNat * 4096 + idx)

/-- A stand-in address for what is sent to a core's message interface, apart from every memory address: it orders the
messages to one core. -/
def coreHome (lcore : Nat) : Nat := 2 ^ 66 + lcore * 2 ^ 33

/-- A home of its own for what goes to every core of a scope (R381). -/
def multicastHome : Nat := coreHome (2 ^ 29)

/-- A logical number names a core of the job (R388). -/
def State.coreOfJob (s : State) (lcore : Nat) : Bool := lcore < s.jobCores

/-- The slice of a logical core of the job (R388). (DEDUCED: log entry 56.) -/
def State.sliceOf (s : State) (lc : Nat) : Nat :=
  if lc = s.lcore.toNat then s.ownBase
  else
    let j := lc / 2048
    let x := (s.launch.lx0 + j / 16 / s.launch.ny) % Config.extentX
    let y := (s.launch.ly0 + j / 16 % s.launch.ny) % Config.extentY
    sliceBase (x * 2 ^ 11 + y * 2 ^ 4 + j % 16) (lc % 2048)

/-- An event that the front end itself sends (R267): retried without limit, dropped when its identity names no core. -/
def State.emit (s : State) (e : Ev) : State :=
  if s.coreOfJob (idCore e.dest) then
    { s with
      net := s.net ++ [⟨s.seqNo, 0, 0, coreHome (idCore e.dest), 0, 0, .event (BitVec.ofNat 64 (idCore e.dest)) e, true,
        false, 0, [], .sent, 0⟩]
      seqNo := s.seqNo + 1 }
  else s.countDrop

/-- An entry of a fan-out list (R281): the two doublewords of entry `i`. -/
def State.fanEntry (s : State) (idx i : Nat) : Nat × Nat :=
  let a := s.ownBase + slice (s.hd idx 3) 0 24 + 16 * i
  (s.peek a 8, s.peek (a + 8) 8)

/-- The events of a fan-out list (R272, R279), in list order. -/
def State.fanOut (s : State) (idx : Nat) (f : Nat × Nat → Ev) : State :=
  (List.range (slice (s.hd idx 3) 48 16)).foldl (fun s i => s.emit (f (s.fanEntry idx i))) s

/-- Fire() of a neuron (R272). -/
def State.fire (s : State) (idx ts : Nat) : State :=
  let mode := (s.handler (hdType (s.hd idx 0))).effMode
  let gen := BitVec.ofNat 8 (dirGen (s.dir idx))
  let s :=
    if mode = 0 || mode = 2 then
      s.fanOut idx fun e =>
        ⟨BitVec.ofNat 41 e.1, BitVec.ofNat 8 (slice e.1 48 8), BitVec.ofNat 6 (slice e.1 41 6), s.ownId idx, false, gen,
          BitVec.ofNat 32 (ts + slice e.2 32 32), [BitVec.ofNat 32 e.2], false, 0⟩
    else s
  match dirQ (s.dir idx) with
  | 0 => if mode = 0 then s else s.join idx
  | 3 => if mode = 0 then s else s.setHd idx 0 (putBits (s.hd idx 0) 36 1 1)
  | _ => s.replace idx

/-! ### Integration (R269 to R272) -/

/-- A slot event. -/
def State.slotEvent (s : State) (idx : Nat) (e : Ev) : State :=
  let h := s.hd idx 0
  let sw := hdSw h
  let j := e.slot.toNat
  if hdNs h ≤ j || e.payload.length != sw then s.countDrop
  else
    let t := s.tagOf idx j
    let same := slice t 0 41 == e.src.toNat && slice t 41 1 == e.n.toNat
    let st := slice t 62 2
    if st = 1 && !same then s.countDrop
    else if (st = 1 || (st = 2 && same)) && slice t 54 8 != e.sgen.toNat then s.countStale
    else
      let s := s.setTag idx j (2 ^ 62 + e.sgen.toNat * 2 ^ 54 + e.n.toNat * 2 ^ 41 + e.src.toNat)
      let p (i : Nat) : Nat := ((e.payload[i]?).getD 0).toNat
      let new := (List.range sw).map fun i => bankSum (s.word32 idx 0 i) (p i) (s.word32 idx (3 + j) i)
      let s := s.setBlock idx 0 sw fun i => (new[i]?).getD 0
      (s.setBlock idx (3 + j) sw p).residual idx

/-- Subtract slot `j` from the state and zero it. -/
def State.subtractSlot (s : State) (idx j : Nat) : State :=
  let sw := hdSw (s.hd idx 0)
  let new := (List.range sw).map fun i => bankDiff (s.word32 idx 0 i) (s.word32 idx (3 + j) i)
  let s := s.setBlock idx 0 sw fun i => (new[i]?).getD 0
  s.setBlock idx (3 + j) sw fun _ => 0

/-- A retraction (R271). -/
def State.retraction (s : State) (idx : Nat) (e : Ev) : State :=
  let h := s.hd idx 0
  let j := e.slot.toNat
  if hdKind h = 2 || hdNs h ≤ j then s.countDrop
  else
    let t := s.tagOf idx j
    if slice t 62 2 = 1 && slice t 0 41 == e.src.toNat && slice t 41 1 == e.n.toNat && slice t 54 8 == e.sgen.toNat then
      ((s.subtractSlot idx j).setTag idx j
        (2 ^ 63 + e.rgen.toNat * 2 ^ 54 + e.n.toNat * 2 ^ 41 + e.src.toNat)).residual idx
    else s.countStale

/-- The leak of a neuron (R272): sign(v) × max(0, |v| − LEAK × Δ), exact and rounded once. -/
def leakOf (v leak delta : Nat) : Nat :=
  let x := fp32.read v
  let a : Num := match x with | .fin _ m e => .fin false m e | .inf _ => .inf false | z => z
  let l := ((fp32.read leak).mul (.fin false delta 0)).1
  let d := (a.add 0 l.neg).1
  match d with
  | .nan _ => fp32.canonical
  | .inf neg => if neg then bankRound (.fin x.sign 0 0) else bankRound (.inf x.sign)
  | .fin neg m e => if neg then bankRound (.fin x.sign 0 0) else bankRound (.fin x.sign m e)

/-- A neuron event (R272). -/
def State.neuronEvent (s : State) (idx : Nat) (e : Ev) : State :=
  match e.payload with
  | [w] =>
    let ts := e.ts.toNat
    let last := slice (s.hd idx 1) 32 32
    let delta := if before last ts then (ts + 2 ^ 32 - last) % 2 ^ 32 else 0
    let v := s.word32 idx 0 0
    let v := if delta = 0 then v else leakOf v (slice (s.hd idx 2) 32 32) delta
    let v := bankRound ((fp32.read v).add 0 (fp32.read w.toNat)).1
    if bankGe v (slice (s.hd idx 2) 0 32) then ((s.setResid idx v).fire idx ts).setWord32 idx 0 0 0
    else s.setWord32 idx 0 0 v
  | _ => s.countDrop

/-- The shadow of an object under an open cut (R269, R275). -/
def State.shadow (s : State) (idx ts : Nat) : State :=
  let h := s.hd idx 0
  let tag := slice h 40 8
  let st := slice h 38 2
  if s.cutActive && !before ts s.cutTime && !(tag == s.cut && st != 0) then
    let s1 := s.setBlock idx 2 (blockBytes (hdSw h) / 4) fun i => s.word32 idx 0 i
    let s2 := s1.setHd idx 5 (putBits (s1.hd idx 5) 32 32 (slice (s.hd idx 1) 32 32))
    s2.setHd idx 0 (putBits (putBits h 40 8 s.cut) 38 2 1)
  else if s.cutActive && before ts s.cutTime && tag == s.cut && st == 1 then
    s.withDrone fun d => { d with snaplate := bump32 d.snaplate }
  else s

/-- A delivered event is integrated (R269). -/
def State.integrate (s : State) (e : Ev) : State :=
  let idx := idIndex e.dest
  let d := s.dir idx
  if dirSt d != 1 || dirGen d != e.dgen.toNat then s.countStale
  else
    let s := s.shadow idx e.ts.toNat
    let s :=
      if e.ret then s.retraction idx e
      else if hdKind (s.hd idx 0) = 2 then s.neuronEvent idx e
      else s.slotEvent idx e
    let h1 := s.hd idx 1
    if before (slice h1 32 32) e.ts.toNat then s.setHd idx 1 (putBits h1 32 32 e.ts.toNat) else s

/-! ### The pending store (R267, R268) -/

/-- The entries the pending store takes. -/
def pendingDepth : Nat := 16384

/-- Accept an event, marked late when its time has passed. -/
def State.acceptEvent (s : State) (e : Ev) : State :=
  let late := before e.ts.toNat s.now || !(e.ts.toNat == s.now || before s.now e.ts.toNat)
  s.withDrone fun d => { d with
    pending := d.pending ++ [⟨d.seq, late, e⟩], seq := d.seq + 1, received := bump32 d.received
    late := if late then bump32 d.late else d.late }

/-- An event is due. -/
def State.due (s : State) (p : PendingEv) : Bool := p.late || p.ev.ts.toNat == s.now || before p.ev.ts.toNat s.now

/-- Whether `p` is delivered ahead of `q` (both due): late ones first, then by time, then in acceptance order. -/
def dueFirst (p q : PendingEv) : Bool :=
  if p.late != q.late then p.late
  else if p.late then p.seq < q.seq
  else if p.ev.ts == q.ev.ts then p.seq < q.seq
  else before p.ev.ts.toNat q.ev.ts.toNat

/-- The next event to deliver. -/
def State.nextDue (s : State) : Option PendingEv :=
  s.drone.pending.foldl (fun b p => if s.due p then (match b with
    | none => some p
    | some q => if dueFirst p q then some p else b) else b) none

/-! ### What lies in the home slice (R262, R293)

The layouts of the spill area and of the overflow ring are not architected: what they hold moves with the slice. -/

/-- What the spill area and the ring of the own slice hold: the 64 entries in hardware lie there only while delivery is held. -/
def State.spilled (s : State) : Spill := ⟨if s.held then s.drone.pending else s.drone.pending.drop 64, s.drone.ring⟩

/-- What lies at a slice or a dump. -/
def State.spillAt (s : State) (a : Nat) : Option Spill := (s.spills.find? (·.1 == a)).map (·.2)

/-- Put what lies at a slice or a dump. -/
def State.setSpill (s : State) (a : Nat) (o : Option Spill) : State :=
  { s with spills := (match o with | some x => [(a, x)] | none => []) ++ s.spills.filter (·.1 != a) }

/-- The Drone takes up what a restored slice holds, when the restored registers say that delivery is held (R368, R369).
(DESIGN CHOICE: log entry 104.) -/
def State.takeSpill (s : State) : State :=
  match s.held, s.spillAt s.ownBase with
  | true, some x =>
    (s.withDrone fun d => { d with
      pending := x.pending, ring := x.ring, residual := [], seq := x.pending.foldl (fun n p => max n (p.seq + 1)) d.seq }).setSpill
        s.ownBase none
  | _, _ => s

/-! ### Creation, deletion and reads at the target (R278, R279, R282) -/

/-- The status word of `onew` and `odel`. -/
def statusWord (status gen : Nat) : Nat := status * 2 ^ 56 + gen

def cfgKind (c : Word) : Nat := c.bits 0 2
def cfgType (c : Word) : Nat := c.bits 2 6
def cfgSw (c : Word) : Nat := c.bits 8 5
def cfgNs (c : Word) : Nat := c.bits 13 6

/-- Write `n` zero bytes. -/
def State.zeros (s : State) (ga n : Nat) : State := (s.storeAt ga ((List.range n).map fun i => (i, 0))).1

def State.create (s : State) (idx off : Nat) (cfg : Word) : State × Nat :=
  let d := s.dir idx
  if dirSt d != 0 then (s, statusWord 1 (dirGen d))
  else
    let a := s.ownBase + off
    let s := s.zeros a (recordSize (cfgSw cfg) (cfgNs cfg))
    let h := (if s.cutActive then s.cut * 2 ^ 40 + 2 * 2 ^ 38 else 0) + 2 ^ 37 + cfgSw cfg * 2 ^ 31 + cfgNs cfg * 2 ^ 25 +
      cfgType cfg * 2 ^ 19 + cfgKind cfg * 2 ^ 17
    let s := s.poke a 8 h
    let s := s.poke (a + 8) 8 (s.now * 2 ^ 32)
    let s := s.poke (a + 16) 8 fpInf
    (s.poke (s.dirAddr idx) 8 (dirGen d * 2 ^ 56 + 2 ^ 54 + off), statusWord 0 (dirGen d))

def State.delete (s : State) (idx : Nat) : State × Nat :=
  let d := s.dir idx
  if dirSt d != 1 then (s, statusWord 2 (dirGen d))
  else
    let gen := (dirGen d + 1) % 256
    let running := dirQ d == 3
    let s := s.leaveQueue idx
    let s := s.poke (s.dirAddr idx) 8 (putBits (s.dir idx) 56 8 gen)
    let s :=
      if hdKind (s.hd idx 0) = 2 then s
      else s.fanOut idx fun e =>
        ⟨BitVec.ofNat 41 e.1, BitVec.ofNat 8 (slice e.1 48 8), BitVec.ofNat 6 (slice e.1 41 6), s.ownId idx, false,
          BitVec.ofNat 8 (dirGen d), BitVec.ofNat 32 s.now, [], true, BitVec.ofNat 8 gen⟩
    let s := if running then s else s.setQ idx 0
    (s.poke (s.dirAddr idx) 8 (putBits (s.dir idx) 54 2 (if running then 2 else 0)), statusWord 0 gen)

/-- What `esread` pushes for one object. -/
def State.readObject (s : State) (idx cut : Nat) (cur : Bool) : List Word :=
  let d := s.dir idx
  if dirSt d = 0 then [BitVec.ofNat 64 (dirGen d * 2 ^ 56 + idx * 2 ^ 32)]
  else
    let h := s.hd idx 0
    let c := if cur then s.cut else cut
    let st := slice h 38 2
    let tagged := slice h 40 8 == c
    let src := if !cur && tagged && st == 1 then 2 else if tagged && st == 2 then 3 else 1
    let last := if src = 2 then slice (s.hd idx 5) 32 32 else slice (s.hd idx 1) 32 32
    let sw := hdSw h
    let b := if src = 2 then 2 else 0
    let w (i : Nat) : Nat := if i < sw then s.word32 idx b i else 0
    BitVec.ofNat 64 (dirGen d * 2 ^ 56 + hdKind h * 2 ^ 54 + src * 2 ^ 52 + sw * 2 ^ 47 + idx * 2 ^ 32 + last) ::
      (List.range ((sw + 1) / 2)).map fun j => BitVec.ofNat 64 (w (2 * j) + w (2 * j + 1) * 2 ^ 32)

/-- Everything `esread` pushes. -/
def State.readObjects (s : State) (first count cut : Nat) (cur : Bool) : List Word :=
  (List.range (min count (4096 - first))).flatMap fun i => s.readObject (first + i) cut cur

/-- An `efan` at its start (R281). -/
def State.setFan (s : State) (idx off count : Nat) : State :=
  if dirSt (s.dir idx) = 0 then s
  else s.setHd idx 3 (putBits (putBits (s.hd idx 3) 0 24 off) 48 16 count)

/-- The handler of an object exits (R274). -/
def State.handlerExit (s : State) (idx : Nat) : State :=
  let d := s.dir idx
  let h := s.hd idx 0
  if dirSt d = 2 then (s.setQ idx 0) |> fun s => s.poke (s.dirAddr idx) 8 (putBits (s.dir idx) 54 2 0)
  else if hdKind h != 2 && bankGt (s.resid idx) (s.handler (hdType h)).threshold then s.join idx
  else if hdKind h = 2 && slice h 36 1 = 1 then (s.setHd idx 0 (putBits h 36 1 0)).join idx
  else s.setQ idx 0

end Sys2Proof.Machine
end

