-- ==== Sys2Proof/Machine/Image.lean ====
section
/-!
DEFINITION. The control registers of a context (R338) and the context image (R364 to R366).
-/

namespace Sys2Proof.Machine

open Sys2Proof

/-- The control registers held per context, by number (R338). -/
def Ctx.creg (c : Ctx) (i : Fin 11) : Nat → Word
  | 0x000 => c.status | 0x001 => c.cause | 0x002 => c.epc | 0x003 => c.faddr | 0x004 => c.finfo
  | 0x005 => BitVec.ofNat 64 i.val
  | 0x006 => BitVec.ofNat 64 (c.vn * 16 + c.sn)
  | 0x007 => c.frm | 0x008 => c.srcount | 0x009 => c.vstart | 0x00A => c.cgrp | 0x00B => c.cseq | 0x00C => c.ctimeo
  | 0x00D => c.hobj | 0x00E => c.task | 0x00F => c.qlast | 0x010 => c.dtime | 0x011 => c.hres | 0x012 => c.hscr
  | _ => 0

/-- The doublewords of a context image (R364); every byte that the table does not give is zero. -/
def Ctx.imageWord (c : Ctx) (i : Fin 11) (k : Nat) : Word :=
  if k < 0x13 then c.creg i k
  else if k < 0x3A then 0
  else if k = 0x3A then
    (match c.pending with
     | some p => BitVec.ofNat 64 (2 ^ 62 + p.eng.toNat * 2 ^ 61 + p.sub * 2 ^ 8 + p.cause)
     | none => 0)
  else if k = 0x3B then (match c.pending with | some p => p.faddr | none => 0)
  else if k = 0x3C then (match c.pending with | some p => p.finfo | none => 0)
  else if k = 0x3D then c.squash.zeroExtend 64
  else if k = 0x3E then
    BitVec.ofNat 64 ((List.range 4).foldl (fun a q => a + (nth c.stage q []).length * 32 ^ q) 0 + c.token.toNat * 2 ^ 24)
  else if k = 0x3F then c.pc
  else if k < 0x60 then (let n := k - 0x40; if n != 0 && n < 8 * c.sn then nth c.g n 0 else 0)
  else if k < 0x70 then nth c.f (k - 0x60) 0
  else if k = 0x70 then BitVec.allOnes 64
  else if k < 0x78 then nth c.k (k - 0x70) 0
  else if k < 0x80 then 0
  else if k < 0xC0 then (let n := k - 0x80; ((nth c.stage (n / 16) [])[n % 16]?).getD 0)
  else if k < 0x1C0 then
    (let n := k - 0xC0
     if n / 8 < 8 * c.vn then BitVec.ofNat 64 ((nth c.v (n / 8) 0).toNat / 2 ^ (64 * (n % 8))) else 0)
  else 0

/-- The image of a context is written (R365). -/
def State.writeImage (s : State) (a : Nat) (c : Ctx) (i : Fin 11) : State :=
  (List.range 512).foldl (fun s k => s.poke (a + 8 * k) 8 (c.imageWord i k).toNat) s

/-- The words of an image. -/
def State.imageAt (s : State) (a k : Nat) : Word := BitVec.ofNat 64 (s.peek (a + 8 * k) 8)

/-- The allotment of an image; whether it is one that R55 allows. -/
def State.imageSn (s : State) (a : Nat) : Nat := (s.imageAt a 6).bits 0 3
def State.imageVn (s : State) (a : Nat) : Nat := (s.imageAt a 6).bits 4 3
def State.imageOk (s : State) (a : Nat) : Bool := 1 ≤ s.imageSn a && s.imageSn a ≤ 4 && s.imageVn a ≤ 4

/-- The pending error of an image's words. -/
def pendingOf (w : Nat → Word) : Option Imprecise :=
  if w 0x3A = 0 then none
  else some ⟨0, (w 0x3A).bit 61, (w 0x3A).bits 0 8, (w 0x3A).bits 8 8, w 0x3B, w 0x3C⟩

/-- A context takes the fields of an image's words; its allotment is given. Reserved bits of the image are ignored (R4); FRM.RM
takes whatever the image holds, 5 to 7 included. (DEDUCED: log entry 57.) (DESIGN CHOICE: log entry 98.) -/
def Ctx.load (c : Ctx) (w : Nat → Word) (sn vn : Nat) : Ctx :=
  let m (k mask : Nat) : Word := w k &&& BitVec.ofNat 64 mask
  let count (q : Nat) : Nat := (w 0x3E).bits (5 * q) 5
  { c with
    sn := sn, vn := vn, token := (w 0x3E).bit 24, pc := w 0x3F
    status := m 0 0xE9F, cause := m 1 0xE00000000000FFFF, epc := w 2, faddr := w 3, finfo := w 4, frm := m 7 0x1F0F, srcount := w 8
    vstart := m 9 63, cgrp := m 0xA 0xE0FFFF01FFFFFFFF, cseq := m 0xB 0x1FFFF, ctimeo := m 0xC 0xFFFFFF
    hobj := m 0xD 0x1FF00000FFF, task := w 0xE, qlast := m 0xF 0xC000FFFFFFFFFFFF, dtime := w 0x10, hres := w 0x11, hscr := w 0x12
    g := .ofFn fun n => if n.val != 0 && n.val < 8 * sn then w (0x40 + n.val) else 0
    v := .ofFn fun n => if n.val < 8 * vn then
      BitVec.ofNat 512 ((List.range 8).foldl (fun x j => x + (w (0xC0 + 8 * n.val + j)).toNat * 2 ^ (64 * j)) 0) else 0
    f := .ofFn fun n => w (0x60 + n.val), k := .ofFn fun n => w (0x70 + n.val)
    stage := .ofFn fun q => (List.range (min 16 (count q.val))).map fun j => w (0x80 + 16 * q.val + j)
    squash := BitVec.ofNat 32 (w 0x3D).toNat, pending := pendingOf w }

/-- A context takes every field of an image (R366); GEN increments. (DESIGN CHOICE: log entry 97.) -/
def State.fillFrom (s : State) (i : Fin 11) (a : Nat) : State :=
  let c := (s.at i).load (s.imageAt a) (s.imageSn a) (s.imageVn a)
  (s.dropEarly i).putAt i { c with
    live := true, gen := c.gen + 1, gang := none, block := none, age := 0, line := none, vectoring := false, root := s.regs.ptb
    spec := [], hold := [], released := 0, arrived := s.units.pcyc, imprecise := [], landing := [] }

/-! ### Barriers: who has arrived (R201, R202, R206) -/

/-- BARCFG's field of a scope from `core` to `sys` (R201). -/
def State.barField (s : State) (scope : Nat) : Nat := s.regs.barcfg.bits (4 * (scope - 1)) 4

/-- A core's part in the barrier of a scope. -/
def State.barrier (s : State) (scope : Nat) : Barrier := nth s.bars scope .reset

def State.setBarrier (s : State) (scope : Nat) (f : Barrier → Barrier) : State :=
  { s with bars := upd s.bars scope (f (s.barrier scope)) }

/-- Arrivals that wait come into the running episode while it has room beside those it waits for (R202). -/
def Barrier.fill (b : Barrier) : Barrier :=
  let n := b.field - b.members.length - b.gaps.length
  { b with members := b.members ++ b.waiting.take n, waiting := b.waiting.drop n }

/-- No episode runs. -/
def Barrier.idle (b : Barrier) : Bool := b.members.isEmpty && b.gaps.isEmpty && b.waiting.isEmpty

/-- A context is blocked in the barrier of a scope. -/
def Ctx.atBarrier (c : Ctx) (scope : Nat) : Bool :=
  match c.live, c.block with
  | true, some ⟨.bar n _, _, _⟩ => n == scope
  | _, _ => false

/-- The contexts blocked in the running episode of a scope. -/
def State.arrivedAt (s : State) (scope : Nat) : List (Fin 11) :=
  allCtx.filter fun i => (s.barrier scope).members.any (·.1 == i) && (s.at i).atBarrier scope

/-- The values that contexts contribute. -/
def State.contributions (s : State) (l : List (Fin 11)) : List (RedOp × Word) :=
  l.filterMap fun i => match (s.at i).block with
    | some ⟨.bar _ (some (_, op, v)), _, _⟩ => some (op, v)
    | _ => none

/-- The core signals once the arrivals reach the field of the episode (R202). (DEDUCED: log entry 63.) -/
def State.checkBarrier (s : State) (scope : Nat) : State :=
  let b := s.barrier scope
  if !b.signalled && b.field != 0 && b.field ≤ b.members.length then
    let s := s.setBarrier scope fun b => { b with signalled := true }
    if scope = 1 then s else { s with sent := s.sent ++ [.barrier scope (s.contributions (s.arrivedAt scope))] }
  else s

/-- The episodes wait no more for an arrival of a context that is gone; arrivals that wait come in instead. (DEDUCED: log entry 63.) -/
def State.closeGaps (s : State) (i : Fin 11) : State :=
  ((List.range 9).filter fun n => (s.barrier n).gaps.contains i.val).foldl (fun s n =>
    (s.setBarrier n fun b => ({ b with gaps := b.gaps.erase i.val } : Barrier).fill).checkBarrier n) s

/-- The episodes that wait for a context's arrival wait for that of the image which it is saved in. -/
def State.moveGaps (s : State) (a b : Nat) : State :=
  { s with bars := s.bars.map fun x => { x with gaps := x.gaps.map fun g => if g = a then b else g } }

/-! ### The shares of the group table (R297, R298, R314) -/

def Ctx.inGroup (c : Ctx) : Bool := c.cgrp.bit 63
def Ctx.brk (c : Ctx) : Nat := c.cgrp.bits 61 2
def Ctx.gid (c : Ctx) : BitVec 12 := BitVec.ofNat 12 (c.cgrp.bits 44 12)
def Ctx.gscope (c : Ctx) : BitVec 4 := BitVec.ofNat 4 (c.cgrp.bits 40 4)

/-- The group table's entry of an identifier and scope. -/
def State.group (s : State) (gid : BitVec 12) (scope : BitVec 4) : Option Group :=
  s.groups.find? fun g => g.gid == gid && g.scope == scope

/-- The entries that some context still has a share of. -/
def inUse (l : List Group) : List Group := l.filter fun g => !g.members.isEmpty || g.absent != 0

/-- A context has no share of the table any more. -/
def State.forget (s : State) (i : Fin 11) : State :=
  { s with groups := inUse (s.groups.map fun g => { g with members := g.members.filter (· != i), stale := g.stale.filter (· != i.val) }) }

/-- The key of a saved context, by the address of its image, beside the numbers of the contexts. -/
def imageKey (a : Nat) : Nat := 11 + a

/-- A context is saved in an image: the time of its arrival is kept for it (R299); of one that leaves the core its share waits too. -/
def State.setAside (s : State) (i : Fin 11) (image : Nat) (leaves : Bool) : State :=
  { s with groups := s.groups.map fun g =>
      if g.members.contains i then
        { g with
          members := if leaves then g.members.filter (· != i) else g.members
          absent := if leaves then g.absent + 1 else g.absent
          since := g.since.filter (fun x => x.1 != image) ++ [(image, (s.at i).arrived)]
          stale := if g.stale.contains i.val then g.stale ++ [imageKey image] else g.stale }
      else g }

/-- The trap that a member has still to take (R313): that of the group before it was formed anew, or the group's own. -/
def Group.trapOf (g : Group) (key : Nat) : Option (Nat × Word) := if g.stale.contains key then g.last else g.broken

/-- BRK for a group that was broken while the context was away. -/
def Group.brk (g : Group) (key : Nat) : Nat :=
  match g.trapOf key with | none => 0 | some (cause, _) => if cause = 20 then 1 else 2

/-- The episode that a member is in, or comes to next (R299). -/
def Ctx.episode (c : Ctx) : BitVec 16 := BitVec.ofNat 16 (c.cseq.bits 0 16) - (if c.cseq.bit 16 then 1 else 0)

/-- A restored member takes up its share, in its core's entry or in one of its own; what the context was before it gives up its
own. Its wait is measured from its arrival where the core knows when that was, and else from the restore. (DEDUCED: log entry 59.)
(DESIGN CHOICE: log entry 97.) -/
def State.rejoin (s : State) (i : Fin 11) (image : Nat) : State :=
  let c := s.at i
  if !c.inGroup then s.forget i
  else
    match s.group c.gid c.gscope with
    | some g =>
      let brk := g.brk (imageKey image)
      let s := s.putAt i { c with
        cgrp := if brk = 0 then c.cgrp else c.cgrp.setBits 61 2 brk
        arrived := ((g.since.find? (·.1 == image)).map (·.2)).getD c.arrived }
      { s with groups := inUse (s.groups.map fun g => if g.gid == c.gid && g.scope == c.gscope then
          { g with
            members := if g.members.contains i then g.members else g.members ++ [i]
            absent := if g.members.contains i then g.absent else g.absent - 1
            since := g.since.filter (·.1 != image)
            stale := (g.stale.filter fun k => k != i.val && k != imageKey image) ++
              (if g.stale.contains (imageKey image) then [i.val] else []) }
          else { g with members := g.members.filter (· != i), stale := g.stale.filter (· != i.val) }) }
    | none =>
      let s := s.forget i
      { s with groups := s.groups ++ [⟨c.gid, c.gscope, [i], 0, [], none, none, [], c.episode, [], none, []⟩] }

/-- A context is restored from an image (R366): it takes the image's place in its group and in the barriers that wait for it. -/
def State.takeImage (s : State) (i : Fin 11) (a : Nat) : State :=
  ((((s.touchUnits (s.moved a) 4096).closeGaps i).fillFrom i a).rejoin i a).moveGaps (imageKey a) i.val

/-! ### Trace buffers (R396, R397) -/

/-- Records are written round a session's buffer. -/
def State.putRecords (s : State) (x : Session) : List (Word × Word) → State × Session
  | [] => (s, x)
  | r :: t =>
    let a := x.buf + 16 * (x.written % 2 ^ (x.log2 - 4))
    let s := (s.storeHome a (listed r.1.toNat 8)).storeHome (a + 8) (listed r.2.toNat 8)
    s.putRecords { x with written := x.written + 1 } t

/-- Every session whose staging buffer is full writes it out: 16 records of 16 bytes. (DEDUCED: log entry 76.) -/
def State.flushTrace (s : State) : State :=
  if s.dbg.sessions.all (·.staged.length < 16) then s
  else
    let r := s.dbg.sessions.foldl (fun (a : State × List Session) x =>
      if x.staged.length < 16 then (a.1, a.2 ++ [x])
      else let p := a.1.putRecords x x.staged; (p.1, a.2 ++ [{ p.2 with staged := [] }])) (s, [])
    { r.1 with dbg := { r.1.dbg with sessions := r.2 } }

/-- The sessions of a context's incarnation end with a record of a kind: 13 END, 14 TRUNC. -/
def State.endTrace (s : State) (i : Fin 11) (kind : Nat) : State :=
  if s.dbg.sessions.isEmpty then s
  else
    let mine (x : Session) : Bool := x.of s.lcore i (s.at i).gen
    let t := (s.dbg.sessions.filter mine).foldl (fun s x =>
      (s.putRecords x (x.staged ++ [s.record i kind (BitVec.ofNat 64 (x.written + x.staged.length))])).1) s
    { t with dbg := { t.dbg with sessions := s.dbg.sessions.filter fun x => !mine x } }

end Sys2Proof.Machine
end

