-- ==== Sys2Proof/Machine/Pool.lean ====
section
/-!
DEFINITION. The register pool (R55 to R57): what is free, how a context begins (R66, R322, R274), how its granules are
released (R67), and the grants of waiting requests.
-/

namespace Sys2Proof.Machine

open Sys2Proof

/-- Granules that no context holds (R56). -/
def State.sfree (s : State) : Nat :=
  Config.scalarGranules - (allCtx.filter fun i => (s.at i).live).foldl (fun n i => n + (s.at i).sn) 0
def State.vfree (s : State) : Nat :=
  Config.vectorGranules - (allCtx.filter fun i => (s.at i).live).foldl (fun n i => n + (s.at i).vn) 0

/-- The helpers, in ascending order. -/
def helpers : List (Fin 11) := [1, 2, 3, 4, 5, 6, 7, 8, 9, 10]

/-- The lowest-numbered free helper. -/
def State.lowestFree (s : State) : Option (Fin 11) := helpers.find? fun i => !(s.at i).live

/-- The granules are free. -/
def State.fits (s : State) (sn vn : Nat) : Bool := sn ≤ s.sfree && vn ≤ s.vfree

/-- The granules are free for a context that gives up its own first (R366). -/
def State.fitsFor (s : State) (k : Fin 11) (sn vn : Nat) : Bool :=
  let own := if (s.at k).live then ((s.at k).sn, (s.at k).vn) else (0, 0)
  sn ≤ s.sfree + own.1 && vn ≤ s.vfree + own.2

/-- A helper of a `start`: the named one when it is free, or the lowest free one. -/
def State.helperFor (s : State) (k : Option Nat) : Option (Fin 11) :=
  match k with
  | none => s.lowestFree
  | some n => helpers.find? fun i => i.val == n && !(s.at i).live

/-- A context begins (R66): its registers read zero, the rest of its state as each chapter gives for a started context; CAUSE,
EPC, FADDR, FINFO, DTIME, HRES and HSCR, of which no chapter says it, keep what they held. (DEDUCED: log entry 81.)
(DESIGN CHOICE: log entry 91.) -/
def State.begin (s : State) (k : Fin 11) (sn vn : Nat) (pri : BitVec 2) (pl : Bool) (pc : Word) : State :=
  let c := s.at k
  (s.dropEarly k).putAt k { c with
    live := true, gen := c.gen + 1, pri := pri, sn := sn, vn := vn, gang := none, block := none, token := false, age := 0
    pc := pc, line := none, vectoring := false, root := s.regs.ptb
    g := .replicate 32 0, v := .replicate 32 0, f := .replicate 16 0, k := .replicate 8 0
    status := if pl then 1 else 0, frm := 0, srcount := BitVec.ofNat 64 (k.val * 2 ^ 48), vstart := 0, cgrp := 0, cseq := 0
    hobj := 0, task := 0, qlast := 0, stage := .replicate 4 [], spec := [], hold := [], released := 0, squash := 0
    arrived := 0, imprecise := [], pending := none, landing := [] }

/-- Change a context in place. -/
def State.modifyAt (s : State) (i : Fin 11) (f : Ctx → Ctx) : State := s.putAt i (f (s.at i))

/-- A blocked context's instruction completes with a value for its destination. -/
def State.completeG (s : State) (i : Fin 11) (d : Field) (v : Word) : State :=
  let srcs := match (s.at i).block with
    | some b => b.sources
    | none => []
  s.as i fun s => (s.finish srcs (.done (s.writeG d v))).settled i

/-- A blocked context's instruction completes. -/
def State.completeAt (s : State) (i : Fin 11) : State :=
  let srcs := match (s.at i).block with
    | some b => b.sources
    | none => []
  s.as i fun s => (s.finish srcs (.done s)).settled i

/-- An allotment is raised; the new registers read zero. -/
def Ctx.enlarge (c : Ctx) (sn vn : Nat) : Ctx :=
  { c with
    sn := sn, vn := vn
    g := .ofFn fun i => if 8 * c.sn ≤ i.val && i.val < 8 * sn then 0 else c.g[i]
    v := .ofFn fun i => if 8 * c.vn ≤ i.val && i.val < 8 * vn then 0 else c.v[i] }

/-! ### Grants (R57) -/

/-- A context waits for granules. -/
def Wait.forPool : Wait → Bool
  | .grow _ _ _ => true
  | .start .. => true
  | .restore .. => true
  | _ => false

/-- Of the blocked contexts that `p` names, the one that blocked first. -/
def State.firstBlocked (s : State) (p : Wait → Bool) : Option (Fin 11 × Block) :=
  allCtx.foldl (fun best i =>
    match (s.at i).live, (s.at i).block with
    | true, some b =>
      if p b.wait then
        (match best with
         | some (_, q) => if b.seq < q.seq then some (i, b) else best
         | none => some (i, b))
      else best
    | _, _ => best) none

/-- A `grow` or `start` is waiting. (DEDUCED: log entry 77.) -/
def State.requestWaiting (s : State) : Bool := (s.firstBlocked Wait.forPool).isSome

/-- A helper begins for a `start` of context 0's. -/
def State.startHelper (s : State) (k : Fin 11) (n v : Nat) (pri : BitVec 2) (pc arg : Word) : State :=
  (s.begin k n v pri s.ctx.pl pc).modifyAt k fun c => { c with g := upd c.g 1 arg }

/-- Grant the request that has waited longest, if it fits. -/
def State.grantFirst (s : State) : Option State :=
  match s.firstBlocked Wait.forPool with
  | none => none
  | some (i, b) =>
    match b.wait with
    | .grow d sn vn =>
      if s.fits (sn - (s.at i).sn) (vn - (s.at i).vn) then
        some ((s.modifyAt i (·.enlarge sn vn)).completeG i d 1)
      else none
    | .start d pc arg k n v pri =>
      (match s.helperFor k with
       | some h =>
         if s.fits n v then some ((s.as i fun s => s.startHelper h n v pri pc arg).completeG i d (BitVec.ofNat 64 h.val))
         else none
       | none => none)
    | .restore d k image =>
      (match ctxOf k with
       | some h =>
         if (h == i || !(s.at h).live) && s.fitsFor h (s.imageSn image) (s.imageVn image) then
           some (if h == i then s.takeImage h image else (s.takeImage h image).completeG i d 1)
         else none
       | none => none)
    | _ => none

/-- Grant as many as fit, in the order they blocked. -/
def State.grants : Nat → State → State
  | 0, s => s
  | n + 1, s => match s.grantFirst with
    | none => s
    | some t => t.grants n

/-- The grants that a release, or a request withdrawn, brings. -/
def State.grant (s : State) : State := s.grants 12

/-! ### The end of a context (R67, R68) -/

/-- Every context that waits in `cwait` on this incarnation goes on. -/
def State.releaseWaiters (s : State) (k : Fin 11) (gen : BitVec 8) : State :=
  allCtx.foldl (fun s i =>
    match (s.at i).block with
    | some ⟨.cwait d n g, _, _⟩ => if n == k.val && g == gen then s.completeG i d 1 else s
    | _ => s) s

/-- A helper becomes free: its granules return to the pool, its gang dissolves without a count, its waiters go on. -/
def State.free (s : State) (k : Fin 11) : State :=
  let c := s.at k
  let s := s.putAt k { c with
    live := false, sn := 0, vn := 0, gang := none, block := none, token := false, stage := .replicate 4 [], line := none
    task := 0, qlast := 0, hobj := 0, spec := [], hold := [], released := 0, imprecise := [], pending := none
    landing := [] }
  ((((s.dropSlots k).forget k).closeGaps k).releaseWaiters k c.gen).grant

end Sys2Proof.Machine
end

