-- ==== Sys2Proof/Machine/Queues.lean ====
section
/-!
DEFINITION. Semaphores and their waiters (R38, R254, R255), the four engine queues: acceptance, start and completion (R37,
R216 to R218, R230, R237, R245, R246, R253, R277), the return queues (R239), and the Bellows (R234, R235).
-/

namespace Sys2Proof.Machine

open Sys2Proof

/-! ### Semaphores without their waiters -/

def State.sem (s : State) (n : Nat) : Nat := (nth s.sems n 0).toNat

def State.putSem (s : State) (n v : Nat) : State := { s with sems := upd s.sems n (BitVec.ofNat 16 v) }

/-- The waits on a semaphore are to be tested once every update of the cycle has reached it (R38). -/
def State.markDue (s : State) (n : Nat) : State := { s with dueSems := if s.dueSems.contains n then s.dueSems else setIn s.dueSems n }

/-- Add to a semaphore; it stops at 65,535 and SEMSTAT says so (R254). -/
def State.addSem (s : State) (n k : Nat) : State :=
  let v := s.sem n + k
  if v ≤ 65535 then s.putSem n v
  else
    let s := s.putSem n 65535
    if s.regs.semstat.bit 8 then s
    else { s with regs := { s.regs with semstat := BitVec.ofNat 64 (256 + n) } }

/-- A command's wait is met (R37): no update of its semaphore is still to be followed by the tests in their order (R38). -/
def State.met (s : State) (y : Sync) : Bool := !y.we || (!s.dueSems.contains y.ws.toNat && y.wt.toNat ≤ s.sem y.ws.toNat)

/-- It subtracts its threshold. -/
def State.payFor (s : State) (y : Sync) : State := if y.we then s.putSem y.ws.toNat (s.sem y.ws.toNat - y.wt.toNat) else s

/-- Change the engines, or the matrix unit. -/
def State.withEng (s : State) (f : Engines → Engines) : State := { s with eng := f s.eng }
def State.withMx (s : State) (f : Matrix → Matrix) : State := { s with mx := f s.mx }

/-! ### Return queues (R239) -/

/-- Push an entry to return queue 4 to 7, if it has room. -/
def State.pushRet (s : State) (q : Nat) (w : Word) : Option State :=
  let l := nth s.eng.ret (q - 4) []
  if l.length < Config.queueDepth q then some (s.withEng fun e => { e with ret := upd e.ret (q - 4) (l ++ [w]) }) else none

/-! ### Imprecise faults of commands (R162) -/

/-- The fault of an engine command, for the context that issued it. -/
def State.engineFault (s : State) (owner : Option (Fin 11 × BitVec 8)) (id : Nat) (seq : BitVec 16) (op : BitVec 8)
    (cause sub : Nat) (faddr : Word) (done : Nat) : State :=
  match owner with
  | none => s
  | some (i, gen) =>
    s.addFault i gen ⟨id, true, cause, sub, faddr, BitVec.ofNat 64 (seq.toNat + op.toNat * 2 ^ 16 + done % 2 ^ 32 * 2 ^ 32)⟩

/-! ### Starts (R37) -/

/-- The copy or the gather queue. -/
def Engines.queueOf (e : Engines) (gather : Bool) : List EngCmd := if gather then e.gather else e.copy

def State.setEngQueue (s : State) (gather : Bool) (l : List EngCmd) : State :=
  s.withEng fun e => if gather then { e with gather := l } else { e with copy := l }

/-- Some buffer of a list is held by another core. -/
def State.lacks (s : State) (bufs : List Nat) : Bool := bufs.any fun b => !s.holdsBuf b

/-- A gather command that starts has read no sector yet (R249). -/
def State.newRun (s : State) (gather : Bool) : State := if gather then s.withEng fun e => { e with shared := [] } else s

/-- The head of the copy or gather queue starts, if it may (R237, R245, R252). (DEDUCED: log entry 71.) -/
def State.startEngine (s : State) (gather : Bool) : Option State :=
  match s.eng.queueOf gather with
  | [] => none
  | c :: t =>
    if c.started || !c.after.isEmpty || !s.met c.y then none
    else
      let go (s : State) (what : EngOp) : State :=
        let bad := s.lacks what.buffers
        ((s.payFor c.y).newRun gather).setEngQueue gather ({ c with
          what := what, started := true, failed := bad, pos := what.skip, done := what.skip, tries := 0
          fault := if bad then some ⟨16, 0, some 0, 0, none⟩ else none } :: t)
      match c.what with
      | .pull dst c0 c1 none =>
        (match s.eng.kicks with
         | [] => none
         | n :: ns => some (go (s.withEng fun e => { e with kicks := ns }) (.pull dst c0 c1 (some n))))
      | w => some (go s w)

/-- The matrix queue: the commands started, the first that has not, and the rest. -/
def Matrix.split (m : Matrix) : List MxCmd × Option (MxCmd × List MxCmd) :=
  let before := m.queue.takeWhile (·.started)
  (before, match m.queue.dropWhile (·.started) with
    | [] => none
    | c :: t => some (c, t))

/-- The first unstarted matrix command could start, the Bellows apart (R216, R235: ready). -/
def State.mxReady (s : State) : Option (List MxCmd × MxCmd × List MxCmd) :=
  match s.mx.split with
  | (before, some (c, t)) => if s.met c.y && s.mxFree before c then some (before, c, t) else none
  | _ => none

/-- The column cycles of an `mma` (R221). -/
def MxOp.columns : MxOp → Nat
  | .mma op m _ => mmaN m.nc / (if 0xAA ≤ op then 2 else 1)
  | .stream op m .. => mmaN m.nc / (if 0xAA ≤ op then 2 else 1)
  | _ => 0

/-- A command starts: an `mma` at a time of the core clock, with so many cycles added. One that fails streams nothing, and does not
make its unit active. (DEDUCED: log entry 66.) -/
def State.beginMx (s : State) (before : List MxCmd) (c : MxCmd) (t : List MxCmd) (start added : Nat) : State :=
  let streams := c.what.streams
  let bad := s.lacks (s.mxBuffers c)
  let total := s.regs.belladd.bits 0 32 + added
  let s := (s.payFor c.y).withMx fun m => { m with
    queue := before ++ { c with started := true, failed := bad, added := added } :: t
    active := m.active || (streams && !bad)
    streamEnd := if streams && !bad then start + 1250 * c.what.columns else m.streamEnd }
  { s with regs := { s.regs with belladd := BitVec.ofNat 64 (if 2 ^ 32 - 1 < total then 2 ^ 32 - 1 else total) } }

/-- The time of the cluster's own clock at a nominal cycle, as long as its rate stays (R3, R208). -/
def State.coreAt (s : State) (cycle : Nat) : Nat :=
  s.units.coreTime + cycle * s.units.clkrate.toNat - s.units.pcyc.toNat * s.units.clkrate.toNat

/-- The first nominal cycle that begins when the `mma` that started last has streamed its last column. -/
def State.streamCycle (s : State) : Nat :=
  let r := s.units.clkrate.toNat
  (s.mx.streamEnd + s.units.pcyc.toNat * r - s.units.coreTime + (r - 1)) / r

/-- An `mma` was ready by the last column of the one before it, which the active unit has streamed: it starts in the next cycle,
with nothing added (R235). -/
def State.gapless (s : State) (c : MxCmd) : Bool :=
  s.mx.active && s.streamCycle ≤ s.units.pcyc.toNat && match c.ready with
    | some r => r.toNat < s.streamCycle
    | none => false

/-- The first unstarted command starts, when it is no `mma`, or follows the one before it without a gap. -/
def State.startMatrix (s : State) : Option State :=
  match s.mxReady with
  | none => none
  | some (before, c, t) =>
    if !c.what.streams then some (s.beginMx before c t 0 0)
    else if s.gapless c then some (s.beginMx before c t s.mx.streamEnd 0)
    else none

/-- A message of a unit: its number. -/
def State.post (s : State) (owner : Option (Fin 11 × BitVec 8)) (ga : Nat) (msg : Message) : State × Nat :=
  let c : Fin 11 := (owner.map (·.1)).getD 0
  let g : BitVec 8 := (owner.map (·.2)).getD 0
  ({ s with seqNo := s.seqNo + 1, net := s.net ++ [⟨s.seqNo, c, g, ga, 0, 0, msg, false, false, 0, [], .sent, 0⟩] }, s.seqNo)

/-- What an event-queue command does at its start (R278 to R282). -/
def State.runEv (s : State) (c : EvCmd) : State × Option Nat :=
  let ask (target : Word) (m : Message) : State × Option Nat :=
    let r := s.post c.owner (coreHome target.toNat) m
    (r.1, some r.2)
  match c.what with
  | .onew target idx off cfg => ask target (.onew target idx off cfg)
  | .odel target idx => ask target (.odel target idx)
  | .esend target e => ask target (.event target e)
  | .efan idx off count => (s.setFan idx.toNat off count, none)
  | .esread target first count cut cur => ask target (.esread target first count cut cur)

/-- The head of the event queue starts. -/
def State.startEvent (s : State) : Option State :=
  match s.eng.event with
  | [] => none
  | c :: t =>
    if c.started || !c.after.isEmpty || !s.met c.y then none
    else
      let r := (s.payFor c.y).runEv c
      some (r.1.withEng fun e => { e with event := { c with started := true, req := r.2 } :: t })

/-! ### The order of tests of one semaphore (R38, R254) -/

/-- Start a queue head that waits on a semaphore that `p` names, if it passes. -/
def State.tryHead (s : State) (p : Nat → Bool) (y : Option Sync) (start : State → Option State) : State :=
  match y with
  | some y => if y.we && p y.ws.toNat then (start s).getD s else s
  | none => s

/-- The queue heads that wait on semaphores that `p` names are tested: copy, gather, matrix, event. -/
def State.testHeads (s : State) (p : Nat → Bool) : State :=
  let s :=
    if s.dbg.clusterHalted then s
    else
      let s := s.tryHead p (s.eng.copy.head?.map (·.y)) (·.startEngine false)
      let s := s.tryHead p (s.eng.gather.head?.map (·.y)) (·.startEngine true)
      s.tryHead p (s.mx.split.2.map (·.1.y)) State.startMatrix
  s.tryHead p (s.eng.event.head?.map (·.y)) State.startEvent

/-- In each cycle every head that waits on a semaphore is tested, in that order (R38). -/
def State.testWaiting (s : State) : State := s.testHeads fun _ => true

/-- The commands that own an accumulator, oldest first (R217). -/
def State.owners (s : State) (k : Nat) : List MxCmd := s.mx.queue.filter fun c => c.what.acc == some k

/-- ACCBUSY (R217). -/
def accBusy (k op : Nat) (c : MxCmd) : TrapInfo :=
  ⟨14, 0, none, BitVec.ofNat 64 (k + op * 2 ^ 8 + c.seq.toNat * 2 ^ 16), none⟩

/-- A waiting context's test of semaphore `n` passes. -/
def State.passes (s : State) (n : Nat) : Wait → Bool
  | .sem k m => k == n && m ≤ s.sem n
  | .semMrd w => w.y.ws.toNat == n && w.y.wt.toNat ≤ s.sem n
  | _ => false

/-- The indivisible step of an `mrd` of the issuing context (R227): ACCBUSY, or the credit taken and the read-out. -/
def State.mrdStep (s : State) (w : MrdWait) : Except TrapInfo State :=
  match s.owners w.m.acc.toNat with
  | c :: _ => .error (accBusy w.m.acc.toNat 0xAD c)
  | [] =>
    let r := s.runMrd w.m
    let t := ((s.payFor w.y).raiseAcc w.m.acc.toNat r.2).writeV w.m.d r.1
    .ok (t.put { t.ctx with landing := if w.m.d.toNat < 32 then setIn t.ctx.landing w.m.d.toNat else t.ctx.landing })

/-- The same for a waiting context. (DEDUCED: log entry 66.) -/
def State.mrdFor (s : State) (i : Fin 11) (w : MrdWait) : Except TrapInfo State :=
  let t : State := { s with cur := i }
  (t.mrdStep w).map fun t => { t with cur := s.cur }

/-- An addition reaches a semaphore. -/
def State.semAdd (s : State) (n k : Nat) : State := (s.addSem n k).markDue n

/-- The waiters of a semaphore in the order they blocked: each that passes takes its threshold before the next is tested
(R254). The signal of an `mrd` is an addition of its own. -/
def State.serveWaiters : Nat → Nat → State → State
  | 0, _, s => s
  | f + 1, n, s =>
    match s.firstBlocked (s.passes n) with
    | none => s
    | some (i, b) =>
      match b.wait with
      | .sem _ m => State.serveWaiters f n ((s.putSem n (s.sem n - m)).completeAt i)
      | .semMrd w =>
        (match s.mrdFor i w with
         | .error e => State.serveWaiters f n (s.as i fun s => s.raise e)
         | .ok t =>
           let t := t.completeAt i
           State.serveWaiters f n (if w.y.se then t.semAdd w.y.ss.toNat w.y.sk.toNat else t))
      | _ => s

/-- The tests of one semaphore, after every update of the cycle: the queue heads, then the waiters (R38, R254). -/
def State.serve (s : State) (n : Nat) : State :=
  let s : State := { s with dueSems := setOut s.dueSems n }
  (s.testHeads (· == n)).serveWaiters 11 n

/-- The tests of every semaphore updated in the cycle. -/
def State.serveDue (s : State) : State := s.dueSems.foldl (fun s n => s.serve n) s

/-- A command's signal (R37). -/
def State.signal (s : State) (y : Sync) : State := if y.se then s.semAdd y.ss.toNat y.sk.toNat else s

/-! ### Acceptance -/

/-- The queues' numbers: 0 copy, 1 gather, 2 matrix, 3 event. -/
def State.queueLength (s : State) (q : Nat) : Nat :=
  if q = 0 then s.eng.copy.length else if q = 1 then s.eng.gather.length
  else if q = 2 then s.mx.queue.length else s.eng.event.length

/-- Room for one more command. -/
def State.queueRoom (s : State) (q : Nat) : Bool := s.queueLength q < Config.stageDepth

/-- What a command that is accepted now must wait for (R253). -/
def State.joined (s : State) (q : Nat) : List Nat := nth s.eng.joins q []

/-- The issuing context and its incarnation. -/
def State.owner (s : State) : Fin 11 × BitVec 8 := (s.cur, s.ctx.gen)

/-- The copy or gather queue accepts a command (R237). -/
def State.acceptEng (s : State) (gather : Bool) (op : Nat) (what : EngOp) (y : Sync) (rpt : Bool) : State :=
  let seq := BitVec.ofNat 16 s.regs.engseq.toNat
  let c : EngCmd := ⟨s.seqNo, seq, BitVec.ofNat 8 op, what, y, rpt, some s.owner, s.ctx.root, s.ctx.pl, false, false, 0, 0,
    none, [[], [], []], 0, false, none, 0, s.joined (if gather then 1 else 0)⟩
  let s := s.setEngQueue gather (s.eng.queueOf gather ++ [c])
  { s with seqNo := s.seqNo + 1, regs := { s.regs with engseq := (seq + 1).zeroExtend 64 } }

/-- The matrix queue accepts a command (R216, R217). -/
def State.acceptMx (s : State) (op : Nat) (what : MxOp) (y : Sync) (rpt : Bool) (owner : Option (Fin 11 × BitVec 8))
    (note : Option (BitVec 29 × BitVec 8)) : State :=
  let seq := BitVec.ofNat 16 s.regs.mseq.toNat
  let c : MxCmd := ⟨s.seqNo, seq, BitVec.ofNat 8 op, what, y, rpt, owner, note, false, none, false, 0, none, s.joined 2⟩
  let s := s.withMx fun m => { m with queue := m.queue ++ [c] }
  { s with seqNo := s.seqNo + 1, regs := { s.regs with mseq := (seq + 1).zeroExtend 64 } }

/-- The event queue accepts a command (R277). -/
def State.acceptEv (s : State) (op : Nat) (what : EvOp) (y : Sync) (rpt : Bool) : State :=
  let seq := BitVec.ofNat 16 s.regs.evseq.toNat
  let c : EvCmd := ⟨s.seqNo, seq, BitVec.ofNat 8 op, what, y, rpt, some s.owner, false, none, [], none, s.joined 3⟩
  let s := s.withEng fun e => { e with event := e.event ++ [c] }
  { s with seqNo := s.seqNo + 1, regs := { s.regs with evseq := (seq + 1).zeroExtend 64 } }

/-- `qfence` (R253): the unfinished commands of the masked queues come before every later one there. -/
def State.joinQueues (s : State) (mask : Nat) : State :=
  let ids := (if mask.testBit 0 then s.eng.copy.map (·.id) else []) ++ (if mask.testBit 1 then s.eng.gather.map (·.id) else []) ++
    (if mask.testBit 2 then s.mx.queue.map (·.id) else []) ++ (if mask.testBit 3 then s.eng.event.map (·.id) else [])
  let joins : Vector (List Nat) 4 := .ofFn fun q =>
    if mask.testBit q.val then (s.eng.joins[q] ++ ids).eraseDups else s.eng.joins[q]
  s.withEng fun e => { e with joins := joins }

/-- A command is gone: nothing waits for it any more. -/
def State.dropId (s : State) (id : Nat) : State :=
  let s := s.withEng fun e => { e with
    copy := e.copy.map fun c => { c with after := c.after.filter (· != id) }
    gather := e.gather.map fun c => { c with after := c.after.filter (· != id) }
    event := e.event.map fun c => { c with after := c.after.filter (· != id) }
    joins := e.joins.map fun l => l.filter (· != id) }
  s.withMx fun m => { m with queue := m.queue.map fun c => { c with after := c.after.filter (· != id) } }

/-! ### Completion of copy and gather commands (R237, R245, R246, R249, R252) -/

def EngCmd.via (c : EngCmd) : Via := ⟨c.root, c.pl, c.op.toNat⟩

/-- The back-off of an element that its home refused has not ended. -/
def State.backsOff (s : State) (c : EngCmd) : Bool := c.tries != 0 && !Config.backOffEnds s.tick

/-- What an element's refusal comes to: RNR is tried again until retry number LIMIT (R164); the fault that stops the command, and the
retries so far. (DESIGN CHOICE: log entry 105.) -/
def State.engStopped (s : State) (c : EngCmd) (e : TrapInfo) : Option TrapInfo × Nat :=
  if e.cause = 18 && c.tries < s.regs.rnrlim.bits 0 8 then (none, c.tries + 1) else (some e, 0)

/-- A word goes to q5, or the engine holds it until there is room (R239). -/
def State.pushGathered (s : State) (c : EngCmd) (t : List EngCmd) (x : Word) : State :=
  match s.pushRet 5 x with
  | none => s.setEngQueue true ({ c with word := some x } :: t)
  | some u => u.setEngQueue true ({ c with word := none, pos := c.pos + 1, done := c.done + 1 } :: t)

/-- A command has nothing left to do to its elements. -/
def EngCmd.finished (c : EngCmd) : Bool :=
  match c.what with
  | .gathQ .. => c.failed || c.fault.isSome || c.what.size ≤ c.done
  | _ => c.ran || c.failed

/-- It is `gath.q`, which pushes its elements. -/
def EngOp.pushes : EngOp → Bool
  | .gathQ .. => true
  | _ => false

/-- A running command is inside a 64-byte beat: its next element belongs to the beat that its last ones form (R392, R408). -/
def State.midBeat (s : State) (c : EngCmd) : Bool :=
  c.started && !c.finished && c.beatBits != 0 && (s.countElems c.via c 1).2.isEmpty

/-- The engine stands: its cluster is halted, and it has come to the end of a beat (R392). -/
def State.frozen (s : State) (c : EngCmd) : Bool := s.dbg.clusterHalted && !s.midBeat c

/-- A running `gath.q` pushes its next element to q5, if there is room. -/
def State.pumpGather (s : State) : State :=
  match s.eng.gather with
  | c :: t =>
    (match c.what with
     | .gathQ src idx w _ =>
       if !c.started || c.finished || s.frozen c then s
       else
         match c.word with
         | some x => s.pushGathered c t x
         | none =>
           if s.backsOff c then s
           else
             match s.gathered c.via src idx w c.done with
             | .error e =>
               let r := s.engStopped c e
               s.setEngQueue true ({ c with tries := r.2, fault := r.1 } :: t)
             | .ok (u, x) =>
               let b := s.countElems c.via c 1
               (u.countBeats b.2).pushGathered { b.1 with tries := 0 } t (BitVec.ofNat 64 x)
     | _ => s)
  | [] => s

/-- The head of the queue makes its next accesses, up to the first that faults; other agents may move before the ones after them. A
page frozen for migration refuses an access, which is tried again, or fails in the end (R164, R362). (DEDUCED: log entry 71.)
(DEDUCED: log entry 72.) -/
def State.runEngine (s : State) (gather : Bool) : State :=
  match s.eng.queueOf gather with
  | c :: t =>
    if !c.started || c.finished || s.backsOff c || s.frozen c then s
    else
      match c.what with
      | .gathQ .. => s
      | w =>
        let n := if s.dbg.clusterHalted then 1 else Config.burst s.tick + 1
        let r := s.engVisit c.via w (min (w.size - c.pos) n) c.pos c.done
        let c' := if r.pos = c.pos then c else { c with tries := 0 }
        let stop := match r.fault with
          | some e => s.engStopped c' e
          | none => (none, 0)
        let b := s.countElems c.via c' (r.pos - c.pos)
        (r.state.countBeats b.2).setEngQueue gather
          ({ b.1 with ran := w.size ≤ r.pos || stop.1.isSome, pos := r.pos, done := r.done, fault := stop.1, tries := stop.2 } :: t)
  | [] => s

/-- The completion record of a copy or gather command (R246). -/
def EngCmd.record (c : EngCmd) : Word :=
  BitVec.ofNat 64 (c.seq.toNat * 2 ^ 48 + c.op.toNat * 2 ^ 40 + (match c.fault with
    | some e => 2 ^ 39 + recordCause e.cause * 2 ^ 35
    | none => 0) + c.done % 2 ^ 32)

/-- The acknowledgement of a `pull` without a fault (R252). -/
def State.pullAck (s : State) (c : EngCmd) : State :=
  match c.what, c.fault with
  | .pull _ _ _ (some n), none =>
    if n.ack then
      (if n.sender == s.lcore then s.semAdd n.sem.toNat 1 else { s with sent := s.sent ++ [.semaphore n.sender n.sem 1] })
    else s
  | _, _ => s

/-- The effects of a completion, in order: PACK, the fault, the signal, the acknowledgement. -/
def State.endEngine (s : State) (c : EngCmd) : State :=
  let s := s.dropId c.id
  let s := match c.what with
    | .pack .. => { s with regs := { s.regs with packKept := BitVec.ofNat 64 ((s.regs.packKept.toNat + c.done) % 2 ^ 32) } }
    | _ => s
  let s := s.countLast c
  let s := match c.fault with
    | some e => s.engineFault c.owner c.id c.seq c.op e.cause e.sub (e.faddr.getD 0) c.done
    | none => s
  (s.signal c.y).pullAck c

/-- The head of the queue completes, once its accesses are made and its record, if any, is pushed. -/
def State.completeEngine (s : State) (gather : Bool) : Option State :=
  match s.eng.queueOf gather with
  | c :: t =>
    if !c.started || !c.finished then none
    else
      (if c.rpt then s.pushRet 4 c.record else some s).map fun s => (s.setEngQueue gather t).endEngine c
  | [] => none

/-! ### Completion of matrix commands (R216, R218, R230, R231) -/

/-- A started command with this number, with those before it and after it. -/
def splitAt (id : Nat) : List MxCmd → List MxCmd → Option (List MxCmd × MxCmd × List MxCmd)
  | _, [] => none
  | seen, c :: t => if c.id = id then some (seen, c, t) else splitAt id (seen ++ [c]) t

/-- A command makes its writes; an `mma` after every earlier one. (DEDUCED: log entry 72.) -/
def State.runMatrix (s : State) (id : Nat) : State :=
  match splitAt id [] s.mx.queue with
  | none => s
  | some (before, c, t) =>
    if !c.started || c.ran.isSome || (c.what.streams && before.any (·.what.streams)) then s
    else
      let r := if c.failed then (s, 0) else s.runMx c.op.toNat c.what
      let u := if c.failed then s else r.1.countMx c.what
      u.withMx fun m => { m with queue := before ++ { c with ran := some r.2 } :: t }

/-- The status record (R230). -/
def MxCmd.record (c : MxCmd) : Word :=
  BitVec.ofNat 64 (c.seq.toNat * 2 ^ 48 + c.op.toNat * 2 ^ 40 + c.failed.toNat * 2 ^ 39 + (c.what.acc.getD 0) * 2 ^ 36 +
    c.ran.getD 0 * 2 ^ 32 + (if 2 ^ 32 ≤ c.added then 2 ^ 32 - 1 else c.added))

/-- The note to the sender of a remote command (R231). -/
def State.sendNote (s : State) (n : Option (BitVec 29 × BitVec 8)) : State :=
  match n with
  | none => s
  | some (core, sm) =>
    if core == s.lcore then s.semAdd sm.toNat 1 else { s with sent := s.sent ++ [.semaphore core sm 1] }

/-- A command whose writes are made completes, once its record is pushed: ACFG then shows its flags (R215). (DEDUCED: log entry 66.) -/
def State.completeMatrix (s : State) (id : Nat) : Option State :=
  match splitAt id [] s.mx.queue with
  | none => none
  | some (before, c, t) =>
    if c.ran.isNone then none
    else
      (if c.rpt then s.pushRet 6 c.record else some s).map fun s =>
        let s := (s.withMx fun m => { m with queue := before ++ t }).dropId c.id
        let s := match c.what.acc with
          | some k => s.raiseAcc k (c.ran.getD 0)
          | none => s
        let s := if c.failed then s.engineFault c.owner c.id c.seq c.op 16 0 0 0 else s
        (s.signal c.y).sendNote c.note

/-! ### Completion of event-queue commands (R277) -/

/-- A running read pushes its next word to q7, if there is room. -/
def State.pumpEvent (s : State) : State :=
  match s.eng.event with
  | c :: t =>
    (match c.results with
     | w :: ws =>
       (match s.pushRet 7 w with
        | some s => s.withEng fun e => { e with event := { c with results := ws } :: t }
        | none => s)
     | [] => s)
  | [] => s

def State.completeEvent (s : State) : Option State :=
  match s.eng.event with
  | c :: t =>
    if !c.started || c.req.isSome || !c.results.isEmpty then none
    else
      let s := (s.withEng fun e => { e with event := t }).dropId c.id
      let s := match c.fault with
        | some cause => s.engineFault c.owner c.id c.seq c.op cause 0 0 0
        | none => s
      some (s.signal c.y)
  | [] => none

/-! ### The Bellows (R234 to R236) -/

/-- The allowance of a ramp table in the band of `a` active units; one under the power cap (R405). -/
def allowance (table : Word) (a : Nat) (capped : Bool) : Nat :=
  if capped then 1 else table.bits (4 * (if 15 < a / 16 then 15 else a / 16)) 4 + 1

/-- The first cycle in which the `mma` at the head is at the head, its wait met and nothing before it in its way, is noted: the cycle
after that of the step before (R409). (DESIGN CHOICE: log entry 68.) -/
def State.noteReadyAt (s : State) (cycle : Word) : State :=
  match s.mxReady with
  | some (before, c, t) =>
    if c.what.streams && c.ready.isNone then
      s.withMx fun m => { m with queue := before ++ { c with ready := some cycle } :: t }
    else s
  | none => s
def State.noteReady (s : State) : State := s.noteReadyAt (s.units.pcyc + 1)

/-- The first cycle in which an `mma` was ready: the unit streams at most the last column of the one before it (R235). -/
def State.readyAt (s : State) (c : MxCmd) : Option Nat := c.ready.map fun r => max r.toNat (s.streamCycle - 1)

/-- The `mma` at the head starts at a boundary, if it was ready before it and the unit is active or granted a start. -/
def State.startAt (s : State) (b : Nat) (may : Bool) : State :=
  match s.mxReady with
  | none => s
  | some (before, c, t) =>
    match s.readyAt c with
    | some r => if may && c.what.streams && r < b && s.streamCycle ≤ b then s.beginMx before c t (s.coreAt b) (b - r) else s
    | none => s

/-- An active unit streams filler for a step (R235, R410). (DESIGN CHOICE: log entry 67.) -/
def State.fillStep (s : State) : State :=
  let s := s.withMx fun m => { m with filler := true }
  let f := s.regs.fillcnt.bits 0 32
  let n := if f = 2 ^ 32 - 1 then (Config.fillcntAfter s.tick).toNat else f + 1
  { s with
    regs := { s.regs with fillcnt := BitVec.ofNat 64 n }
    guard := { s.guard with fillerSteps := saturate s.guard.fillerSteps } }

/-- What the Bellows finds at a boundary: the active units of the die, this one among them if it is, and those of lower number that
request a start, and stop: no more than there are (R235). -/
def State.dieAt (s : State) (b : Nat) : Nat × Nat × Nat :=
  let v := Config.bellows b
  let low := s.core % 256
  let requests := min v.2.1 low
  let stops := min v.2.2 (low - requests)
  (stops + min v.1 (255 - stops - requests) + s.mx.active.toNat, requests, stops)

/-- The next boundary: `a` units of the die were active, and so many of lower number request a start, or stop. -/
def State.bellows (s : State) (a below stopping : Nat) : State :=
  let b := s.mx.boundary + 4
  let go := !s.dbg.clusterHalted
  let s := s.withMx fun m => { m with boundary := b }
  let s := if go && s.streamCycle ≤ b && (s.mxReady.any fun x => x.2.1.what.streams) then s.startMatrix.getD s else s
  let active := s.mx.active
  let s := s.startAt b (go && (active || below < allowance s.units.rampup a s.guard.capped))
  if active && s.streamCycle ≤ b then
    if stopping < allowance s.units.rampdn a s.guard.capped then s.withMx fun m => { m with active := false, filler := false }
    else s.fillStep
  else s.withMx fun m => { m with filler := false }

end Sys2Proof.Machine
end

