-- ==== Sys2Proof/Machine/Resume.lean ====
section
/-!
DEFINITION. What a waited access does when its replies are in (R149, R151, R160, R169, R174, R244, R323, R329 to R332), the
end of an `exit`, and how a reply reaches the core (R160, R162).
-/

namespace Sys2Proof.Machine

open Sys2Proof

/-! ### Values of replies -/

/-- `n` bytes extended to a word (R6). -/
def extend (sx : Bool) (n v : Nat) : Word :=
  if sx then (BitVec.ofNat (8 * n) v).signExtend 64 else BitVec.ofNat 64 (v % 256 ^ n)

/-- The value of a reply. -/
def Reply.value : Reply → Nat
  | .data v => v
  | .fail .. => 0

/-- The trap of an error reply to a waited access. No rule gives its FADDR. -/
def Reply.trap : Reply → Option TrapInfo
  | .data _ => none
  | .fail c sub info _ => some ⟨c, sub, none, info, none⟩

/-- The first error among replies. -/
def firstError (rs : List Reply) : Option TrapInfo := rs.findSome? Reply.trap

/-- The bytes of replies of these sizes, one after the other. -/
def joinReplies (sizes : List Nat) (rs : List Reply) : List Byte :=
  (sizes.zip rs).flatMap fun p => bytesOf p.2.value p.1

/-- A vector with one byte replaced. -/
def putByte (v : VWord) (i : Nat) (b : Byte) : VWord :=
  BitVec.ofNat 512 (v.toNat - v.toNat / 256 ^ i % 256 * 256 ^ i + b.toNat * 256 ^ i)

/-! ### Queue controllers and the host, as places that messages go to -/

/-- A stand-in address for the queue controller of an identifier (R324), the management core (R352) and the memory core of
a page (R361): it orders the messages to one of them. -/
def controllerHome (qid : BitVec 16) : Nat := 2 ^ 67 + qid.toNat / 64 * 2 ^ 33
def managementHome : Nat := 2 ^ 68

/-- Of the transactions that a service core has taken, in order, those that leave, the writes then unacknowledged, and those that
stay: an interrupt leaves when no earlier write is unacknowledged, and what comes after it stays behind it (R384). -/
def inTurn : Nat → List ToHost → List ToHost × Nat × List ToHost
  | n, [] => ([], n, [])
  | n, .interrupt v :: t =>
    if n = 0 then let r := inTurn 0 t; (.interrupt v :: r.1, r.2) else ([], n, .interrupt v :: t)
  | n, .write ga bytes :: t => let r := inTurn (n + 1) t; (.write ga bytes :: r.1, r.2)
  | n, x :: t => let r := inTurn n t; (x :: r.1, r.2)

/-- The service core sends what it can. -/
def State.sendHost (s : State) (unacked : Nat) (l : List ToHost) : State :=
  let r := inTurn unacked l
  { s with toHost := s.toHost ++ r.1, service := { s.service with unacked := r.2.1, queue := r.2.2 } }

/-- The service core takes a transaction to the host. -/
def State.emitHost (s : State) (x : ToHost) : State := s.sendHost s.service.unacked (s.service.queue ++ [x])

/-- A write that the service core sends to the host. -/
def State.hostWrite (s : State) (ga : Nat) (bytes : List (Nat × Byte)) : State := s.emitHost (.write ga bytes)

/-- An interrupt. -/
def State.hostInterrupt (s : State) (v : BitVec 32) : State := s.emitHost (.interrupt v)

/-- The answer to a command of the management port (R390). -/
def State.portAnswer (s : State) (st : Status) (data : List Byte) : State := { s with toHost := s.toHost ++ [.port st data] }

/-! ### Claimed items (R329, R331) -/

/-- QLAST says that the context holds a claimed item. -/
def Ctx.claims (c : Ctx) : Bool := c.qlast.bit 63 && !c.qlast.bit 62

/-- The context completes the item it holds: TDONE is posted to the controller and QLAST cleared. -/
def State.completeItem (s : State) : State :=
  if s.ctx.claims then
    let q := BitVec.ofNat 16 (s.ctx.qlast.bits 32 16)
    let m : Message := .queue q (.done (BitVec.ofNat 32 (s.ctx.qlast.bits 0 32)) s.units.pcyc)
    let r := s.send ⟨0, controllerHome q, m, true, false⟩
    r.1.put { r.1.ctx with qlast := 0 }
  else s

/-! ### The end of an `exit` (R67, R274, R323) -/

/-- A write that the machine makes for itself, of host space or of memory. -/
def State.storeOut (s : State) (ga : Nat) (bytes : List (Nat × Byte)) : State :=
  if gaSpace ga = 3 then s.hostWrite ga bytes else s.storeHome ga bytes

/-- The completion record of a sink (R323, R386), written at TCPL's address. -/
def State.completionRecord (s : State) (ga retired : Nat) : State :=
  let bytes := (List.range 8).map (fun i => (i, BitVec.ofNat 8 (retired / 256 ^ i))) ++
    (List.range 8).map (fun i => (8 + i, BitVec.ofNat 8 (ga / 256 ^ i))) ++
    (List.range 8).map (fun i => (16 + i, BitVec.ofNat 8 (s.lcore.toNat / 256 ^ i))) ++
    (List.range 8).map (fun i => (24 + i, if i = 0 then (1 : Byte) else 0))
  let a := s.regs.tcpl.toNat / 32 * 32
  let s := s.storeOut a bytes
  { s.hostInterrupt s.launch.hivec with launch := { s.launch with completions := s.launch.completions + 1 } }

/-- A task retires at its home (R323). -/
def State.retireTask (s : State) : State :=
  let ga := s.ctx.task.toNat
  let t := s.units.pcyc.toNat
  let w := s.peek (ga + 32) 8
  let s := s.poke (ga + 56) 8 t
  let s := s.poke (ga + 32) 8 (putBits w 45 3 4)
  if slice w 44 1 = 1 && s.regs.tcpl.toNat / 32 != 0 then s.completionRecord ga t else s

/-- A helper leaves: its object's handler exits, and the context becomes free. -/
def State.depart (s : State) : State :=
  let s := if s.ctx.hobj.bit 40 then s.handlerExit (s.ctx.hobj.bits 0 12) else s
  (s.endTrace s.cur 13).free s.cur

/-- The decrements of a retiring task (R323): as many as there is room for, then the wait for their replies; with none
left the task retires and the helper leaves. -/
def State.exitRetire (s : State) (rest : List (Word × Nat)) : Effect :=
  match rest with
  | [] => .is s.retireTask.depart
  | _ =>
    let k := min rest.length (Config.outstanding - s.inFlight)
    let a := s.sendAll ((rest.take k).map fun p => ⟨p.1, p.2, .access .tdec, false, false⟩)
    match firstError (a.2.2.map (·.2)) with
    | some e => .is (a.1.raise e)
    | none => .wait a.1 (.reply a.2.1 a.2.2 (.retire (rest.drop k)))

/-- The records of successors, translated in list order; a misaligned address, or one outside home space, is refused as
`tdec` refuses it. -/
def State.successors (s : State) (op : Nat) : List Word → Except TrapInfo (List (Word × Trans))
  | [] => .ok []
  | va :: t =>
    match s.translate s.cur va 8 .atomic op 0 with
    | .error e => .error e
    | .ok x =>
      if va.toNat % 64 != 0 || gaSpace x.ga != 0 then .error ⟨6, 4, some va, 0, none⟩
      else
        match s.successors op t with
        | .error e => .error e
        | .ok l => .ok ((va, x) :: l)

/-- The successor list of a retiring task is read, entry by entry (R323). -/
def State.exitOn : Nat → State → List Word → Effect
  | 0, s, _ => .is s
  | f + 1, s, got =>
    let ga := s.ctx.task.toNat
    if slice (s.peek (ga + 24) 8) 16 16 ≤ got.length then
      match s.successors 0x11 got with
      | .error e => .trap e
      | .ok l => (l.foldl (fun s p => s.install p.2.x) s).exitRetire (l.map fun p => (p.1, p.2.ga))
    else
      let va : Word := BitVec.ofNat 64 (s.peek (ga + 16) 8 + 8 * got.length)
      match s.translateAll .load 0x11 0 (.plain 8) (pieces 9 va 8) with
      | .error e => .trap e
      | .ok ps =>
        let s := s.installAll ps
        if !s.room ps.length then .wait s (.reply [] [] (.successors got []))
        else
          let a := s.sendAll (ps.map fun p => ⟨p.va, p.ga, .access (.read p.n), false, false⟩)
          if a.2.2.length = a.2.1.length then
            let rs := a.2.2.map (·.2)
            match firstError rs with
            | some e => .is (a.1.raise e)
            | none => State.exitOn f a.1 (got ++ [BitVec.ofNat 64 (ofBytes (joinReplies (ps.map (·.n)) rs))])
          else .wait a.1 (.reply a.2.1 a.2.2 (.successors got (ps.map (·.n))))

/-- More entries than a successor list can have. -/
def exitFuel : Nat := 65537

/-! ### Settling a waited access -/

/-- The trap of a failing message of a vector access at its lowest element (R151), by the failing byte. -/
def messageTrap (j c sub : Nat) (info : Word) (byte : Nat) : TrapInfo :=
  ⟨c, sub, some (BitVec.ofNat 64 byte), info.setBits 0 6 j, some j⟩

/-- The lowest element that a vector load stops at, with its trap (R151): among failing messages and the element that the
load stopped at. A failure that names no byte of the sector is one of the message's lowest byte. -/
def vloadStop (parts : List (List (Nat × Nat × Nat × Nat))) (rs : List Reply) (trap : Option TrapInfo) :
    Option (Nat × TrapInfo) :=
  let fails := (parts.zip rs).filterMap fun p => match p.2 with
    | .data _ => none
    | .fail c sub info b =>
      let j := p.1.foldl (fun m x => min m x.1) 63
      let low := p.1.foldl (fun m x => min m x.2.2.1) 31
      some (j, messageTrap j c sub info (max b (b / 32 * 32 + low)))
  let first := match trap with
    | some t => some (t.vstart.getD 0, t)
    | none => none
  fails.foldl (fun best f => match best with
    | some g => if f.1 < g.1 then some f else best
    | none => some f) first

/-- The destination of a vector load with the bytes of the elements below a limit. -/
def State.vloadValue (s : State) (d : Field) (w : BitVec 2) (parts : List (List (Nat × Nat × Nat × Nat)))
    (laid : List (Nat × Nat × Byte)) (limit : Nat) (rs : List Reply) : VWord :=
  let arrived : List (Nat × Nat × Byte) := (parts.zip rs).flatMap fun p => p.1.flatMap fun x =>
    (List.range x.2.2.2).map fun i => (x.1, x.2.1 + i, BitVec.ofNat 8 (p.2.value / 256 ^ (x.2.2.1 + i)))
  let old : VWord := if d.toNat < 32 then s.readV d else 0
  (arrived ++ laid).foldl (fun v x =>
    if x.1 < limit then putByte v (x.1 * 2 ^ w.toNat + x.2.1) x.2.2 else v) old

/-- A vector load's bytes are written, up to the element it stops at. -/
def State.settleVload (s : State) (d : Field) (w : BitVec 2) (parts : List (List (Nat × Nat × Nat × Nat)))
    (laid : List (Nat × Nat × Byte)) (trap : Option TrapInfo) (rs : List Reply) : Effect :=
  let stop := vloadStop parts rs trap
  let new := s.vloadValue d w parts laid ((stop.map (·.1)).getD 64) rs
  match stop with
  | none =>
    let t := s.writeV d new
    .done (t.put { t.ctx with vstart := 0 })
  | some (_, e) => .is ((if d.toNat < 32 then s.writeV d new else s).raise e)

/-- The lowest element that a vector store's failing messages hold, with its trap. -/
def vstoreStop (lows : List Nat) (rs : List Reply) : Option (Nat × TrapInfo) :=
  ((lows.zip rs).filterMap fun p => match p.2 with
    | .data _ => none
    | .fail c sub info b => some (p.1, messageTrap p.1 c sub info b)).head?

/-- A vector store whose last messages are performed: it traps at the lowest element of one that failed, or where it had stopped, or
completes (R151, R152). -/
def State.settleVstore (s : State) (lows : List Nat) (trap : Option TrapInfo) (rs : List Reply) : Effect :=
  match vstoreStop lows rs, trap with
  | some (_, t), _ => .is (s.raise t)
  | none, some t => .is (s.raise t)
  | none, none => .done (s.put { s.ctx with vstart := 0 })

/-- The image of `lyt` (R244). -/
def State.settleLayout (s : State) (lt : Nat) (bs : List Byte) : Effect :=
  let l : Layout := .ofFn fun i => BitVec.ofNat 64 (ofBytes ((bs.drop (8 * i.val)).take 8))
  if l.loads then .done (s.withEng fun e => { e with layouts := upd e.layouts lt l.clean })
  else .trap ⟨13, 0, none, 5, none⟩

/-- The reply of a claim or a steal (R329). -/
def State.settleClaim (s : State) (d : Field) (qid : BitVec 16) (v : Nat) : Effect :=
  if v / 2 ^ 96 = 0 then .done (s.writeG d 0)
  else
    let s := s.completeItem
    let s := s.put { s.ctx with qlast := BitVec.ofNat 64 (2 ^ 63 + qid.toNat * 2 ^ 32 + v / 2 ^ 64 % 2 ^ 32) }
    .done (s.writeG d (BitVec.ofNat 64 v))

/-- The queue's length arrives for `fcast.q` (R332). -/
def State.settleForecast (s : State) (d : Field) (v : Nat) : Effect :=
  let old := s.regs.forecast
  let s : State := { s with regs := { s.regs with forecast := old.setBits 0 16 (if 65535 < v then 65535 else v) } }
  .done (s.writeG d old)

/-- The descriptor arrives for `qreset.bind` (R330): its fields are checked, the ring is translated, and the controller is
asked. -/
def State.settleBind (s : State) (d : Field) (qid : BitVec 16) (desc next : Nat) (bs : List Byte) : Effect :=
  let s := s.dropEarly s.cur
  let words := (List.range 8).map fun i => (BitVec.ofNat 64 (ofBytes ((bs.drop (8 * i)).take 8)) : Word)
  let base : Word := (words[0]?).getD 0
  let sizeWord : Word := (words[1]?).getD 0
  let log2 := sizeWord.bits 0 5
  if log2 < 4 || 20 < log2 || base.toNat % 2 ^ (log2 + 6) != 0 then .done (s.writeG d 0)
  else
    match s.translate s.cur base 8 .store 0xD6 0 with
    | .error e => .trap e
    | .ok x =>
      if x.x.size < 2 ^ (log2 + 6) || 2 ≤ gaSpace x.ga then .done (s.writeG d 0)
      else
        let a := s.send ⟨base, controllerHome qid, .queue qid (.bind (BitVec.ofNat 64 desc) (BitVec.ofNat 64 next) (BitVec.ofNat 64 x.ga) words), false, false⟩
        .wait a.1 (.reply [a.2.1] [] (.write d))

/-- What a waited access does with its replies, in the order of its requests. -/
def State.settle (s : State) (k : After) (rs : List Reply) : Effect :=
  match k with
  | .vload d w parts laid trap => s.settleVload d w parts laid trap rs
  | .vstore lows trap _ => s.settleVstore lows trap rs
  | .terminate => .wait s .ending
  | _ =>
    match firstError rs with
    | some e => .trap e
    | none =>
      let v := match rs with | r :: _ => r.value | [] => 0
      match k with
      | .load d n sx sizes laid => .done (s.writeG d (extend sx n (ofBytes (layOver (joinReplies sizes rs) laid))))
      | .old d n zero => .done (s.writeG d (extend (!zero) n v))
      | .oldF d => .done (s.writeF d (BitVec.ofNat 64 v))
      | .nothing => .done s
      | .write d => .done (s.writeG d (BitVec.ofNat 64 v))
      | .table laid => (s.dropEarly s.cur).transfer (s.ctx.pc + 2 * extend true 4 (ofBytes (layOver (joinReplies [4] rs) laid)))
      | .layout lt sizes => s.settleLayout lt (joinReplies sizes rs)
      | .claim d qid => s.settleClaim d qid v
      | .forecast d => s.settleForecast d v
      | .successors got sizes => s.exitOn exitFuel (got ++ [BitVec.ofNat 64 (ofBytes (joinReplies sizes rs))])
      | .retire rest => s.exitRetire rest
      | .bind d qid desc next sizes => s.settleBind d qid desc next (joinReplies sizes rs)
      | .vload .. => .done s
      | .vstore .. => .done s
      | .sealing .. => .done s
      | .terminate => .done s

/-- There are outstanding accesses free for the messages that need one (R160). -/
def State.roomFor (s : State) (ms : List Msg) : Bool := s.room (ms.filter fun m => !s.ownSlice m.ga && !m.msg.free).length

/-- The messages of a waited access are sent: it is settled at once when every reply is there, and otherwise waits. -/
def State.await (s : State) (ms : List Msg) (k : After) : Effect :=
  if !s.roomFor ms then .wait s (.outstanding [] [] 0 none)
  else
    let a := s.sendAll ms
    if a.2.2.length = a.2.1.length then a.1.settle k (a.2.2.map (·.2)) else .wait a.1 (.reply a.2.1 a.2.2 k)

/-! ### Replies that reach the core (R160) -/

/-- The replies of all the listed requests, in their order, if they are in. -/
def gather (ids : List Nat) (got : List (Nat × Reply)) : Option (List Reply) :=
  ids.foldr (fun id l => match l, got.find? (·.1 == id) with
    | some l, some g => some (g.2 :: l)
    | _, _ => none) (some [])

/-- A blocked context goes on with an effect of its instruction. (DEDUCED: log entry 20.) -/
def State.resume (s : State) (i : Fin 11) (f : State → Effect) : State :=
  let srcs := match (s.at i).block with
    | some b => b.sources
    | none => []
  s.as i fun s => (s.finish srcs (f s)).settled i

/-- A context being saved meets an error reply (R363): it is recorded for the image, as the error of the instruction at its PC, and the
instruction is not performed; a vector access keeps the elements below the failing one. -/
def State.recordReply (s : State) (i : Fin 11) (k : After) (rs : List Reply) : State :=
  let c := s.at i
  let stop : Option (Option Nat × TrapInfo) := match k with
    | .vload _ _ parts _ _ => (vloadStop parts rs none).map fun x => (some x.1, x.2)
    | .vstore lows _ _ => (vstoreStop lows rs).map fun x => (some x.1, x.2)
    | _ => (firstError rs).map fun t => (none, t)
  match stop with
  | none => s
  | some (j, t) =>
    let f := postedFault (((c.block.map (·.seq)).getD s.seqNo)) c.pc (t.faddr.getD 0) t.cause t.sub
    let s := match k with
      | .vload d w parts laid _ =>
        if d.toNat < 32 then s.as i fun s => s.writeV d (s.vloadValue d w parts laid (j.getD 0) rs) else s
      | _ => s
    let c := s.at i
    (s.putAt i { c with
      block := none, imprecise := insertFault f c.imprecise
      vstart := match j with | some j => BitVec.ofNat 64 j | none => c.vstart }).dropSlots i

/-- A reply is handed to the context that waits for it. -/
def State.hand (s : State) (i : Fin 11) (id : Nat) (r : Reply) : State :=
  let c := s.at i
  match c.block with
  | none => s
  | some b =>
    let go (ids : List Nat) (got : List (Nat × Reply)) (k : After) (w : List (Nat × Reply) → Wait) : State :=
      if ids.contains id then
        let got := got ++ [(id, r)]
        match gather ids got with
        | some rs =>
          if s.stopped i && (firstError rs).isSome then s.recordReply i k rs else s.resume i fun s => s.settle k rs
        | none => s.putAt i { c with block := some { b with wait := w got } }
      else s
    match b.wait with
    | .reply ids got k => go ids got k fun g => .reply ids g k
    | .fe ids got k => go ids got k fun g => .fe ids g k
    | .outstanding ids got first k =>
      if ids.contains id then s.putAt i { c with block := some { b with wait := .outstanding ids (got ++ [(id, r)]) first k } }
      else s
    | _ => s

/-- A reply is handed to the event-queue command whose message it answers (R277). -/
def State.handEvent (s : State) (id : Nat) (r : Reply) (msg : Message) : State :=
  s.withEng fun e => { e with
    event := e.event.map fun c =>
      if c.req = some id then
        match r with
        | .fail cause _ _ _ => { c with req := none, fault := some cause }
        | .data v => { c with
            req := none
            results := match msg with
              | .esread .. => []
              | .event _ _ => []
              | _ => if c.rpt then [BitVec.ofNat 64 v] else [] }
      else c }

/-- The words of an `esread` reach the command (R282). -/
def State.handWords (s : State) (id : Nat) (ws : List Word) : State :=
  s.withEng fun e => { e with event := e.event.map fun c => if c.req = some id then { c with req := none, results := ws } else c }

/-- Replace the leaf entry's SEAL bit for a page seen through a root (R178). -/
def State.sealLeaf (s : State) (root va : Word) (b : Bool) : State :=
  match walkLeaf s.mem va.toNat walkLevels (root.toNat / 2 ^ 12 * 2 ^ 12) with
  | none => s
  | some a =>
    let v := putBits (s.mem.read a 8) 6 1 b.toNat
    ({ s with mem := s.mem.write a 8 v }.mark a (List.range 8)).touch a

/-- Translations of a range leave the TLBs (R358, R359), and so do the sealed lines of their frames. -/
def State.dropTranslations (s : State) (base len : Nat) : State :=
  let hit (x : Xlate) : Bool := x.overlaps base len
  let gone := s.tlb.filter hit
  { s with
    tlb := s.tlb.filter fun x => !hit x
    replicas := s.replicas.filter fun l => l.2.isEmpty || !gone.any fun x => leafFrame x.leaf / 64 ≤ l.1 && l.1 < (leafFrame x.leaf + x.size) / 64 }

/-- Every granule of a page is sealed, and no seal of the page is unacknowledged. -/
def State.pageSealed (s : State) (first size frame : Nat) : Bool :=
  ((List.range (size / 65536)).all fun i => s.mem.isSealed (frame + 65536 * i)) &&
    !s.net.any fun q => q.msg == .access .seal && q.stage != .answered && first ≤ q.va.toNat && q.va.toNat < first + size

/-- A granule's seal is acknowledged: with its page's last one the page entry is sealed and the translations that could write are
dropped (R178). -/
def State.sealDone (s : State) (root va : Word) : State :=
  match s.lookup root va.toNat with
  | .error _ => s
  | .ok x =>
    let first := va.toNat / x.size * x.size
    if s.pageSealed first x.size (leafFrame x.leaf) then (s.sealLeaf root va true).dropTranslations first x.size else s

/-- The requests that wait for others to be acknowledged are sent when they are. -/
def sendAfter (l : List Request) : List Request :=
  l.map fun q => match q.stage with
    | .after ids => if l.any fun r => ids.contains r.id && r.stage != .answered then q else { q with stage := .sent }
    | _ => q

/-- Waits that no reply of their own can end: an `exit` whose list found no room goes on (R323). -/
def State.wakeEmpty (s : State) : State :=
  allCtx.foldl (fun s i =>
    match (s.at i).live, (s.at i).block with
    | true, some ⟨.reply [] [] (.successors got _), _, _⟩ => if s.room 2 then s.resume i fun s => s.exitOn exitFuel got else s
    | true, some ⟨.reply [] [] (.retire rest), _, _⟩ => if s.room 1 then s.resume i fun s => s.exitRetire rest else s
    | _, _ => s) s

/-- The requests after the reply of one (R160): one that its home refused and whose acceptance no notice has told keeps its place
in the order until then (R420). -/
def answeredNet (q : Request) (l : List Request) : List Request :=
  if q.tries = 0 then l.filter (·.id != q.id) else l.map fun r => if r.id = q.id then { r with stage := .answered } else r

/-- The context that sent a request, in the same incarnation, waits for its reply. -/
def State.waitsFor (s : State) (q : Request) : Bool :=
  let c := s.at q.ctx
  c.live && c.gen == q.gen && match c.block with
    | some ⟨.reply ids _ _, _, _⟩ => ids.contains q.id
    | some ⟨.outstanding ids _ _ _, _, _⟩ => ids.contains q.id
    | _ => false

/-- The reply of a posted request. An access of the own slice that its context waits for fails precisely (R159), but REMTIMEO is
reported by R162 (R164). -/
def State.deliverPosted (s : State) (q : Request) (r : Reply) : State :=
  match q.msg, r with
  | .event _ _, .data _ => s
  | .event _ _, .fail .. => s.countDrop
  | .access .seal, .data _ => s.sealDone (s.at q.ctx).root q.va
  | .patch .., _ => s.portAnswer 0 []
  | _, .data v => if s.waitsFor q then s.hand q.ctx q.id (.data v) else s
  | _, .fail c sub info b =>
    if s.waitsFor q && c != 18 then s.hand q.ctx q.id (.fail c sub info b)
    else
      let s := s.addFault q.ctx q.gen (postedFault q.id q.pc (lowestVa q.va q.msg) c sub)
      if s.waitsFor q then s.hand q.ctx q.id (.data 0) else s

/-- An event that the front end itself sent is tried again without limit, unless it names no core of the job, or its destination's
cluster is reset (R267). -/
def State.triesAgain (s : State) (q : Request) (r : Reply) : Bool :=
  !s.eng.event.any (·.req == some q.id) && match q.msg, r with
    | .event _ _, .fail c _ _ _ => c != 6 && c != 19
    | _, _ => false

/-- A reply reaches the core: the outstanding access ends (R160), and whoever it concerns takes it in. (DEDUCED: log entry 25.) -/
def State.deliver (s : State) (id : Nat) (r : Reply) : State :=
  match s.net.find? (·.id == id) with
  | none => s
  | some q =>
    if s.triesAgain q r then { s with net := s.net.map fun x => if x.id = id then { x with stage := .sent } else x } else
    let s := { s with net := sendAfter (answeredNet q s.net) }
    let r := r.placed q.va
    let s := match q.msg, r with
      | .event _ _, .data _ => s.withDrone fun d => { d with sent := bump32 d.sent }
      | _, _ => s
    let s :=
      if s.eng.event.any (·.req == some id) then s.handEvent id r q.msg
      else if q.posted then s.deliverPosted q r
      else if (s.at q.ctx).live && (s.at q.ctx).gen == q.gen then s.hand q.ctx id r
      else s
    s.wakeEmpty

end Sys2Proof.Machine
end

