-- ==== Sys2Proof/Machine/Group.lean ====
section
/-!
DEFINITION. Collective groups (R297 to R301), the window of a collective branch (R308 to R311), results, broken groups and
time-outs (R313), what pre-emption does to a member (R314), and ordering points (R162).
-/

namespace Sys2Proof.Machine

open Sys2Proof

/-! ### The window -/

/-- VOTED (R299). -/
def Ctx.voted (c : Ctx) : Bool := c.cseq.bit 16
def Ctx.setVoted (c : Ctx) (b : Bool) : Ctx := { c with cseq := putBit c.cseq 16 b }

/-- The context's group (R298). -/
def Ctx.count (c : Ctx) : BitVec 33 := BitVec.ofNat 33 (c.cgrp.bits 0 33)
def Ctx.seq (c : Ctx) : BitVec 16 := BitVec.ofNat 16 (c.cseq.bits 0 16)

/-- A context squashed to its oldest unresolved `cbr` (R308): its registers as they stood there, nothing issued since,
its fetched instructions dropped, its PC at the `cbr`. -/
def Ctx.squashed (c : Ctx) : Ctx :=
  match c.spec with
  | [] => c
  | p :: _ => { c with
    g := p.g, v := p.v, f := p.f, k := p.k, frm := p.frm, srcount := p.srcount, vstart := p.vstart, pc := p.pc, line := none
    spec := [], hold := c.hold.take p.older, squash := c.squash + 1, block := none, age := 0 }

/-- A resolved `cbr` sends a branch to its target, or on to the next instruction. -/
def Ctx.branchTo (c : Ctx) (p : Checkpoint) (r : Bool) : Ctx :=
  { c with pc := if r then p.target else p.next, line := none }

/-- The oldest window closes as predicted (R309, R311): the entries it held are released. -/
def Ctx.closeWindow (c : Ctx) : Ctx :=
  match c.spec with
  | [] => c
  | _ :: rest => { c with
    spec := rest
    released := match rest with
      | [] => c.hold.length
      | q :: _ => q.older }

/-! ### Arrivals -/

/-- Change an entry. -/
def State.setGroup (s : State) (gid : BitVec 12) (scope : BitVec 4) (f : Group → Group) : State :=
  { s with groups := s.groups.map fun g => if g.gid == gid && g.scope == scope then f g else g }

/-- A context gives up its share of its group's entry; CGRP is cleared. -/
def State.leaveGroup (s : State) (i : Fin 11) : State :=
  let c := s.at i
  let s := s.forget i
  s.putAt i { c.setVoted false with cgrp := 0 }

/-- Votes are of one kind, and of one operation (R300); a departure is of every kind. -/
def sameKind : Vote → Vote → Bool
  | .leave, _ => true
  | _, .leave => true
  | .any _, .any _ => true
  | .all _, .all _ => true
  | .cred a _, .cred b _ => a == b
  | _, _ => false

/-- FINFO of a group's trap (R313). -/
def groupInfo (reason : Nat) (seq : BitVec 16) (info : Nat) : Word :=
  BitVec.ofNat 64 (reason * 2 ^ 60 + seq.toNat * 2 ^ 44 + info)

/-- A member takes its group's trap (R313): squashed to its oldest unresolved `cbr`, or at the instruction it is blocked in;
it leaves the group. -/
def State.groupTrap (s : State) (i : Fin 11) (cause : Nat) (finfo : Word) : State :=
  let s := s.putAt i (s.at i).squashed
  (s.leaveGroup i).precise i ⟨cause, 0, none, finfo, none⟩

/-- A member takes part in the running episode: it speculates behind a vote, or is blocked for the result. -/
def Ctx.inEpisode (c : Ctx) : Bool :=
  match c.spec with
  | _ :: _ => true
  | [] =>
    match c.block with
    | some b =>
      (match b.wait with
       | .cred _ => true | .cleave _ => true | .exitVote => true | .cbrAgain _ _ => true
       | _ => false)
    | none => false

/-- A group is timed out (BRK 1) or broken (BRK 2): every member of this core learns it (R313). -/
def State.breakHere (s : State) (gid : BitVec 12) (scope : BitVec 4) (code cause : Nat) (finfo : Word) : State :=
  match s.group gid scope with
  | none => s
  | some g =>
    let s := s.setGroup gid scope fun g => { g with broken := some (g.broken.getD (cause, finfo)), arrivals := [], early := [] }
    g.members.foldl (fun s i =>
      let c := s.at i
      if c.brk != 0 then s
      else
        let s := s.putAt i { c with cgrp := c.cgrp.setBits 61 2 code }
        if c.inEpisode then s.groupTrap i cause finfo else s) s

/-- The network breaks a group: every core with an entry is told. -/
def State.breakGroup (s : State) (gid : BitVec 12) (scope : BitVec 4) (reason : Nat) (seq : BitVec 16) : State :=
  let s : State := { s with sent := s.sent ++ [.breakGroup gid scope reason] }
  s.breakHere gid scope 2 21 (groupInfo reason seq 0)

/-- An arrival reaches the group's network (R300): it counts, or it breaks the group; one more for the episode that has resolved
exceeds its count. One that comes before any member of this core has joined waits for that. (DEDUCED: log entry 65.) -/
def State.arrive (s : State) (gid : BitVec 12) (scope : BitVec 4) (seq : BitVec 16) (count : BitVec 33) (v : Vote) : State :=
  match s.group gid scope with
  | none => { s with strays := s.strays ++ [⟨gid, scope, seq, count, v⟩] }
  | some g =>
    if g.broken.isSome then s
    else if g.seq != seq && (g.result.any fun r => r.1 == seq) then s.breakGroup gid scope 2 seq
    else if g.arrivals.any fun a => a.1 != seq then s.setGroup gid scope fun g => { g with early := g.early ++ [(seq, count, v)] }
    else if g.arrivals.any fun a => !sameKind a.2.2 v then s.breakGroup gid scope 1 seq
    else if g.arrivals.any (fun a => a.2.1 != count) || count.toNat ≤ g.arrivals.length then s.breakGroup gid scope 2 seq
    else s.setGroup gid scope fun g => { g with arrivals := g.arrivals ++ [(seq, count, v)], seq := seq }

/-- A member sends its arrival for episode SEQ (R305, R306): SEQ advances, VOTED is set, and the wait is measured from
now. -/
def State.sendArrival (s : State) (i : Fin 11) (v : Vote) : State :=
  let c := s.at i
  let s := s.putAt i { c with cseq := BitVec.ofNat 64 (2 ^ 16 + (c.seq + 1).toNat), arrived := s.units.pcyc }
  let s : State := { s with sent := s.sent ++ [.arrival c.gid c.gscope c.seq c.count v] }
  s.arrive c.gid c.gscope c.seq c.count v

/-! ### Results -/

/-- Reduce values (R204, R306). -/
def reduce (op : RedOp) (a b : Word) : Word :=
  match op with
  | .add => a + b
  | .min => if b.toInt < a.toInt then b else a
  | .max => if a.toInt < b.toInt then b else a
  | .minu => if b.toNat < a.toNat then b else a
  | .maxu => if a.toNat < b.toNat then b else a
  | .and => a &&& b
  | .or => a ||| b
  | .xor => a ^^^ b

/-- The values of an episode's arrivals. -/
def voteValues (l : List Vote) : List Word := l.filterMap fun v => match v with
  | .cred _ x => some x
  | .any p => some (Word.ofBool p)
  | .all p => some (Word.ofBool p)
  | .leave => none

/-- The result of an episode (R300): none when every arrival is a departure. -/
def episodeResult (l : List Vote) : Option Word :=
  match l.find? fun v => match v with | .leave => false | _ => true, voteValues l with
  | some (.any _), vs => some (Word.ofBool (vs.any (· != 0)))
  | some (.all _), vs => some (Word.ofBool (vs.all (· != 0)))
  | some (.cred op _), v :: vs => some (vs.foldl (reduce op) v)
  | _, _ => none

/-- The record of a `cbr`'s resolution (R396): episode SEQ − 1, the result, and whether it squashed. -/
def State.traceVote (s : State) (i : Fin 11) (r squash : Bool) : State :=
  s.trace i 3 (BitVec.ofNat 64 (((s.at i).seq - 1).toNat + r.toNat * 2 ^ 16 + squash.toNat * 2 ^ 17))

/-- The oldest unresolved `cbr` of a context has its result (R305, R309 to R312): its window closes and a second `cbr` sends
its vote, or the context is squashed and goes the other way. -/
def State.resolve (s : State) (i : Fin 11) (r : Bool) : State :=
  let c := (s.at i).setVoted false
  match c.spec with
  | [] => s
  | p :: _ =>
    let s := s.traceVote i r (r != p.hint)
    if r = p.hint then
      let c := c.closeWindow
      let s := s.putAt i c
      match c.spec with
      | q :: _ =>
        if q.sent then s
        else
          let s := s.putAt i { c with spec := c.spec.map fun q => { q with sent := true } }
          s.sendArrival i (if q.all then .all q.vote else .any q.vote)
      | [] =>
        match c.block with
        | some ⟨.deferred t, _, _⟩ => s.precise i t
        | _ => s
    else (if r then s.trace i 1 p.target else s).putAt i ((c.squashed).branchTo p r)

/-- A member has taken the result of an episode: VOTED is cleared, and COUNT falls by the departures (R300). -/
def Ctx.took (c : Ctx) (gone : Nat) : Ctx :=
  { c.setVoted false with cgrp := c.cgrp.setBits 0 33 (c.count.toNat - gone) }

/-- One member takes a result (R305, R306, R304, R314). -/
def State.takeResult (s : State) (i : Fin 11) (r : Option Word) (gone : Nat) : State :=
  let c := s.at i
  let yes := r.getD 0 != 0
  match c.spec with
  | p :: _ => if p.sent && c.voted then (s.putAt i (c.took gone)).resolve i yes else s
  | [] =>
    match c.block with
    | some ⟨.cred d, _, _⟩ => (s.putAt i (c.took gone)).completeG i d (r.getD 0)
    | some ⟨.cleave d, _, _⟩ => (s.leaveGroup i).completeG i d 1
    | some ⟨.exitVote, _, _⟩ => (s.leaveGroup i).modifyAt i fun c => { c with block := none, age := 0 }
    | some ⟨.cbrAgain _ target, _, _⟩ =>
      let c := c.took gone
      let s := s.traceVote i yes false
      if yes then (s.trace i 1 target).putAt i (c.goto target false) else s.putAt i c.advance
    | _ => s

/-- The episode of an entry is complete (R300). -/
def Group.complete (g : Group) : Bool :=
  g.broken.isNone && match g.arrivals with
    | [] => false
    | a :: _ => a.2.1.toNat == g.arrivals.length

/-- What has become of a group that this core has no entry of: arrivals that waited for one are over. -/
def State.dropStrays (s : State) (gid : BitVec 12) (scope : BitVec 4) : State :=
  { s with strays := s.strays.filter fun a => a.gid != gid || a.scope != scope }

/-- The result reaches this core (R301), and each member takes it. (DEDUCED: log entry 65.) -/
def State.groupResult (s : State) (gid : BitVec 12) (scope : BitVec 4) : State :=
  match s.group gid scope with
  | none => s.dropStrays gid scope
  | some g =>
    if !g.complete then s
    else
      let votes := g.arrivals.map (·.2.2)
      let r := episodeResult votes
      let seq := g.seq
      let gone := (votes.filter (· == .leave)).length
      let s := s.setGroup gid scope fun g => { g with arrivals := [], early := [], result := some (seq, r, gone), seq := seq + 1 }
      let s := g.members.foldl (fun s i => s.takeResult i r gone) s
      g.early.foldl (fun s a => s.arrive gid scope a.1 a.2.1 a.2.2) s

/-- The result that waits for a member whose arrival for episode SEQ − 1 was sent (R314). -/
def State.waitingResult (s : State) (i : Fin 11) : Option (Option Word × Nat) :=
  let c := s.at i
  match s.group c.gid c.gscope with
  | none => none
  | some g =>
    match g.result with
    | some (q, r, gone) => if c.voted && q + 1 == c.seq then some (r, gone) else none
    | none => none

/-- A member has waited longer than its CTIMEO since its arrival, wherever it stands now (R299, R313). (DESIGN CHOICE: log entry 97.) -/
def State.timedOut (s : State) (g : Group) : Bool :=
  g.members.any fun i =>
    let c := s.at i
    c.brk == 0 && c.voted && c.ctimeo.bits 0 24 != 0 && c.ctimeo.bits 0 24 * 1250 < (s.units.pcyc - c.arrived).toNat

/-! ### Ordering points (R162) -/

/-- The fault that an ordering point reports: that of the earliest-issued access or command known, marked when others are
discarded; or the error of a restored image. -/
def Ctx.report (c : Ctx) : Option Imprecise :=
  match c.pending, c.imprecise with
  | some p, l => some (mark p (!l.isEmpty))
  | none, f :: l => some (mark f (!l.isEmpty))
  | none, [] => none
where
  mark (f : Imprecise) (more : Bool) : Imprecise :=
    if more then { f with finfo := f.finfo ||| BitVec.ofNat 64 (2 ^ (if f.eng then 24 else 63)) } else f

/-- The trap of an imprecise fault, taken before the ordering point has any effect. (DEDUCED: log entry 62.) -/
def State.reportFault (s : State) (f : Imprecise) : State :=
  let s := s.put { s.ctx with imprecise := [], pending := none }
  s.takeTrap s.cur ⟨f.cause, f.sub, some f.faddr, f.finfo, none⟩ false true f.eng s.ctx.pc

/-- An ordering point: a known imprecise fault is taken first. -/
def State.ordered (s : State) (body : State → Effect) : Effect :=
  match s.ctx.report with
  | some f => if s.ctx.spec.isEmpty then .is (s.reportFault f) else .wait s .window
  | none => body s

end Sys2Proof.Machine
end

