-- ==== Sys2Proof/Machine/Order.lean ====
section
/-!
DEFINITION. Scopes (R16, R157, R194), what fences and the other ordering points wait for (R195, R210, R229), and which
request may reach its home next (R161, R164, R420).
-/

namespace Sys2Proof.Machine

open Sys2Proof

/-- A core, by package and physical number, is a member of scope `n` of the followed core (R16). -/
def State.coreInScope (s : State) (pkg core n : Nat) : Bool :=
  match n with
  | 0 => false
  | 1 => pkg == s.pkg && core == s.core
  | 2 => pkg == s.pkg && core / 4 == s.core / 4
  | 3 => pkg == s.pkg && core / 16 == s.core / 16
  | 4 => pkg == s.pkg && core / 256 == s.core / 256
  | 5 => pkg == s.pkg
  | 6 => pkg / 16 == s.pkg / 16
  | 7 => pkg / 2 ^ 14 == s.pkg / 2 ^ 14 && pkg / 2 ^ 7 % 16 == s.pkg / 2 ^ 7 % 16
  | _ => true

/-- A home is within a scope (R194). -/
def State.inScope (s : State) (ga n : Nat) : Bool :=
  match gaSpace ga with
  | 0 => s.coreInScope (gaPkg ga) (gaCore ga) n
  | 1 =>
    if n = 4 then gaPkg ga == s.pkg && gaPort ga / 2 == s.core / 256 else 5 ≤ n && s.coreInScope (gaPkg ga) 0 n
  | 2 => 5 ≤ n
  | _ => 9 ≤ n

/-- What `dsync` waits for: accesses to every home, those of tasks and queues among them (R210). -/
def everyAccess : Nat := 10

/-- A request is one of the context's own accesses and has no reply yet. -/
def Request.of (r : Request) (i : Fin 11) (gen : BitVec 8) : Bool :=
  r.ctx == i && r.gen == gen && r.msg.ofContext && r.stage != .answered

/-- Every reply of the context is in (R67, R363). -/
def State.quiet (s : State) (i : Fin 11) : Bool := !s.net.any fun r => r.of i (s.at i).gen

/-- A posted operation that a fence of kind stores waits for (R195): a store, an atomic, a granule's seal, by its home or at the scope
of its `seal` or `unseal` (R198), and the shoot-down of one; not a task's decrement or an item's completion, which `dsync` waits for
too. (DEDUCED: log entry 73.) -/
def State.fenced (s : State) (r : Request) (n : Nat) : Bool :=
  match r.msg with
  | .access .tdec => n == everyAccess
  | .queue _ _ => n == everyAccess
  | .access _ => s.inScope r.ga n || (r.scope != 0 && r.scope ≤ n)
  | .shootdown _ _ scope => scope ≤ n
  | _ => false

/-- The context's posted operations to homes in a scope are acknowledged, held stores included (R195). -/
def State.storesClear (s : State) (i : Fin 11) (n : Nat) : Bool :=
  !(s.net.any fun r => r.of i (s.at i).gen && r.posted && s.fenced r n) &&
    !((s.at i).hold.any fun h => !h.spad && s.inScope h.ga n)

/-- Every engine command of the context has completed (R195). -/
def State.enginesClear (s : State) (i : Fin 11) : Bool :=
  let mine (o : Option (Fin 11 × BitVec 8)) : Bool := o == some (i, (s.at i).gen)
  !(s.eng.copy.any fun c => mine c.owner) && !(s.eng.gather.any fun c => mine c.owner) &&
    !(s.eng.event.any fun c => mine c.owner) && !(s.mx.queue.any fun c => mine c.owner)

/-- No matrix command that was in the queue at issue is left, of those that own an accumulator if one is named (R229). -/
def State.matrixClear (s : State) (below : Nat) (acc : Option Nat) : Bool :=
  !s.mx.queue.any fun c => c.id < below && (match acc with
    | none => true
    | some k => c.what.acc == some k)

/-! ### The context's block -/

/-- An interrupt of the context is pending (R337). -/
def Ctx.pendingBit (c : Ctx) : Bool := c.status.bits 9 3 != 0

/-- An `mrd` is still writing a vector register that `shrink` to `vn` granules would release (R72); a context that issues has no load
in flight. -/
def Ctx.draining (c : Ctx) (vn : Nat) : Bool := c.landing.any fun d => 8 * vn ≤ d && d < 8 * c.vn

/-- The context's wait is one that the instruction tests again, and it is over. (DEDUCED: log entry 20.) -/
def State.waitOver (s : State) (i : Fin 11) (w : Wait) : Bool :=
  let c := s.at i
  match w with
  | .queue q => (let t : State := { s with cur := i }; (t.entry q).isSome)
  | .chanIn ch => (let t : State := { s with cur := i }; (t.entry (ch + 8)).isSome)
  | .chanOut ch => s.chanLoad i ch < Config.channelDepth
  | .stage n => (nth c.stage n []).length < Config.stageDepth
  | .cmdFull q => s.queueRoom q
  | .outstanding _ _ _ _ => s.room 1
  | .order eng scope => s.storesClear i scope && (!eng || s.enginesClear i)
  | .matrix below acc => s.matrixClear below acc
  | .drain vn => !c.draining vn
  | .exitReplies => s.quiet i && c.hold.isEmpty
  | .window => c.spec.isEmpty
  | .windowFull => !c.windowFull
  | .holdRoom k => heldCount c.hold + k ≤ Config.holdDepth
  | .thirdCbr => c.spec.length < 2
  | .freeWalker => true
  | .wfi => c.pendingBit
  | _ => false

/-- Other cores are members of the context's gang (R62). (DEDUCED: log entry 12.) -/
def Ctx.hasPeers (c : Ctx) (core : Nat) : Bool :=
  match c.gang with
  | none => false
  | some g => g.mask != 2 ^ (if g.clus then core % 16 else core % 4)

/-! ### Requests on their way -/

/-- The ordered network that a message travels in, and its source (R378, R381): requests, events, this core's multicasts, another
core's, a memory core's and a debug module's. No order holds between two of them, and none holds another back (R379). -/
def Message.lane : Message → Nat
  | .event _ _ => 1
  | .discard .. => 2
  | .shootdown _ _ scope => if scope = 0 then 3 else if scope = migrationScope then 4 else 2
  | .patch .. => 5
  | _ => 0

/-- A request takes part in the order of its class: every one but those of REQ-A (R161 rule 3); the own slice performs even those
in order (rule 5). -/
def State.inOrder (s : State) (q : Request) : Bool := !q.adaptive || s.ownSlice q.ga

/-- An event on its way to another core may still be refused there (R267). -/
def Message.mayBounce : Message → Bool
  | .event _ _ => true
  | _ => false

/-- A later ordered request of the core keeps behind this one: it is on its way to the same home (R161 rule 2), or was refused and
no notice has told its acceptance (R164, R420), or waits there for a device read (R183); of two events of one core to one core the
second leaves once the first is accepted (R267, R295). (DEDUCED: log entry 25.) -/
def State.keepsBehind (s : State) (q e : Request) : Bool :=
  s.inOrder e && e.msg.lane == q.msg.lane && homeOf e.ga == homeOf q.ga &&
    (e.stage == .sent || e.stage == .refused || e.tries != 0 || (e.stage == .listed && (gaSpace e.ga == 1 || e.msg.mayBounce)))

/-- A request may reach its home now: it is on its way, no invalidation of its page holds it back (R359), and no earlier request
does. -/
def State.mayArrive (s : State) (q : Request) : Bool :=
  let earlier := s.net.takeWhile (·.id != q.id)
  q.stage == .sent && !(q.msg.op.isSome && heldBack s.tlb earlier q.va.toNat) &&
    (!s.inOrder q || !earlier.any (s.keepsBehind q))

/-- What a message does at an address that this core has translated: an access, or the write of a summary (R352). -/
def Message.translated : Message → Bool
  | .access _ => true
  | .resync _ => true
  | _ => false

/-- Every access made through the translations of a range before an invalidation is performed, and acknowledged (R359), the held
stores among them (R309). -/
def State.quiesced (s : State) (id : Nat) (base len : Nat) : Bool :=
  let through (va : Word) : Bool := s.tlb.any fun x =>
    x.overlaps base len && x.base ≤ va.toNat && va.toNat < x.base + x.size
  !((s.net.takeWhile (·.id != id)).any fun q => q.msg.translated && q.stage != .answered && through q.va) &&
    !(allCtx.any fun i => (s.at i).hold.any fun h => !h.spad && through h.va)

/-- Change a request's stage. -/
def State.setStage (s : State) (id : Nat) (st : Stage) : State :=
  { s with net := s.net.map fun q => if q.id = id then { q with stage := st } else q }

/-- The home of a message answers. -/
def State.replyTo (s : State) (id : Nat) (r : Reply) : State := s.setStage id (.replied r)

/-- The request that an event row's optional number names, if it is on its way and may arrive. -/
def State.arriving (s : State) (id : Nat) : Option Request :=
  match s.net.find? (·.id == id) with
  | some q => if s.mayArrive q then some q else none
  | none => none

/-- A request of this core that a row names may arrive. -/
def State.comes (s : State) (req : Option Nat) : Bool :=
  match req with
  | some id => (s.arriving id).isSome
  | none => true

/-- The target's answer to this core's request, or to another core's. -/
def State.targetReply (s : State) (sender : BitVec 29) (req : Option Nat) (r : Reply) : State :=
  match req with
  | some id => s.replyTo id r
  | none => { s with sent := s.sent ++ [.reply sender.toNat r] }

/-- This core's cluster has no power (R398). -/
def State.ownOff (s : State) : Bool := s.guard.offClusters.contains (BitVec.ofNat 7 (s.core / 16))

/-- A message reaches this core: while its cluster is closed the boundary answers it with RMTDEAD (R382), and without power nothing
does (R398). -/
def State.atTarget (s : State) (sender : BitVec 29) (req : Option Nat) (f : State → State) : Out :=
  if !s.comes req then .next s
  else
    match s.closedAt s.pkg s.core with
    | some i => .next (s.targetReply sender req (.fail 19 0 i 0))
    | none => .next (if s.ownOff then s else f s)

end Sys2Proof.Machine
end

