-- ==== Sys2Proof/Machine/Barrier.lean ====
section
/-!
DEFINITION. Barriers (R201 to R206, R208): arrival, signal, release and withdrawal.
-/

namespace Sys2Proof.Machine

open Sys2Proof

/-- An arrival (R202, R203, R206): one that the episode waits for, after it was withdrawn, fills its place; others join while the field
that governs the episode has room, and the first of an episode fixes that field; later ones wait for the next. (DEDUCED: log entry 63.) -/
def Barrier.arrive (b : Barrier) (i : Fin 11) (now : Word) (field : Nat) : Barrier :=
  if b.gaps.contains i.val then { b with gaps := b.gaps.erase i.val, members := b.members ++ [(i, now)] }
  else ({ b with field := if b.idle then field else b.field, waiting := b.waiting ++ [(i, now)] } : Barrier).fill

/-- The issuing context has arrived. -/
def State.arrivedNow (s : State) (scope : Nat) : State :=
  (s.setBarrier scope fun b => b.arrive s.cur s.units.pcyc (s.barField scope)).checkBarrier scope

/-- The reduction of an episode's values (R204): 0 when the operations differ. -/
def reduceAll : List (RedOp × Word) → Word
  | [] => 0
  | (op, v) :: t => if t.all fun x => x.1 == op then t.foldl (fun a x => reduce op a x.2) v else 0

/-- The clock after a release (R404), in MHz: by the lag of the cluster's last arrival between the episode's earliest and the
release; a step up needs headroom and no power cap. Nothing changes unless every core of the cluster took part (R208). (DESIGN CHOICE: log entry 64.) -/
def State.nextRate (s : State) (b : Barrier) : Nat :=
  let rate := s.units.clkrate.toNat
  let rel := s.units.pcyc.toNat
  let own := b.members.map (·.2.toNat)
  let f := own.foldl min rel - Config.earlierBy s.tick
  let a := max (own.foldl max 0) (rel - Config.lastBefore s.tick)
  let span := rel - f
  let granted := s.guard.headroom != 0 && !s.guard.capped && Config.stepGranted s.tick
  if !Config.clusterTookPart s.tick || span < 4000 then rate
  else if 3 * span ≤ 4 * (a - f) then (if granted then min 1600 (rate + 50) else rate)
  else if 2 * (a - f) ≤ span then max 1250 (rate - 50)
  else rate

/-- A context blocked in a barrier goes on, a `barv` with a value. -/
def State.letGo (s : State) (i : Fin 11) (r : Word) : State :=
  match (s.at i).block with
  | some ⟨.bar _ (some (d, _, _)), _, _⟩ => s.completeG i d r
  | _ => s.completeAt i

/-- The value of a context's own `barv`. -/
def State.ownValue (s : State) (i : Fin 11) : Word :=
  match (s.at i).block with
  | some ⟨.bar _ (some (_, _, v)), _, _⟩ => v
  | _ => 0

/-- A barrier's next episode begins with the arrivals that wait: BARCFG's field governs it (R202). Under a field of 0 they do not wait
(R203, R204). (DEDUCED: log entry 63.) -/
def State.nextEpisode (s : State) (scope : Nat) : State :=
  let field := s.barField scope
  let late := (s.barrier scope).waiting.map (·.1)
  let s := s.setBarrier scope fun b =>
    if field = 0 then ⟨false, 0, [], [], [], [], []⟩ else Barrier.fill ⟨false, field, [], [], [], b.waiting, []⟩
  if field = 0 then (late.filter fun i => (s.at i).atBarrier scope).foldl (fun s i => s.letGo i (s.ownValue i)) s
  else s.checkBarrier scope

/-- The release reaches this core (R202, R204, R208): each context of the episode goes on, later arrivals start the next. (DEDUCED: log entry 63.) (DESIGN CHOICE: log entry 64.) -/
def State.release (s : State) (scope : Nat) : State :=
  let b := s.barrier scope
  let l := s.arrivedAt scope
  let r := reduceAll (s.contributions l ++ b.vals)
  let s := l.foldl (fun s i => s.letGo i r) s
  let s :=
    if 4 ≤ scope && b.field != 0 then
      { s with units := { s.units with clkrate := BitVec.ofNat 64 (s.nextRate b) } }
    else s
  s.nextEpisode scope

/-- A context's arrival is withdrawn, with the core's signal (R206); it leaves the block. The episode waits for its new arrival, if it
is to make one. (DEDUCED: log entry 63.) -/
def State.withdraw (s : State) (i : Fin 11) (scope : Nat) (again : Bool) : State :=
  let b := s.barrier scope
  let s := s.modifyAt i fun c => { c with block := none }
  if b.members.any (·.1 == i) then
    let s := s.setBarrier scope fun b => ({ b with
      signalled := false, members := b.members.filter (·.1 != i), gaps := if again then b.gaps ++ [i.val] else b.gaps } : Barrier).fill
    let s : State := if b.signalled && scope != 1 then { s with sent := s.sent ++ [.withdrawal scope] } else s
    s.checkBarrier scope
  else s.setBarrier scope fun b => { b with waiting := b.waiting.filter (·.1 != i) }

/-- An episode is abandoned (R205): its contexts take RMTDEAD, and later arrivals start the next (R202). (DEDUCED: log entry 55.) -/
def State.abandon (s : State) (scope : Nat) (info : Word) : State :=
  ((s.arrivedAt scope).foldl (fun s i => s.precise i ⟨19, 0, none, info, none⟩) s).nextEpisode scope

end Sys2Proof.Machine
end

