-- ==== Sys2Proof/Machine/Interrupt.lean ====
section
/-!
DEFINITION. Interrupts (R344), the quiet point (R363) and the end of an `ssave` of another context (R365).
-/

namespace Sys2Proof.Machine

open Sys2Proof

/-! ### Which interrupt can be taken -/

/-- The interrupt that a context can take, by cause: PREEMPT, unless the cluster is halted (R392), then DELAYED, then HOSTDB
(R344). -/
def Ctx.pendingInterrupt (c : Ctx) (halted : Bool) : Option Nat :=
  if c.th then none
  else if c.status.bit 11 && !halted then some 32
  else if c.ie && c.status.bit 9 then some 22
  else if c.ie && c.status.bit 10 then some 33
  else none

/-- The pending bit of an interrupt. -/
def interruptBit (cause : Nat) : Nat := if cause = 32 then 11 else if cause = 22 then 9 else 10

/-- What an interrupt does with a block (R344's table). -/
inductive Reach2 where
  /-- The block is abandoned. -/
  | abandon
  /-- The block ends; the instruction is over. -/
  | ends
  /-- Only PREEMPT, through the quiet point. -/
  | preempt
  | waits
  deriving DecidableEq, Repr

def Wait.interrupted : Wait → Reach2
  | .park => .abandon | .sem _ _ => .abandon | .semMrd _ => .abandon | .queue _ => .abandon | .chanIn _ => .abandon
  | .chanOut _ => .abandon | .stage _ => .abandon | .cmdFull _ => .abandon | .cwait _ _ _ => .abandon
  | .start .. => .abandon | .restore .. => .abandon | .grow .. => .abandon | .gang .. => .abandon
  | .order _ _ => .abandon | .matrix _ _ => .abandon
  | .idle => .ends | .wfi => .ends
  | .fe .. => .preempt | .bar _ _ => .preempt | .window => .preempt | .windowFull => .preempt | .holdRoom _ => .preempt
  | .deferred _ => .preempt | .thirdCbr => .preempt | .cred _ => .preempt | .cleave _ => .preempt | .exitVote => .preempt
  | .cbrAgain _ _ => .preempt
  | .outstanding .. => .waits | .drain _ => .waits | .exitReplies => .waits | .reply .. => .waits | .freeWalker => .waits
  | .ending => .waits | .writeBack _ _ => .waits | .save .. => .waits

/-- The full-empty requests of a wait that no reply has left for: they can be cancelled (R363). -/
def State.cancellable (s : State) (ids : List Nat) : Bool :=
  ids.all fun id => match s.net.find? (·.id == id) with
    | some q => (match q.stage with | .replied _ => false | _ => true)
    | none => false

/-- Cancel requests at their homes. -/
def State.cancel (s : State) (ids : List Nat) : State :=
  let mine (x : Source) : Bool := match x with | .own id => ids.contains id | .foreign _ => false
  { s with
    net := s.net.filter fun q => !ids.contains q.id
    mem := { s.mem with
      retry := s.mem.retry.filter fun e => !mine e.src
      refusals := s.mem.refusals.filter fun e => !mine e.src } }

/-- The interrupt that reaches a context now (R344, R312, R314). -/
def State.interruptOf (s : State) (i : Fin 11) : Option Nat :=
  let c := s.at i
  if !c.live then none
  else
    match c.pendingInterrupt s.dbg.clusterHalted with
    | none => none
    | some cause =>
      if !c.spec.isEmpty && cause != 32 then none
      else
        match c.block with
        | none => some cause
        | some b =>
          match b.wait.interrupted with
          | .abandon => some cause
          | .ends => some cause
          | .preempt =>
            if cause != 32 then none
            else
              (match b.wait with
               | .fe ids got _ =>
                 let others := s.net.any fun r => r.of i c.gen && !ids.contains r.id
                 if got.isEmpty && s.cancellable ids && !others then some cause else none
               | _ => if s.quiet i then some cause else none)
          | .waits => none

/-! ### The quiet point -/

/-- Steps 1, 3 and 4 of R363: the speculative state is squashed, a full-empty access not yet performed is cancelled, a
barrier arrival is withdrawn, and a block that no reply ends is abandoned; a vector access keeps its place. -/
def State.bringQuiet (s : State) (i : Fin 11) : State :=
  let s := s.putAt i (s.at i).squashed
  let c := s.at i
  match c.block with
  | none => s
  | some b =>
    match b.wait with
    | .bar scope _ => s.withdraw i scope true
    | .fe ids got _ =>
      if got.isEmpty && s.cancellable ids then (s.cancel ids).modifyAt i fun c => { c with block := none } else s
    | .reply .. => s
    | .outstanding .. => s
    | .writeBack _ _ => s
    | .ending => s
    | .save .. => s
    | .idle => s.putAt i c.advance
    | _ => ((s.putAt i { c with block := none }).dropSlots i).grant

/-- The first element that a stopped vector access has not sent. -/
def firstUnsent (first : Nat) : Option After → Option Nat
  | some (.vload _ _ parts _ _) => some (((parts[first]?).getD []).foldl (fun m x => min m x.1) 63)
  | some (.vstore _ _ unsent) => some ((unsent.headD []).foldl (fun m x => min m x.1) 63)
  | _ => none

/-- A vector access that stopped with OUTSTANDING: what arrived is written, and VSTART is its first unsent element. An error among the
replies is recorded, and the access stands at its element. -/
def State.settlePartial (s : State) (i : Fin 11) : State :=
  match (s.at i).block with
  | some ⟨.outstanding ids got first k, _, _⟩ =>
    let rs := (gather ids got).getD []
    let s := match k with
      | some k => s.recordReply i k rs
      | none => s
    if (s.at i).block.isNone then s
    else
      let s := match k with
        | some (.vload d w parts laid _) =>
          if d.toNat < 32 then s.as i fun s => s.writeV d (s.vloadValue d w (parts.take rs.length) laid 64 rs) else s
        | _ => s
      s.modifyAt i fun c => { c with block := none, vstart := ((firstUnsent first k).map (BitVec.ofNat 64)).getD c.vstart }
  | _ => s

/-- A stopped context has reached its quiet point: every reply is in and every held store acknowledged. -/
def State.atQuiet (s : State) (i : Fin 11) : Bool :=
  s.quiet i && (s.at i).hold.isEmpty && match (s.at i).block with
    | none => true
    | some b => (match b.wait with | .outstanding .. => true | _ => false)

/-- The context as its image holds it: an error known and not reported is recorded (R363). -/
def Ctx.recorded (c : Ctx) : Ctx := { c with pending := c.report, imprecise := [] }

/-- A context has reached the quiet point that an `ssave` brings it to (R365): it is written, and becomes free, and
its `cwait` waiters go on as after an exit. (DESIGN CHOICE: log entry 111.) -/
def State.saved (s : State) (k : Fin 11) : State :=
  match allCtx.find? fun j => match (s.at j).live, (s.at j).block with
    | true, some ⟨.save _ n _, _, _⟩ => n == k
    | _, _ => false with
  | none => s
  | some j =>
    match (s.at j).block with
    | some ⟨.save d _ image, _, _⟩ =>
      let s := s.settlePartial k
      let s := s.writeImage image ((s.at k).recorded) k
      (((((s.endTrace k 14).setAside k image true).moveGaps k.val (imageKey image)).free k)).completeG j d 1
    | _ => s

/-! ### Taking an interrupt (R341, R344) -/

/-- The context takes an interrupt that reaches it. A pre-emption dissolves its gang without a count (R64). -/
def State.takeInterrupt (s : State) (i : Fin 11) (cause : Nat) : State :=
  let s := s.putAt i (s.at i).squashed
  let c := s.at i
  let epc := match c.block with
    | some ⟨.idle, _, _⟩ => c.next
    | some ⟨.wfi, _, _⟩ => c.next
    | _ => c.pc
  let s := match c.block with
    | some ⟨.bar scope _, _, _⟩ => s.withdraw i scope true
    | some ⟨.fe ids _ _, _, _⟩ => s.cancel ids
    | _ => s
  let s := s.modifyAt i fun c => { c with
    status := putBit c.status (interruptBit cause) false, block := none, gang := if cause = 32 then none else c.gang }
  let s := s.dropSlots i
  (s.takeTrap i ⟨cause, 0, some 0, 0, none⟩ true false false epc).grant

end Sys2Proof.Machine
end

