-- ==== Sys2Proof/Machine/Starts.lean ====
section
/-!
DEFINITION. The starts that the core itself makes: tasks of the run lists (R321, R322) and handlers (R274); and the run list
as its home keeps it.
-/

namespace Sys2Proof.Machine

open Sys2Proof

/-! ### Fields of a task record (R319) -/

def State.taskWord (s : State) (ga k : Nat) : Nat := s.peek (ga + 8 * k) 8
def recState (w4 : Nat) : Nat := slice w4 45 3
def recPri (w4 : Nat) : Nat := slice w4 42 2
def recVn (w4 : Nat) : Nat := slice w4 39 3
def recSn (w4 : Nat) : Nat := slice w4 36 3
def recPred (w3 : Nat) : Nat := slice w3 32 32

/-! ### The run list (R321) -/

/-- The hardware entries in use. -/
def Tasks.used (t : Tasks) : Nat := (t.lists.toList.map List.length).foldl (· + ·) 0

/-- CHAIN gains one and stops at its largest value. -/
def State.countChain (s : State) : State :=
  let n := s.regs.taskstat.bits 0 32
  { s with regs := { s.regs with taskstat := s.regs.taskstat.setBits 0 32 (if n = 2 ^ 32 - 1 then n else n + 1) } }

/-- A task that becomes ready is appended to its list, or to its chain through LINK. -/
def State.appendTask (s : State) (ga : Nat) : State :=
  let p := recPri (s.taskWord ga 4)
  let chain := nth s.tasks.chains p []
  if chain.isEmpty && s.tasks.used < 64 then
    { s with tasks := { s.tasks with lists := upd s.tasks.lists p (nth s.tasks.lists p [] ++ [ga]) } }
  else
    let s := match chain.getLast? with
      | some last => s.poke (last + 32) 8 (putBits (s.taskWord last 4) 0 24 (gaOffset ga))
      | none => s
    { s.countChain with tasks := { s.tasks with chains := upd s.tasks.chains p (chain ++ [ga]) } }

/-- The priorities in the order of service. -/
def priorities : List Nat := [3, 2, 1, 0]

/-- An entry of a task of priority `p` is free: it is refilled from that priority's chain, or from the highest chain. -/
def State.refill (s : State) (p : Nat) : State :=
  match (p :: priorities).find? fun q => !(nth s.tasks.chains q []).isEmpty with
  | none => s
  | some q =>
    match nth s.tasks.chains q [] with
    | [] => s
    | ga :: t =>
      { s with tasks := ⟨upd s.tasks.lists q (nth s.tasks.lists q [] ++ [ga]), upd s.tasks.chains q t⟩ }

/-- The head of the highest list that is not empty, with its priority. -/
def State.taskHead (s : State) : Option (Nat × Nat) :=
  priorities.findSome? fun p => match nth s.tasks.lists p [] with
    | ga :: _ => some (p, ga)
    | [] => none

/-! ### Which start can be made -/

/-- PREEMPT is pending at the control context: no task and no handler starts (R344). -/
def State.preempting (s : State) : Bool := (s.at 0).status.bit 11

/-- The core is part of a running job. (DEDUCED: log entry 9.) -/
def State.running (s : State) : Bool :=
  (s.launch.state == 2 || s.launch.state == 3) &&
    !s.guard.offClusters.contains (BitVec.ofNat 7 (s.core / 16)) && !s.guard.closedClusters.contains (BitVec.ofNat 7 (s.core / 16))

/-- The core can start a helper for itself now. -/
def State.mayStart (s : State) : Bool := s.running && !s.preempting && !s.requestWaiting

/-- The task that starts now, its priority and its helper (R322). -/
def State.startableTask (s : State) : Option (Nat × Nat × Fin 11) :=
  if !s.mayStart then none
  else
    match s.taskHead, s.lowestFree with
    | some (p, ga), some k => if s.fits (recSn (s.taskWord ga 4)) (recVn (s.taskWord ga 4)) then some (p, ga, k) else none
    | _, _ => none

/-- The object at the head of the residual queue. (DEDUCED: log entry 51.) -/
def State.handlerHead (s : State) : Option Nat := s.drone.residual.head?.map (·.1.toNat)

/-- The object whose handler starts now, with its helper (R274): no task can start before it (R57). (DEDUCED: log entry 51.) -/
def State.startableHandler (s : State) : Option (Nat × Fin 11) :=
  if !s.mayStart || s.held || s.dbg.clusterHalted || s.startableTask.isSome then none
  else
    match s.handlerHead, s.lowestFree with
    | some idx, some k =>
      let h := s.handler (hdType (s.hd idx 0))
      if !h.valid || s.fits h.sn h.vn then some (idx, k) else none
    | _, _ => none

/-- The write-back that an `ehold` waits for is under way (R293). -/
def State.writingBack (s : State) : Bool :=
  (s.held && !s.drone.residual.isEmpty) || allCtx.any fun i => match (s.at i).live, (s.at i).block with
    | true, some ⟨.writeBack _ _, _, _⟩ => true
    | _, _ => false

end Sys2Proof.Machine
end

