-- ==== Sys2Proof/Machine/Contexts.lean ====
section
/-!
DEFINITION. The context instructions (R62 to R75) and the status word (R53, R54).
-/

namespace Sys2Proof.Machine

open Sys2Proof

/-! ### The status word -/

/-- The REASON code of a wait (R54). (DEDUCED: log entry 57.) -/
def Wait.reason : Wait → Nat
  | .queue _ => 1 | .chanIn _ => 2 | .chanOut _ => 3 | .fe .. => 4 | .sem _ _ => 5 | .semMrd _ => 5
  | .window => 6 | .windowFull => 6 | .holdRoom _ => 6 | .deferred _ => 6 | .thirdCbr => 6 | .cred _ => 6 | .cleave _ => 6
  | .exitVote => 6 | .cbrAgain _ _ => 6
  | .park => 7 | .grow .. => 8 | .start .. => 9 | .restore .. => 9 | .cwait .. => 10 | .drain _ => 11 | .exitReplies => 12
  | .ending => 12 | .gang .. => 13 | .cmdFull _ => 15 | .stage _ => 15 | .idle => 16 | .wfi => 16 | .bar _ _ => 17
  | .outstanding .. => 19
  | .reply _ _ (.successors ..) => 12 | .reply _ _ (.retire _) => 12
  | .reply .. => 20 | .freeWalker => 20 | .save .. => 20
  | .order _ _ => 21 | .matrix _ _ => 21
  | .writeBack _ _ => 0

/-- A context is blocked, its wait not over. -/
def State.blocked (s : State) (i : Fin 11) : Option Wait :=
  match (s.at i).block with
  | some b => if s.waitOver i b.wait then none else some b.wait
  | none => none

/-- REASON: a ready context has HALT while its core is halted, and GANGPEER while another member of its gang is not
ready. -/
def State.reason (s : State) (i : Fin 11) : Nat :=
  if !(s.at i).live || i == s.cur then 0
  else
    match s.blocked i with
    | some w => w.reason
    | none =>
      if s.dbg.halted.isSome then 18
      else if (s.at i).hasPeers s.core && !Config.peersReady s.tick then 14 else 0

/-- The context status word (R53). R390 to R393 give the port no command that returns it: only `cquery` and the like read it here.
(DESIGN CHOICE: log entry 93.) -/
def State.statusWord (s : State) (i : Fin 11) : Word :=
  let c := s.at i
  BitVec.ofNat 64 (c.gen.toNat * 2 ^ 32 + s.reason i * 2 ^ 24 + c.pri.toNat * 2 ^ 22 + c.gang.isSome.toNat * 2 ^ 21 +
    c.live.toNat * 2 ^ 20 + i.val * 2 ^ 16 + c.vn * 16 + c.sn)

/-! ### start (R66) -/

/-- A `start` of context 0's, for a named helper or for the lowest free one. -/
def State.startBody (s : State) (d a b : Field) (named : Option Word) (nb : Bool) (n v : BitVec 3) (pri : BitVec 2) : Effect :=
  let pc := s.readG a
  let arg := s.readG b
  match s.checkTarget pc with
  | some e => .trap e
  | none =>
    let bad := match named with
      | some w => w.toNat < 1 || 10 < w.toNat
      | none => false
    if bad then .done (s.writeG d 0)
    else
      let k := named.map (·.toNat)
      match s.helperFor k, !s.requestWaiting && s.fits n.toNat v.toNat with
      | some h, true => .done ((s.startHelper h n.toNat v.toNat pri pc arg).writeG d (BitVec.ofNat 64 h.val))
      | _, _ => if nb then .done (s.writeG d 0) else .wait s (.start d pc arg k n.toNat v.toNat pri)

/-- A `start` form: in a helper it is no instruction. (DEDUCED: log entry 77.) -/
def State.starting (s : State) (uses : List Use) (body : State → Effect) : Out :=
  if s.cur.val != 0 then .next (s.raise ⟨1, 0, none, 0x10, none⟩) else s.issue 0x10 .ordered uses body

/-- `start`. -/
def execStart (d a b : Field) (n v : BitVec 3) (p : BitVec 2) (s : State) : Out :=
  s.starting [.wG d, .rG 1 a, .rG 2 b] fun s => s.startBody d a b none false n v p

/-- `start.nb`. -/
def execStartNb (d a b : Field) (n v : BitVec 3) (p : BitVec 2) (s : State) : Out :=
  s.starting [.wG d, .rG 1 a, .rG 2 b] fun s => s.startBody d a b none true n v p

/-- `start.at`. -/
def execStartAt (d a b c : Field) (n v : BitVec 3) (p : BitVec 2) (s : State) : Out :=
  s.starting [.wG d, .rG 1 a, .rG 2 b, .rG 3 c] fun s => s.startBody d a b (some (s.readG c)) false n v p

/-- `start.at.nb`. -/
def execStartAtNb (d a b c : Field) (n v : BitVec 3) (p : BitVec 2) (s : State) : Out :=
  s.starting [.wG d, .rG 1 a, .rG 2 b, .rG 3 c] fun s => s.startBody d a b (some (s.readG c)) true n v p

/-! ### exit and cwait (R67, R68, R304, R323) -/

/-- The end of an `exit` whose replies are in: the task retires, the helper leaves, or the control context idles, its sessions ended
(R397) and its staged words discarded (R238). -/
def State.exitEnd (s : State) : Effect :=
  if s.ctx.task != 0 then s.exitOn exitFuel []
  else if s.cur.val = 0 then .wait ((s.endTrace s.cur 13).put { s.ctx with gang := none, stage := .replicate 4 [] }) .idle
  else .is s.depart

/-- A member of a group departs first (R304); after a restore its departure may have been sent already (R314). -/
def State.exitGroup (s : State) : Effect :=
  let s := if s.ctx.inGroup && s.ctx.brk != 0 then s.leaveGroup s.cur else s
  if !s.ctx.inGroup then (if s.quiet s.cur then s.exitEnd else .wait s .exitReplies)
  else if s.ctx.voted then
    match s.waitingResult s.cur with
    | some _ => let s := s.leaveGroup s.cur; if s.quiet s.cur then s.exitEnd else .wait s .exitReplies
    | none => .wait s .exitVote
  else .is ((s.blockOn .exitVote []).sendArrival s.cur .leave)

/-- `exit` (R67): an ordering point; a claimed item is completed first (R331). -/
def execExit (s : State) : Out :=
  s.issue 0x11 .ordered [] fun s => s.ordered fun s =>
    if s.ctx.claims && !s.room 1 then .wait s (.outstanding [] [] 0 none) else s.completeItem.exitGroup

/-- `cwait` (R68). -/
def execCwait (d a : Field) (s : State) : Out :=
  s.issue 0x12 .free [.wG d, .rG 1 a] fun s =>
    match ctxOf (s.readG a).toNat with
    | some k =>
      if k.val = 0 || k == s.cur || !(s.at k).live then .done (s.writeG d 0) else .wait s (.cwait d k.val (s.at k).gen)
    | none => .done (s.writeG d 0)

/-! ### Turns and wakes (R69, R70) -/

/-- `yield`: the choice of R58 has already put the context last of its priority. -/
def execYield (s : State) : Out := s.issue 0x13 .stall [] fun s => .done s

/-- `prio`. -/
def execPrio (d a : Field) (s : State) : Out :=
  s.issue 0x1B .stall [.wG d, .rG 1 a] fun s =>
    let p : BitVec 2 := if (s.readG a).toNat ≤ 3 then (s.readG a).truncate 2 else 3
    let old := s.ctx.pri
    let t := s.writeG d (old.zeroExtend 64)
    .done (t.put { t.ctx with pri := p })

/-- `park`. -/
def execPark (s : State) : Out :=
  s.issue 0x14 .stall [] fun s => if s.ctx.token then .done (s.put { s.ctx with token := false }) else .wait s .park

/-- The effect of a `wake` on a context. -/
def State.wake (s : State) (k : Fin 11) : State :=
  let set := s.modifyAt k fun c => { c with token := true }
  if !(s.at k).live then s
  else
    match (s.at k).block with
    | some b =>
      (match b.wait with
       | .park => s.completeAt k
       | .grow d _ _ => (s.completeG k d 0).grant
       | .gang d _ _ => s.completeG k d 0
       | .idle => s.completeAt k
       | .wfi => s.completeAt k
       | _ => set)
    | none => set

/-- `wake`. -/
def execWake (a : Field) (s : State) : Out :=
  s.issue 0x15 .stall [.rG 1 a] fun s =>
    match ctxOf (s.readG a).toNat with
    | some k => .done (s.wake k)
    | none => .done s

/-! ### The allotment (R71 to R73) -/

/-- `grow`, blocking or not. -/
def State.growBody (s : State) (d : Field) (n v : Nat) (nb : Bool) : Effect :=
  let c := s.ctx
  let sn := max c.sn (n / 8)
  let vn := max c.vn (v / 8)
  if sn = c.sn ∧ vn = c.vn then .done (s.writeG d 1)
  else if !s.requestWaiting && s.fits (sn - c.sn) (vn - c.vn) then .done ((s.put (c.enlarge sn vn)).writeG d 1)
  else if nb then .done (s.writeG d 0)
  else .wait s (.grow d sn vn)

/-- `grow`. -/
def execGrow (d : Field) (n v : BitVec 6) (s : State) : Out :=
  s.issue 0x16 .stall [.wG d] fun s => s.growBody d n.toNat v.toNat false

/-- `grow.nb`. -/
def execGrowNb (d : Field) (n v : BitVec 6) (s : State) : Out :=
  s.issue 0x16 .stall [.wG d] fun s => s.growBody d n.toNat v.toNat true

/-- `shrink` (R72). -/
def execShrink (n v : BitVec 6) (s : State) : Out :=
  s.issue 0x17 .stall [] fun s =>
    let c := s.ctx
    if c.draining (min c.vn (v.toNat / 8)) then .wait s (.drain (min c.vn (v.toNat / 8)))
    else .done (s.put { c with sn := min c.sn (n.toNat / 8), vn := min c.vn (v.toNat / 8) }).grant

/-- `allot`. -/
def execAllot (d a : Field) (s : State) : Out :=
  s.issue 0x18 .free [.wG d, .rG 1 a] fun s =>
    match ctxOf (s.readG a).toNat with
    | some k => .done (s.writeG d (s.statusWord k))
    | none => .done (s.writeG d 0)

/-! ### Gangs (R62, R74) -/

/-- Another context of the core is forming a gang, or is in one; one that is in a gang itself may form anew. (DESIGN CHOICE: log entry 110.) -/
def State.gangBusy (s : State) : Bool :=
  allCtx.any fun i => i != s.cur && (s.at i).live && ((s.at i).gang.isSome || match (s.at i).block with
    | some ⟨.gang .., _, _⟩ => true
    | _ => false)

/-- The mask bit of the followed core. -/
def State.gangBit (s : State) (clus : Bool) : Nat := if clus then s.core % 16 else s.core % 4

/-- A `gang` form. -/
def State.gangBody (s : State) (d : Field) (mask : Nat) (clus : Bool) : Effect :=
  if !mask.testBit (s.gangBit clus) || (if clus then 16 else 4) < bitLen mask || s.gangBusy then
    .done (s.writeG d 0)
  else if mask = 2 ^ s.gangBit clus then
    let t := s.writeG d 1
    .done (t.put { t.ctx with gang := some ⟨clus, mask⟩ })
  else .wait s (.gang d clus mask)

/-- `gang.quad`. -/
def execGangQuad (d a : Field) (s : State) : Out :=
  s.issue 0x19 .stall [.wG d, .rG 1 a] fun s => s.gangBody d (s.readG a).toNat false

/-- `gang.clus`. -/
def execGangClus (d a : Field) (s : State) : Out :=
  s.issue 0x19 .stall [.wG d, .rG 1 a] fun s => s.gangBody d (s.readG a).toNat true

/-- The members of a mask below a bit: the rank. -/
def rankOf (mask bit : Nat) : Nat := ((List.range bit).filter mask.testBit).length

/-- The gang forms (R62): the waiting context becomes a member and receives 1 plus its rank. -/
def execGangFormed (s : State) : Out :=
  match allCtx.findSome? fun i => match (s.at i).live, (s.at i).block with
    | true, some ⟨.gang d clus mask, _, _⟩ => some (i, d, clus, mask)
    | _, _ => none with
  | none => .next s
  | some (i, d, clus, mask) =>
    .next ((s.modifyAt i fun c => { c with gang := some ⟨clus, mask⟩ }).completeG i d
      (BitVec.ofNat 64 (1 + rankOf mask (s.gangBit clus))))

/-- `split`. -/
def execSplit (s : State) : Out := s.issue 0x1A .stall [] fun s => .done (s.put { s.ctx with gang := none })

end Sys2Proof.Machine
end

