-- ==== Sys2Proof/Machine/Requests.lean ====
section
/-!
DEFINITION. The accesses of one scalar instruction, shared by every instruction that makes one: waited and posted plain
accesses (R158, R159, R160, R187), atomics (R173) and full-empty accesses (R163).
-/

namespace Sys2Proof.Machine

open Sys2Proof

/-- The message for a piece. REQ-A is for home and CXL space only (R156, R160). -/
def Piece.ask (p : Piece) (op : MemOp) (posted adaptive : Bool) : Msg :=
  ⟨p.va, p.ga, .access op, posted, adaptive && gaSpace p.ga < 2⟩

/-- Every answer of a list, if none is missing. -/
def everyOne {α : Type} : List (Option α) → Option (List α)
  | [] => some []
  | some x :: t => (everyOne t).map (x :: ·)
  | none :: _ => none

/-- The held bytes over the pieces of an access (R187). (DEDUCED: log entry 21.) -/
def heldOver (l : List Held) (base : Nat) : List Piece → List (Nat × Byte)
  | [] => []
  | p :: t => overlay false l base p.ga p.n ++ heldOver l (base + p.n) t

/-- A waited plain read of translated pieces, the address of which comes from these registers: held behind an adaptive store of the
context to one of its bytes (R161 rule 4); served by the data cache where it holds the line, by an early read (R192), or by the
home. (DESIGN CHOICE: log entry 11.) (DESIGN CHOICE: log entry 114.) -/
def State.readPieces (s : State) (regs : Option (List Nat)) (ps : List Piece) (k : After) : Effect :=
  let away := ps.filter fun p => (s.atHand regs p).isNone
  if s.overtakes (ps.map fun p => (p.ga, p.n)) then .is s.stall
  else if !s.roomFor (away.map fun p => p.ask (.read p.n) false false) then .wait s (.outstanding [] [] 0 none)
  else
    let a := s.askAll regs (ps.map fun p => (p, p.ask (.read p.n) false false))
    if a.2.2.length = a.2.1.length then a.1.settle k (a.2.2.map (·.2)) else .wait a.1 (.reply a.2.1 a.2.2 k)

/-- A plain load of `n` bytes (R169) from an address that these registers give. -/
def State.loadBytes (s : State) (regs : Option (List Nat)) (op : Nat) (ea : Word) (n : Nat) (k : List Nat → List (Nat × Byte) → After) : Effect :=
  match s.translateAll .load op 0 (.plain n) (pieces 9 ea n) with
  | .error e => .trap e
  | .ok ps => (s.installAll ps).readPieces regs ps (k (ps.map (·.n)) (heldOver s.ctx.hold 0 ps))

/-- Bytes cut to the pieces they go to, each with its distance from the piece's address. -/
def cutTo (bs : List Byte) : List Piece → List (Piece × List (Nat × Byte))
  | [] => []
  | p :: t => (p, (bs.take p.n).zipIdx.map fun (b : Byte × Nat) => (b.2, b.1)) :: cutTo (bs.drop p.n) t

/-- Posted messages are sent; a failure at the core's own slice is a precise trap (R159), and pieces already performed
stand. The context waits for what the own slice has still to perform. -/
def State.postEffect (s : State) (ms : List Msg) : Effect :=
  if !s.roomFor ms then .wait s (.outstanding [] [] 0 none)
  else
    match s.postAll ms with
    | (t, _, some (.fail c sub info _)) => .is (t.raise ⟨c, sub, none, info, none⟩)
    | (t, [], _) => .done t
    | (t, ids, _) => .wait t (.reply ids [] .nothing)

/-- The lowest byte of a partial write of a word of the own slice with an error, which no held store of the context covers before
(R167, R309): the fault is precise. -/
def State.heldFailure (s : State) (ga : Nat) (bytes : List (Nat × Byte)) : Option Nat :=
  if !s.ownSlice ga then none
  else
    (bytes.find? fun p =>
      let w := s.moved (ga + p.1) / 8
      s.mem.poison.contains w && !covered (s.moved ga) bytes w &&
        !((List.range 8).all fun i => (heldByte false ((ga + p.1) / 8 * 8 + i) s.ctx.hold).isSome)).map (·.1)

/-- A plain store of translated pieces: to the hold buffer in a window and while the buffer drains (R309), else sent. -/
def State.storePieces (s : State) (l : List (Piece × List (Nat × Byte))) (adaptive : Bool) : Effect :=
  if s.ctx.holds then
    if l.any fun p => (s.heldFailure p.1.ga p.2).isSome then .trap ⟨17, 0, none, 0, none⟩
    else if s.holdFull 1 then .wait s (.holdRoom 1)
    else .done (s.hold (l.zipIdx.map fun p =>
      ⟨false, p.1.1.ga, p.1.1.va, s.ctx.pc, p.1.2, adaptive && gaSpace p.1.1.ga < 2, p.2 == 0⟩))
  else if s.overtakes (l.map fun p => (p.1.ga, p.1.n)) then .is s.stall
  else s.postEffect (l.map fun p => p.1.ask (.write p.2) true adaptive)

/-- A plain store of the `n` low bytes of `v` (R169). -/
def State.storeBytes (s : State) (op : Nat) (ea : Word) (n : Nat) (v : Word) (adaptive : Bool) : Effect :=
  match s.translateAll .store op 0 (.plain n) (pieces 9 ea n) with
  | .error e => .trap e
  | .ok ps => (s.installAll ps).storePieces (cutTo (bytesOf v.toNat n) ps) adaptive

/-- An address with its low bits ignored. -/
def alignDown (a : Word) (n : Nat) : Word := BitVec.ofNat 64 (a.toNat / n * n)

/-- An access of one aligned word: an atomic, or a full-empty access. -/
def State.wordAccess (s : State) (op : Nat) (ea : Word) (n : Nat) (kind : Access) (r : Reach) (f : State → Piece → Effect) :
    Effect :=
  match s.translateAll kind op 0 r [(alignDown ea n, n)] with
  | .error e => .trap e
  | .ok ps =>
    match ps with
    | p :: _ =>
      let s := s.installAll ps
      if s.overtakes [(p.ga, n)] then .is s.stall else f s p
    | [] => .done s

/-- An atomic (R173): posted, or waited for its old value. -/
def State.atomic (s : State) (op : Nat) (ea : Word) (n : Nat) (mop : MemOp) (posted : Bool) (k : After) : Effect :=
  s.wordAccess op ea n .atomic .memory fun s p =>
    if posted then s.postEffect [p.ask mop true false] else s.await [p.ask mop false false] k

/-- The messages of a full-empty access are sent (R163): the context waits until it is performed. -/
def State.awaitFull (s : State) (ms : List Msg) (k : After) : Effect :=
  if !s.roomFor ms then .wait s (.outstanding [] [] 0 none)
  else
    let a := s.sendAll ms
    if a.2.2.length = a.2.1.length then a.1.settle k (a.2.2.map (·.2)) else .wait a.1 (.fe a.2.1 a.2.2 k)

/-- How many messages of its instruction a context that waited for outstanding accesses has sent. -/
def Ctx.sentBefore (c : Ctx) : Nat :=
  match c.block with
  | some ⟨.outstanding _ _ first _, _, _⟩ => first
  | _ => 0

end Sys2Proof.Machine
end

