-- ==== Sys2Proof/Machine/Fences.lean ====
section
/-!
DEFINITION. Fences, barriers and the instructions that fetch anew (R193 to R212).
-/

namespace Sys2Proof.Machine

open Sys2Proof

/-! ### Fences (R193 to R196) -/

/-- The wait of a fence that waits for stores to homes within a scope, and for engine commands too if `eng` (R195); then the
ordering point. (DEDUCED: log entry 62.) -/
def State.fence (s : State) (eng : Bool) (scope : Nat) (body : State → Effect) : Effect :=
  if s.storesClear s.cur scope && (!eng || s.enginesClear s.cur) then s.ordered body else .wait s (.order eng scope)

/-- `fence.ld`: no read performed early before it serves after it (R192), and none is held back. -/
def execFenceLd (_s0 : BitVec 4) (s : State) : Out := s.issue 0x90 .ordered [] fun s => s.ordered fun s => .done s
/-- `fence.st`. -/
def execFenceSt (s0 : BitVec 4) (s : State) : Out := s.issue 0x90 .ordered [] fun s => s.fence false s0.toNat fun s => .done s
/-- `fence`. -/
def execFence (s0 : BitVec 4) (s : State) : Out := s.issue 0x90 .ordered [] fun s => s.fence false s0.toNat fun s => .done s
/-- `fence.eng`. -/
def execFenceEng (s0 : BitVec 4) (s : State) : Out := s.issue 0x90 .ordered [] fun s => s.fence true s0.toNat fun s => .done s

/-! ### Barriers (R201 to R204) -/

/-- The field that governs an arrival now: that of the running episode, or BARCFG's. -/
def State.governing (s : State) (scope : Nat) : Nat :=
  if (s.barrier scope).idle then s.barField scope else (s.barrier scope).field

/-- A barrier at a scope: the fence, and then the arrival, with a value to reduce if there is one. -/
def State.arriveAt (s : State) (srcs : List Nat) (scope : Nat) (v : Option (Field × RedOp × Word)) : Effect :=
  s.fence false scope fun s =>
    if scope = 0 || s.governing scope = 0 then
      .done (match v with | some (d, _, x) => s.writeG d x | none => s)
    else .is ((s.blockOn (.bar scope v) srcs).arrivedNow scope)

/-- `bar`. -/
def execBar (s0 : BitVec 4) (s : State) : Out := s.issue 0x91 .ordered [] fun s => s.arriveAt [] s0.toNat none

/-- A `barv`. -/
def barv (op : RedOp) (d a : Field) (scope : BitVec 4) (s : State) : Out :=
  s.issue 0x92 .ordered [.wG d, .rG 1 a] fun s =>
    s.arriveAt (sources [.rG 1 a]) scope.toNat (some (d, op, s.readG a))

/-- `barv.add`. -/
def execBarvAdd (d a : Field) (s0 : BitVec 4) (s : State) : Out := barv .add d a s0 s
/-- `barv.min`. -/
def execBarvMin (d a : Field) (s0 : BitVec 4) (s : State) : Out := barv .min d a s0 s
/-- `barv.max`. -/
def execBarvMax (d a : Field) (s0 : BitVec 4) (s : State) : Out := barv .max d a s0 s
/-- `barv.minu`. -/
def execBarvMinu (d a : Field) (s0 : BitVec 4) (s : State) : Out := barv .minu d a s0 s
/-- `barv.maxu`. -/
def execBarvMaxu (d a : Field) (s0 : BitVec 4) (s : State) : Out := barv .maxu d a s0 s
/-- `barv.and`. -/
def execBarvAnd (d a : Field) (s0 : BitVec 4) (s : State) : Out := barv .and d a s0 s
/-- `barv.or`. -/
def execBarvOr (d a : Field) (s0 : BitVec 4) (s : State) : Out := barv .or d a s0 s
/-- `barv.xor`. -/
def execBarvXor (d a : Field) (s0 : BitVec 4) (s : State) : Out := barv .xor d a s0 s

/-- Another core's signal, with the values its `barv`s contribute. -/
def execBarrierArrival (scope : BitVec 4) (core : BitVec 29) (vals : List (RedOp × Word)) (s : State) : Out :=
  if core = s.lcore || (s.barrier scope.toNat).others.contains core.toNat then .next s
  else .next (s.setBarrier scope.toNat fun b => { b with others := setIn b.others core.toNat, vals := b.vals ++ vals })

/-- The release of an episode reaches the core; a core that has not signalled takes no part in one. (DEDUCED: log entry 63.) -/
def execBarrierRelease (scope : BitVec 4) (s : State) : Out :=
  .next (if (s.barrier scope.toNat).signalled then s.release scope.toNat else s)

/-! ### Fetch and translation (R209 to R211) -/

/-- A length that takes in every line (R209). -/
def everyLine : Nat := 2 ^ 20

/-- The core discards its fetched lines of a range. A context that is executing a line finishes it. (DEDUCED: log entry 84.) -/
def State.dropLines (s : State) (base len : Nat) : State :=
  { s with lines := s.lines.filter fun l =>
      !(everyLine ≤ len || (len != 0 && base < l.va.toNat + 64 && l.va.toNat < base + len)) }

/-- `icinv`. (DEDUCED: log entry 84.) -/
def execIcinv (a b : Field) (s0 : BitVec 4) (s : State) : Out :=
  s.issue 0x93 .ordered [.rG 1 a, .rG 2 b] fun s =>
    let scope := if s0 = 0 then 1 else if s0 = 9 then 8 else s0.toNat
    s.fence false scope fun s =>
      s.await [⟨s.readG a, multicastHome, .discard (s.readG a) (s.readG b) scope, false, false⟩] .nothing

/-- The discard of another core's `icinv` (R209): done and acknowledged. -/
def execIcinvDiscard (base len : Word) (s : State) : Out :=
  .next { s.dropLines base.toNat len.toNat with sent := s.sent ++ [.invalidated base len] }

/-- `dsync`. -/
def execDsync (s : State) : Out := s.issue 0x94 .ordered [] fun s => s.fence true everyAccess fun s => .done s

/-- `tsync`: the table root that PTB holds takes effect, and the next instruction is fetched anew. (DEDUCED: log entry 81.) -/
def execTsync (s : State) : Out :=
  s.issue 0x95 .ordered [] fun s => s.fence false 9 fun s =>
    .is (s.put { s.ctx.advance with root := s.regs.ptb, line := none })

end Sys2Proof.Machine
end

