-- ==== Sys2Proof/Machine/System.lean ====
section
/-!
DEFINITION. The system instructions (R337 to R371): traps and the return, control registers, invalidation of translations,
waits, service requests, migration requests, and saving and restoring contexts and the core.
-/

namespace Sys2Proof.Machine

open Sys2Proof

/-! ### Traps and the return (R347, R348, R350) -/

/-- `nop` (R42). -/
def execNop (s : State) : Out := s.issue 0x01 .free [] fun s => .done s

/-- `trap` (R347): EPC and FADDR by R341. -/
def execTrap (a : Field) (code : BitVec 10) (s : State) : Out :=
  s.issue 0x02 .free [.rG 1 a] fun s =>
    if s.readG a = 0 then .done s else .trap ⟨11, 0, none, code.zeroExtend 64, none⟩

/-- `sysc` (R347). -/
def execSysc (code : BitVec 10) (s : State) : Out :=
  s.issue 0x03 .free [] fun _ => .trap ⟨12, 0, none, code.zeroExtend 64, none⟩

/-- `rte` (R348): an ordering point, then the check of EPC, then the return. -/
def execRte (s : State) : Out :=
  s.issueP 0x04 .stall [] fun s => s.ordered fun s =>
    match s.checkTarget s.ctx.epc with
    | some e => .trap e
    | none => .is (s.put s.ctx.fromTrap)

/-- `wfi` (R350). (DEDUCED: log entry 79.) -/
def execWfi (s : State) : Out :=
  s.issue 0x08 .free [] fun s =>
    if s.ctx.pendingBit || s.ctx.token then .done (s.put { s.ctx with token := false }) else .wait s .wfi

/-! ### Control registers (R338, R349) -/

/-- POOL (R56). -/
def State.pool (s : State) : Word := BitVec.ofNat 64 (s.vfree * 256 + s.sfree)

/-- A control register by its number, as the issuing context reads it. -/
def State.creg (s : State) (n : Nat) : Word :=
  if n < 0x13 then s.ctx.creg s.cur n
  else if 0x50 ≤ n ∧ n < 0x58 then nth s.regs.tshape (n - 0x50) 0
  else if 0x58 ≤ n ∧ n < 0x5C then nth s.regs.acfg (n - 0x58) 0
  else if 0x102 ≤ n ∧ n < 0x10A then nth s.units.wfa (n - 0x102) 0
  else if 0x10A ≤ n ∧ n < 0x112 then nth s.units.wfm (n - 0x10A) 0
  else
    match n with
    | 0x40 => s.regs.tvec | 0x41 => s.regs.ptb | 0x42 => s.regs.lcore | 0x43 => s.regs.jobseed | 0x44 => s.pool
    | 0x45 => s.regs.gdivcnt | 0x46 => s.regs.chmode | 0x47 => s.regs.rnrbase | 0x48 => s.regs.rnrlim | 0x49 => s.regs.barcfg
    | 0x4A => s.regs.lodcnt | 0x4B => BitVec.ofNat 64 s.eng.kicks.length | 0x4C => s.regs.packKept | 0x4D => s.regs.semstat
    | 0x4E => s.regs.engseq | 0x4F => s.regs.bankcnt | 0x5C => s.regs.mseq | 0x5D => s.regs.mcap | 0x5E => s.regs.belladd
    | 0x5F => s.regs.fillcnt | 0x60 => s.regs.objbase | 0x61 => s.regs.evbase | 0x62 => s.regs.etime | 0x63 => s.regs.etcfg
    | 0x64 => s.regs.esnap | 0x65 => s.regs.evseq | 0x66 => s.regs.tcpl | 0x67 => s.regs.taskstat | 0x68 => s.regs.forecast
    | 0x100 => s.units.clkrate | 0x101 => s.units.sdseq | 0x112 => s.units.dumpaddr | 0x140 => s.units.rampup
    | 0x141 => s.units.rampdn | 0x180 => s.units.pcyc
    | _ => 0

/-- A read that needs level 1. -/
def readPriv (n : Nat) : Bool :=
  n ≤ 0x004 || n == 0x012 || n == 0x040 || n == 0x041 || (0x102 ≤ n && n ≤ 0x112)

/-- A write that needs level 1, of a register without a row of its own. -/
def writePriv (n : Nat) : Bool :=
  n ≤ 0x004 || n == 0x012 || (0x040 ≤ n && n ≤ 0x043) || n == 0x060 || n == 0x061 || n == 0x066 || (0x102 ≤ n && n ≤ 0x111)

/-- `rdc` (R349). -/
def execRdc (d : Field) (n : BitVec 10) (s : State) : Out :=
  .next (s.run 0x05 .free [.wG d] (readPriv n.toNat) fun s => .done (s.writeG d (s.creg n.toNat)))

/-- Bits of a value. -/
def keep (v : Word) (mask : Nat) : Word := v &&& BitVec.ofNat 64 mask

/-- A field whose writes below a least value are ignored (R165). -/
def fieldWrite (old v : Word) (width least : Nat) : Word :=
  if v.bits 0 width < least then old else BitVec.ofNat 64 (v.bits 0 width)

/-- Change the core's registers. -/
def State.withRegs (s : State) (f : CoreRegs → CoreRegs) : State := { s with regs := f s.regs }

/-- A write, field by field, of a register without a row of its own; other numbers ignore it. -/
def State.setCreg (s : State) (n : Nat) (v : Word) : State :=
  let c := s.ctx
  if 0x102 ≤ n ∧ n < 0x10A then
    { s with units := { s.units with wfa := upd s.units.wfa (n - 0x102) (keep v (2 ^ 64 - 1 - 0x38)) } }
  else if 0x10A ≤ n ∧ n < 0x112 then { s with units := { s.units with wfm := upd s.units.wfm (n - 0x10A) v } }
  else
    match n with
    | 0x001 => s.put { c with cause := keep v 0xE00000000000FFFF }
    | 0x002 => s.put { c with epc := v }
    | 0x003 => s.put { c with faddr := v }
    | 0x004 => s.put { c with finfo := v }
    | 0x008 => s.put { c with srcount := v }
    | 0x009 => s.put { c with vstart := keep v 63 }
    | 0x00C => s.put { c with ctimeo := keep v 0xFFFFFF }
    | 0x012 => s.put { c with hscr := v }
    | 0x040 => s.withRegs fun r => { r with tvec := keep v (2 ^ 64 - 2) }
    | 0x041 => s.withRegs fun r => { r with ptb := keep v (2 ^ 64 - 2 ^ 12) }
    | 0x042 => s.withRegs fun r => { r with lcore := keep v (2 ^ 29 - 1) }
    | 0x043 => s.withRegs fun r => { r with jobseed := v }
    | 0x045 => s.withRegs fun r => { r with gdivcnt := keep v (2 ^ 32 - 1) }
    | 0x047 => s.withRegs fun r => { r with rnrbase := fieldWrite r.rnrbase v 12 10 }
    | 0x048 => s.withRegs fun r => { r with rnrlim := fieldWrite r.rnrlim v 8 1 }
    | 0x04A => s.withRegs fun r => { r with lodcnt := v }
    | 0x04C => s.withRegs fun r => { r with packKept := keep v (2 ^ 32 - 1) }
    | 0x04F => s.withRegs fun r => { r with bankcnt := keep v (2 ^ 32 - 1) }
    | 0x05D => s.withRegs fun r => { r with mcap := keep v (2 ^ 32 - 1) }
    | 0x05E => s.withRegs fun r => { r with belladd := keep v (2 ^ 32 - 1) }
    | 0x05F => s.withRegs fun r => { r with fillcnt := keep v (2 ^ 32 - 1) }
    | 0x060 => s.withRegs fun r => { r with objbase := keep v 0xFF0000 }
    | 0x061 => s.withRegs fun r => { r with evbase := keep v 0xE00000 }
    | 0x066 => s.withRegs fun r => { r with tcpl := keep v (2 ^ 64 - 2 ^ 5) }
    | 0x067 => s.withRegs fun r => { r with taskstat := v }
    | _ => s

/-- `wrc` of a register without a row of its own (R349). -/
def execWrc (a : Field) (n : BitVec 10) (s : State) : Out :=
  .next (s.run 0x06 .stall [.rG 1 a] (writePriv n.toNat) fun s => .done (s.setCreg n.toNat (s.readG a)))

/-- STATUS after a write (R337): PIE, IE and PPL are written, NEST is cleared by a 1. -/
def statusWrite (old v : Word) : Word :=
  let st := old.setBits 1 3 (v.bits 1 3)
  if v.bit 7 then putBit st 7 false else st

/-- `wrc STATUS`. -/
def execWrcStatus (a : Field) (s : State) : Out :=
  s.issueP 0x06 .stall [.rG 1 a] fun s => .done (s.put { s.ctx with status := statusWrite s.ctx.status (s.readG a) })

/-- FRM after a write (R115). -/
def frmWrite (old v : Word) : Word :=
  (keep v 0x1F08).setBits 0 3 (if 4 < v.bits 0 3 then old.bits 0 3 else v.bits 0 3)

/-- `wrc FRM`. -/
def execWrcFrm (a : Field) (s : State) : Out :=
  s.issue 0x06 .stall [.rG 1 a] fun s => .done (s.put { s.ctx with frm := frmWrite s.ctx.frm (s.readG a) })

/-- `wrc DTIME` (R345). (DEDUCED: log entry 78.) -/
def execWrcDtime (a : Field) (s : State) : Out :=
  s.issue 0x06 .stall [.rG 1 a] fun s =>
    let v := s.readG a
    if v != 0 && v.toNat ≤ s.units.pcyc.toNat then
      .done (s.put { s.ctx with dtime := 0, status := putBit s.ctx.status 9 true })
    else .done (s.put { s.ctx with dtime := v })

/-- The entries of the core's channels after a change of CHMODE (R61). (DESIGN CHOICE: log entry 15.) -/
def State.survivors (s : State) : Vector (List VWord) 8 :=
  .ofFn fun c => ((s.chans[c].zipIdx).filter fun e => Config.survives s.tick (c.val * Config.channelDepth + e.2)).map (·.1)

/-- `wrc CHMODE` (R59, R61): a value without a meaning leaves the mode. (DESIGN CHOICE: log entry 15.) -/
def execWrcChmode (a : Field) (s : State) : Out :=
  s.issue 0x06 .stall [.rG 1 a] fun s =>
    let m := (s.readG a).bits 0 2
    if 2 ≤ m || m == s.regs.chmode.bits 0 2 then .done s
    else .done { s with regs := { s.regs with chmode := BitVec.ofNat 64 m }, chans := s.survivors }

/-- BARCFG after a write (R201). -/
def barcfgWrite (old v : Word) : Word :=
  (List.range 8).foldl (fun w i => if v.bits (4 * i) 4 < 12 then w.setBits (4 * i) 4 (v.bits (4 * i) 4) else w) old

/-- `wrc BARCFG`. -/
def execWrcBarcfg (a : Field) (s : State) : Out :=
  s.issueP 0x06 .stall [.rG 1 a] fun s => .done (s.withRegs fun r => { r with barcfg := barcfgWrite r.barcfg (s.readG a) })

/-- `wrc SEMSTAT` (R240). -/
def execWrcSemstat (a : Field) (s : State) : Out :=
  s.issue 0x06 .stall [.rG 1 a] fun s =>
    .done (if (s.readG a).bit 8 then s.withRegs fun r => { r with semstat := putBit r.semstat 8 false } else s)

/-- The most columns of an element width (R214). -/
def mostCols (ew : Nat) : Nat := 128 / 2 ^ ew

/-- TSHAPE after a write (R214): EW first, then COLS against the new EW. -/
def tshapeWrite (old v : Word) : Word :=
  let ew := if shapeEw v = 3 then shapeEw old else shapeEw v
  let cols := if shapeCols v = 0 then shapeCols old else shapeCols v
  let rows := if shapeRows v = 0 || 64 < shapeRows v then shapeRows old else shapeRows v
  BitVec.ofNat 64 (ew * 2 ^ 16 + min cols (mostCols ew) * 2 ^ 8 + rows)

/-- A queued matrix command names a tile. (DEDUCED: log entry 60.) -/
def State.tileNamed (s : State) (t : Nat) : Bool :=
  s.mx.queue.any fun c => (c.what.readsTiles c.op.toNat).contains t || c.what.writesTile == some t

/-- `wrc TSHAPEn`: held at issue while a queued or unfinished command names the tile. (DEDUCED: log entry 60.) -/
def execWrcTshape (a : Field) (t : BitVec 3) (s : State) : Out :=
  s.issue 0x06 .stall [.rG 1 a] fun s =>
    if s.tileNamed t.toNat then .is s.stall
    else .done (s.withRegs fun r => { r with tshape := upd r.tshape t.toNat (tshapeWrite (s.shape t.toNat) (s.readG a)) })

/-- ACFG after a write (R215). -/
def acfgWrite (old v : Word) : Word := (keep (old &&& ~~~v) 0xF0) ||| keep v 3

/-- `wrc ACFGk` (R215, R217). -/
def execWrcAcfg (a : Field) (k : BitVec 2) (s : State) : Out :=
  s.issue 0x06 .stall [.rG 1 a] fun s =>
    match s.owners k.toNat with
    | c :: _ => .trap (accBusy k.toNat 0x06 c)
    | [] => .done (s.withRegs fun r => { r with acfg := upd r.acfg k.toNat (acfgWrite (s.acfg k.toNat) (s.readG a)) })

/-- `wrc ETCFG` (R261, R414). -/
def execWrcEtcfg (a : Field) (s : State) : Out :=
  s.issue 0x06 .stall [.rG 1 a] fun s =>
    .done ((s.withRegs fun r => { r with etcfg := r.etcfg.setBits 0 16 ((s.readG a).bits 0 16) }).withDrone fun d => { d with phase := 0 })

/-- FORECAST as it is written (R320). -/
def forecastWrite (v : Word) : Word :=
  BitVec.ofNat 64 ((if 11 < v.bits 16 8 then 11 else v.bits 16 8) * 2 ^ 16 + v.bits 0 16)

/-- `wrc FORECAST`. -/
def execWrcForecast (a : Field) (s : State) : Out :=
  s.issue 0x06 .stall [.rG 1 a] fun s => .done (s.withRegs fun r => { r with forecast := forecastWrite (s.readG a) })

/-- `wrc RAMPUP` (R236). -/
def execWrcRampup (a : Field) (s : State) : Out :=
  s.issueP 0x06 .stall [.rG 1 a] fun s => .done { s with units := { s.units with rampup := s.readG a } }

/-- `wrc RAMPDN` (R236). -/
def execWrcRampdn (a : Field) (s : State) : Out :=
  s.issueP 0x06 .stall [.rG 1 a] fun s => .done { s with units := { s.units with rampdn := s.readG a } }

/-! ### Invalidation of translations (R358, R359) -/

/-- The length that takes in every page. -/
def everything : Word := BitVec.allOnes 64

/-- `tlbinv`: the store fence, the ordering point, and the invalidation, which the context waits for. Scope `ctx` acts as
`core` and `host` as `sys`. (DEDUCED: log entry 61.) -/
def State.tlbinv (s : State) (base len : Word) (scope : BitVec 4) : Effect :=
  if !s.storesClear s.cur 9 then .wait s (.order false 9)
  else s.ordered fun s =>
    let sc := if scope = 0 then 1 else if scope = 9 then 8 else scope.toNat
    let s : State := { s with units := { s.units with sdseq := s.units.sdseq + 1 } }
    s.await [⟨base, multicastHome, .shootdown base len sc, false, false⟩] .nothing

/-- `tlbinv`. -/
def execTlbinv (a b : Field) (s0 : BitVec 4) (s : State) : Out :=
  s.issueP 0x07 .stall [.rG 1 a, .rG 2 b] fun s => s.tlbinv (s.readG a) (s.readG b) s0

/-- `tlbinv.all`. -/
def execTlbinvAll (s0 : BitVec 4) (s : State) : Out :=
  s.issueP 0x07 .stall [] fun s => s.tlbinv 0 everything s0

/-! ### Requests to the host, the memory cores and the management core (R351, R352, R361) -/

/-- The host as a home (R200). -/
def hostHome : Nat := 3 * 2 ^ 62

/-- `hcall` (R351). -/
def execHcall (d a b : Field) (s : State) : Out :=
  s.issueP 0x09 .stall [.wG d, .rG 1 a, .rG 2 b] fun s =>
    let m : Message := .hcall ((s.readG a).truncate 16) (s.readG b) (BitVec.ofNat 4 s.cur.val) s.ctx.gen s.ticket
    let r := s.send ⟨0, hostHome, m, true, false⟩
    .done ({ r.1 with ticket := s.ticket + 1 }.writeG d (s.ticket.zeroExtend 64))

/-- `migr` (R361): the request goes to the memory core of the CXL-side frame. (DEDUCED: log entry 39.) -/
def execMigr (d a b : Field) (se : Bool) (x : BitVec 8) (s : State) : Out :=
  s.issueP 0x0A .stall [.wG d, .rG 1 a, .rG 2 b] fun s =>
    let va := s.readG a
    let new := (s.readG b).toNat
    match s.translate s.cur va 1 .store 0x0A 0 with
    | .error e => .trap e
    | .ok t =>
      let s := s.install t.x
      let old := leafFrame t.x.leaf
      let size := t.x.size
      if t.x.level = 2 || new % size != 0 || 2 ≤ gaSpace new || (gaSpace old != 1 && gaSpace new != 1) ||
          !homeAligned new then .trap ownRule
      else
        let first := va.toNat / size * size
        let leaf := (walkLeaf s.mem va.toNat walkLevels (s.ctx.root.toNat / 2 ^ 12 * 2 ^ 12)).getD 0
        let m : MigReq := ⟨BitVec.ofNat 64 first, leaf, old, new, if t.x.level = 3 then 21 else 16,
          if se then some x else none, s.lcore⟩
        s.await [⟨va, if gaSpace old = 1 then old else new, .migrate m, false, false⟩] (.write d)

/-- `resync` (R352). -/
def execResync (d a : Field) (s : State) : Out :=
  s.issueP 0x0D .stall [.wG d, .rG 1 a] fun s =>
    match s.translate s.cur (s.readG a) 1 .store 0x0D 0 with
    | .error e => .trap e
    | .ok t =>
      if t.ga % 4096 != 0 || 2 ≤ gaSpace t.ga then .trap ownRule
      else (s.install t.x).await [⟨s.readG a, managementHome, .resync (BitVec.ofNat 64 t.ga), false, false⟩] (.write d)

/-! ### Context images (R363 to R366) -/

/-- The image of `n` bytes at an address: translated, aligned, in the own slice. -/
def State.imageFor (s : State) (va : Word) (n : Nat) (k : Access) (op : Nat) : Except TrapInfo (State × Nat) :=
  match s.translate s.cur va 1 k op 0 with
  | .error e => .error e
  | .ok t => if t.ga % n != 0 || !s.ownSlice t.ga then .error ownRule else .ok (s.install t.x, t.ga)

/-- `ssave` (R365): another context is brought to its quiet point, and the save ends there. (DEDUCED: log entry 57.) -/
def execSsave (d a b : Field) (s : State) : Out :=
  s.issueP 0x0B .stall [.wG d, .rG 1 a, .rG 2 b] fun s =>
    match s.imageFor (s.readG b) 4096 .store 0x0B with
    | .error e => .trap e
    | .ok (s, ga) =>
      match ctxOf (s.readG a).toNat with
      | none => .done (s.writeG d 0)
      | some k =>
        if k == s.cur then
          let t := (s.writeImage ga (s.writeG d 2).ctx.advance.recorded s.cur).endTrace s.cur 14
          .done (((t.setAside s.cur ga false).moveGaps s.cur.val (imageKey ga)).writeG d 1)
        else if !(s.at k).live then .done (s.writeG d 0)
        else .wait (s.bringQuiet k) (.save d k ga)

/-- `srest` (R366): into a free context, or in place of the issuing one. (DEDUCED: log entry 57.) -/
def execSrest (d a b : Field) (s : State) : Out :=
  s.issueP 0x0C .stall [.wG d, .rG 1 a, .rG 2 b] fun s =>
    match s.imageFor (s.readG b) 4096 .load 0x0C with
    | .error e => .trap e
    | .ok (s, ga) =>
      match ctxOf (s.readG a).toNat with
      | none => .done (s.writeG d 0)
      | some k =>
        if k != s.cur && (s.at k).live then .done (s.writeG d 0)
        else if !s.imageOk ga then .trap ⟨13, 0, none, 5, none⟩
        else if s.requestWaiting || !s.fitsFor k (s.imageSn ga) (s.imageVn ga) then .wait s (.restore d k.val ga)
        else if k == s.cur then .is (s.takeImage k ga).grant
        else .done ((s.takeImage k ga).writeG d 1)

/-! ### Core images (R367, R368) -/

/-- Where an image says which internal sections are its own. -/
def insideAt : Nat := 0x7FF8

/-- The notices of `kick` as an image holds them. -/
def Notice.words (n : Notice) : List Word :=
  [n.ga, BitVec.ofNat 64 (n.len.toNat + n.ack.toNat * 2 ^ 24 + n.sem.toNat * 2 ^ 32), n.sender.zeroExtend 64, 0]

def noticeOf (w0 w1 w2 : Word) : Notice :=
  ⟨w0, w1.truncate 24, w1.bit 24, BitVec.ofNat 8 (w1.bits 32 8), w2.truncate 29⟩

/-- Write words one after the other. -/
def State.pokeWords (s : State) (a : Nat) (l : List Word) : State :=
  (l.zipIdx).foldl (fun s w => s.poke (a + 8 * w.2) 8 w.1.toNat) s

/-- The first entry of each return queue in an image, in doublewords from q4's. -/
def retPlace (q : Nat) : Nat := if q = 4 then 0 else if q = 5 then 16 else if q = 6 then 80 else 96

/-- The sections of an image that the specification lays out. (DESIGN CHOICE: log entry 58.) -/
def State.writeCore (s : State) (a : Nat) : State :=
  let s := (List.range 0x29).foldl (fun t k => t.poke (a + 8 * k) 8 (s.creg (0x40 + k)).toNat) s
  let s := (List.range 256).foldl (fun t k => t.poke (a + 0x600 + 2 * k) 2 (s.sem k)) s
  let s := (List.range 64).foldl (fun t k => t.pokeWords (a + 0x1000 + 128 * k) (nth s.eng.layouts k (.replicate 16 0)).toList) s
  let s := (List.range 4).foldl (fun t q =>
    let l := nth s.eng.ret q []
    (t.pokeWords (a + 0x3000 + 8 * retPlace (q + 4)) l).poke (a + 0x3400 + 4 * q) 4 l.length) s
  let s := s.pokeWords (a + 0x3410)
    [s.drone.late, s.drone.stale, s.drone.drop, s.drone.snaplate, s.drone.sent, s.drone.received]
  let s := s.pokeWords (a + 0x3500) (s.eng.kicks.flatMap Notice.words)
  let s := (List.range 4).foldl (fun t c => t.pokeWords (a + 0x3800 + 32 * c) ((nth s.chans c []).map (·.truncate 64))) s
  (List.range 4).foldl (fun t c => ((nth s.chans (4 + c) []).zipIdx).foldl (fun t e =>
    t.poke (a + 0x3880 + 256 * c + 64 * e.2) 64 e.1.toNat) t) s

/-- The run-list entries go back to the heads of their chains (R321), each linked to the next. -/
def State.unlist (s : State) : State :=
  priorities.foldl (fun s p =>
    let all := nth s.tasks.lists p [] ++ nth s.tasks.chains p []
    let s := (all.zip (all.drop 1)).foldl (fun s e => s.poke (e.1 + 32) 8 (putBits (s.taskWord e.1 4) 0 24 (gaOffset e.2))) s
    { s with tasks := ⟨upd s.tasks.lists p [], upd s.tasks.chains p all⟩ }) s

/-- What the internal sections hold. (DESIGN CHOICE: log entry 58.) -/
def State.inside (s : State) : CoreInside where
  groups := s.groups
  handlers := s.drone.handlers
  chains := s.tasks.chains
  channels := .ofFn fun c => s.chans[c].length
  copy := s.eng.copy
  gather := s.eng.gather
  event := s.eng.event
  matrix := s.mx.queue

/-- `ssave.core` waits: a started matrix command has not completed, or an event command's message is on its way. -/
def State.draining (s : State) : Bool :=
  s.mx.queue.any (·.started) || s.eng.event.any (·.req.isSome)

/-- `ssave.core` (R368): the commands move into the image. (DEDUCED: log entry 60.) -/
def execSsaveCore (d b : Field) (s : State) : Out :=
  s.issueP 0x0B .stall [.wG d, .rG 2 b] fun s =>
    match s.imageFor (s.readG b) 32768 .store 0x0B with
    | .error e => .trap e
    | .ok (s, ga) =>
      if s.draining then .is s.stall
      else
        let s := s.unlist
        let x := s.inside
        let s := (s.writeCore ga).poke (ga + insideAt) 8 (s.images.length + 1)
        let s := s.withEng fun e => { e with copy := [], gather := [], event := [] }
        let s := s.withMx fun m => { m with queue := [] }
        .done ({ s with images := s.images ++ [x], launch := { s.launch with image := ga } }.writeG d 1)

/-- `ssave.ack` (R369). -/
def execSsaveAck (d : Field) (s : State) : Out :=
  s.issueP 0x0B .stall [.wG d] fun s =>
    let running := s.eng.copy.any (·.started) || s.eng.gather.any (·.started) || s.eng.event.any (·.started) ||
      s.mx.queue.any (·.started)
    if s.inFlight != 0 || running then .done (s.writeG d 0)
    else .done ({ s with launch := { s.launch with acked := true } }.writeG d 1)

/-- The core registers of an image; reserved bits are ignored (R4). -/
def CoreRegs.load (r : CoreRegs) (w : Nat → Word) : CoreRegs :=
  let m (n mask : Nat) : Word := keep (w (n - 0x40)) mask
  { r with
    tvec := m 0x40 (2 ^ 64 - 2), ptb := m 0x41 (2 ^ 64 - 2 ^ 12), lcore := m 0x42 (2 ^ 29 - 1), jobseed := w 3
    gdivcnt := m 0x45 (2 ^ 32 - 1), chmode := m 0x46 3, rnrbase := m 0x47 0xFFF, rnrlim := m 0x48 0xFF
    barcfg := m 0x49 (2 ^ 32 - 1), lodcnt := w 0xA, packKept := m 0x4C (2 ^ 32 - 1), semstat := m 0x4D 0x1FF
    engseq := m 0x4E 0xFFFF, bankcnt := m 0x4F (2 ^ 32 - 1), tshape := .ofFn fun t => m (0x50 + t.val) 0x3FF7F
    acfg := .ofFn fun k => m (0x58 + k.val) 0xF3, mseq := m 0x5C 0xFFFF, mcap := m 0x5D (2 ^ 32 - 1)
    belladd := m 0x5E (2 ^ 32 - 1), fillcnt := m 0x5F (2 ^ 32 - 1), objbase := m 0x60 0xFF0000, evbase := m 0x61 0xE00000
    etime := m 0x62 (2 ^ 32 - 1), etcfg := m 0x63 0x1FFFF, esnap := m 0x64 (2 ^ 41 - 1), evseq := m 0x65 0xFFFF
    tcpl := m 0x66 (2 ^ 64 - 2 ^ 5), taskstat := w 0x27, forecast := m 0x68 0xFFFFFF }

/-- The sections that the specification lays out are taken from an image; the counts of channel entries are internal. (DESIGN CHOICE: log entry 58.) -/
def State.readCore (s : State) (a : Nat) (channels : Vector Nat 8) : State :=
  let w (k : Nat) : Word := s.imageAt a k
  let ret : Vector (List Word) 4 := .ofFn fun q =>
    (List.range (min (Config.queueDepth (q.val + 4)) (s.peek (a + 0x3400 + 4 * q.val) 4))).map fun i =>
      w (0x600 + retPlace (q.val + 4) + i)
  let kicks := (List.range (min Config.kickDepth ((w 0xB).bits 0 5))).map fun i =>
    noticeOf (w (0x6A0 + 4 * i)) (w (0x6A1 + 4 * i)) (w (0x6A2 + 4 * i))
  let layouts : Vector Layout 64 := .ofFn fun l => Layout.clean (.ofFn fun k => w (0x200 + 16 * l.val + k.val))
  let d (k : Nat) : Word := keep (w (0x682 + k)) (2 ^ 32 - 1)
  { s with
    regs := s.regs.load w
    sems := .ofFn fun k => BitVec.ofNat 16 (s.peek (a + 0x600 + 2 * k.val) 2)
    eng := { s.eng with ret := ret, kicks := kicks, layouts := layouts }
    chans := .ofFn fun c => (List.range channels[c]).map fun i =>
      if c.val < 4 then (w (0x700 + 4 * c.val + i)).zeroExtend 512
      else BitVec.ofNat 512 (s.peek (a + 0x3880 + 256 * (c.val - 4) + 64 * i) 64)
    drone := { s.drone with late := d 0, stale := d 1, drop := d 2, snaplate := d 3, sent := d 4, received := d 5 } }

/-- A saved command belongs to the incarnation its context has, or will have when it is restored. (DEDUCED: log entry 59.) -/
def State.heir (s : State) (o : Option (Fin 11 × BitVec 8)) : Option (Fin 11 × BitVec 8) :=
  o.map fun p => (p.1, if (s.at p.1).live then (s.at p.1).gen else (s.at p.1).gen + 1)

/-- The internal sections are taken back: the commands are queued again and the run lists refilled. (DEDUCED: log entry 59.) -/
def State.takeInside (s : State) (x : CoreInside) : State :=
  let s := s.withEng fun e => { e with
    copy := x.copy.map fun c => { c with owner := s.heir c.owner }
    gather := x.gather.map fun c => { c with owner := s.heir c.owner }
    event := x.event.map fun c => { c with owner := s.heir c.owner } }
  let s := s.withMx fun m => { m with queue := x.matrix.map fun c => { c with owner := s.heir c.owner } }
  let s : State := { (s.withDrone fun d => { d with handlers := x.handlers }) with
    groups := x.groups.map fun g => { g with members := [], absent := g.absent + g.members.length }
    tasks := ⟨.replicate 4 [], x.chains⟩ }
  (List.range 64).foldl (fun s _ => if s.tasks.used < 64 then s.refill 3 else s) s

/-- The internal sections that an image names: those of the n-th written; 0 names none. (DESIGN CHOICE: log entry 58.) -/
def State.insideOf (s : State) : Nat → Option CoreInside
  | 0 => none
  | n + 1 => s.images[n]?

/-- `srest.core` (R368). -/
def execSrestCore (d b : Field) (s : State) : Out :=
  s.issueP 0x0C .stall [.wG d, .rG 2 b] fun s =>
    match s.imageFor (s.readG b) 32768 .load 0x0C with
    | .error e => .trap e
    | .ok (s, ga) =>
      let x := s.insideOf (s.peek (ga + insideAt) 8)
      let s := (s.readCore ga ((x.map (·.channels)).getD (.replicate 8 0))).takeSpill
      .done ((match x with | some x => s.takeInside x | none => s).writeG d 1)

end Sys2Proof.Machine
end

