-- ==== Sys2Proof/Machine/Summary.lean ====
section
/-!
DEFINITION. The RESYNC summary (R389).
-/

namespace Sys2Proof.Machine

open Sys2Proof

/-- The bytes of a list of words. -/
def wordBytes (l : List Word) : List Byte := l.flatMap fun w => bytesOf w.toNat 8

/-- The byte of a cluster. (DESIGN CHOICE: log entry 48.) -/
def State.clusterByte (s : State) (c : Nat) : Nat :=
  if s.guard.failedClusters.contains (BitVec.ofNat 7 c) then 4
  else if s.guard.closedClusters.contains (BitVec.ofNat 7 c) then 1
  else if s.guard.offClusters.contains (BitVec.ofNat 7 c) then 2
  else if c = s.core / 16 then (if s.dbg.clusterHalted then 3 else 0)
  else (Config.clusterState s.tick c).toNat

/-- The core's service core, as die × 4 + quadrant (R20). -/
def State.quadrant (s : State) : Nat :=
  let c := s.core / 16 % 16
  s.core / 256 * 4 + (c / 8 * 2 + c % 4 / 2)

/-- The request is handled by the service core of this core's quadrant (R20). -/
def State.ownService (s : State) (ga : Nat) : Bool :=
  if gaSpace ga = 1 then gaPkg ga == s.pkg && s.quadrant == gaPort ga / 2 * 4
  else gaPkg ga == s.pkg && ({ s with core := gaCore ga } : State).quadrant == s.quadrant

/-- A command of the management port, which the management core holds (R390). -/
def HostDo.ofPort : HostDo → Bool
  | .portRead _ => true | .portWrite _ => true | .portPatch .. => true
  | _ => false

/-- The requests that this core's service core holds. -/
def State.requestsHeld (s : State) : Nat := (s.service.waiting.filter fun x => !x.what.ofPort && s.ownService x.ga).length

/-- The service core's doubleword. -/
def State.serviceWord (s : State) : Word :=
  BitVec.ofNat 64 (s.service.received.toNat * 2 ^ 48 + s.service.performed.toNat * 2 ^ 32 + s.requestsHeld % 2 ^ 32)

/-- This cluster's power state (R398): PS1 when every live context of every core is blocked with BAR or IDLE. (DEDUCED: log entry 50.) -/
def State.clusterPower (s : State) : Nat :=
  let idle (c : Ctx) : Bool := !c.live || match c.block with
    | some ⟨.bar _ _, _, _⟩ => true
    | some ⟨.idle, _, _⟩ => true
    | some ⟨.wfi, _, _⟩ => true
    | _ => false
  if s.guard.offClusters.contains (BitVec.ofNat 7 (s.core / 16)) then 2
  else if s.ctxs.toList.all idle && Config.coresIdle s.tick then 1 else 0

/-- Every other cluster of the package is powered off. -/
def State.othersOff (s : State) : Bool :=
  everyCluster.all fun c => c.toNat == s.core / 16 || s.guard.offClusters.contains c

/-- The package's: the lowest among its clusters, and PS3 of the whole package; the other clusters with power are in PS0 or
PS1. (DEDUCED: log entry 50.) -/
def State.powerState (s : State) : Nat :=
  if s.guard.asleep then 3
  else if s.othersOff then s.clusterPower else min s.clusterPower (Config.lowestPower s.tick % 2)

/-- The digest of the lifetime block as it stands. -/
def State.lifeDigest (s : State) : BitVec 256 := Config.shake256 (wordBytes s.guard.lifetime)

/-- The doublewords of the summary. (DESIGN CHOICE: log entry 48.) -/
def State.summaryWord (s : State) (k : Nat) : Word :=
  if 4 ≤ k ∧ k < 20 then
    BitVec.ofNat 64 ((List.range 8).foldl (fun v i => v + s.clusterByte (8 * (k - 4) + i) * 256 ^ i) 0)
  else if 32 ≤ k ∧ k < 64 then (if k - 32 = s.quadrant then s.serviceWord else Config.elsewhere s.tick k)
  else if 64 ≤ k ∧ k < 80 then
    (if (k - 64) / 2 = s.core / 256 then (if k % 2 = 0 then s.guard.corrected else s.guard.uncorrected)
     else Config.elsewhere s.tick k)
  else if 80 ≤ k ∧ k < 88 then nth s.links.retrains (k - 80) 0
  else if 96 ≤ k then BitVec.ofNat 64 (s.lifeDigest.toNat / 2 ^ (64 * (k - 96)))
  else
    match k with
    | 0 => BitVec.ofNat 64 (800 * 2 ^ 32 + 1)
    | 1 => Config.firmwareVersion
    | 2 => BitVec.ofNat 64 (s.guard.security * 2 ^ 56 + s.guard.debug * 2 ^ 48 + s.powerState * 2 ^ 40)
    | 3 => s.units.pcyc
    | 20 => s.launch.record
    | 21 => BitVec.ofNat 64 s.launch.state
    | 22 => s.launch.completions + Config.elsewhere s.tick 22
    | 23 => s.launch.failures
    | 24 => BitVec.ofNat 64 (Config.extentX % 256 * 256 + Config.extentY % 256)
    | 88 => s.launch.resets
    | 89 => saturateTo (s.guard.fillerSteps.toNat + (Config.elsewhere s.tick 89).toNat)
    | _ => 0

/-- The summary: 800 bytes. -/
def State.summary (s : State) : List Word := (List.range 100).map s.summaryWord

end Sys2Proof.Machine
end

