-- ==== Sys2Proof/Machine/MatrixOps.lean ====
section
/-!
DEFINITION. The matrix instructions and their events (R214 to R236).
-/

namespace Sys2Proof.Machine

open Sys2Proof

/-! ### Checks at issue (R219, R222, R224, R225, R228) -/

/-- SHAPE, with its condition (R222, R245). -/
def shapeTrap (op code : Nat) : TrapInfo := ⟨13, 0, none, BitVec.ofNat 64 (op * 256 + code), none⟩

/-- ILLFMT for a field value that the chapter reserves (R45). -/
def valueTrap (op : Nat) : TrapInfo := ⟨2, 0, none, BitVec.ofNat 64 (op * 256 + 2), none⟩

/-- An entry serves a tile move of elements of size `es` over a box (R219). -/
def Layout.serves (l : Layout) (es : Nat) (css : List (List Nat)) : Bool :=
  l.valid && l.space == 1 && l.es == es && l.stride 0 == 1 && l.allInSpad css

/-- The entry of the layout table. -/
def State.layout (s : State) (lt : Nat) : Layout := nth s.eng.layouts lt (.replicate 16 0)

/-- The check of a tile move (R219). -/
def State.moveFault (s : State) (t : Nat) (l : Layout) (c0 c1 : Nat) (col : Bool) : Option TrapInfo :=
  let sh := s.shape t
  if l.serves (shapeEw sh) ((moveBox (shapeRows sh) (shapeCols sh) c0 c1 col).map (·.2.2)) then none
  else some (shapeTrap 0xA0 3)

/-- The tiles that hold B. -/
def bTiles (op : Nat) (m : MmaArgs) : List Nat := m.b.toNat :: (if op = 0xAC then [m.b.toNat + 1] else [])

/-- The checks of an `mma`, in their order (R222). -/
def State.mmaFault (s : State) (op : Nat) (m : MmaArgs) (streaming : Bool) : Option TrapInfo :=
  match pairOf op with
  | none => some (valueTrap op)
  | some p =>
    if ((m.sa || m.sb) && !p.scales) || (op == 0xAC && m.b.toNat % 2 == 1) then some (valueTrap op)
    else if !streaming && 3 < m.nc.toNat then some (shapeTrap op 0)
    else if shapeEw (s.shape m.a.toNat) != fmtEw p.a ||
        (!streaming && (bTiles op m).any fun t => shapeEw (s.shape t) != fmtEw p.b) then some (shapeTrap op 1)
    else if s.kind m.d.toNat != p.kind then some (shapeTrap op 2)
    else none

/-! ### Queueing -/

/-- A command joins the matrix queue, or waits for room (R216). -/
def State.queueMx (s : State) (op : Nat) (x : MxOp) (y : Sync) (rpt : Bool) : Effect :=
  if s.queueRoom 2 then .done (s.acceptMx op x y rpt (some s.owner) none) else .wait s (.cmdFull 2)

/-- The words of a staging buffer (R238). -/
def State.words (s : State) (q : Nat) : List Word := nth s.ctx.stage q []

/-- A command takes the oldest words. -/
def State.takeWords (s : State) (q n : Nat) : State :=
  s.put { s.ctx with stage := upd s.ctx.stage q ((s.words q).drop n) }

/-- A command that takes one word of q2 joins the queue. -/
def State.queueMx2 (s : State) (op : Nat) (x : MxOp) (y : Sync) (rpt : Bool) : Effect :=
  if s.queueRoom 2 then .done ((s.acceptMx op x y rpt (some s.owner) none).takeWords 2 1) else .wait s (.cmdFull 2)

/-! ### Tile moves and zeroing (R219, R220) -/

/-- `tld`. -/
def execTld (d : Field) (c1 c0 : BitVec 12) (lt : BitVec 6) (dir : Bool) (y : Sync) (s : State) : Out :=
  s.issue 0xA0 .ordered [.tile 0 d] fun s =>
    let l := s.layout lt.toNat
    match s.moveFault d.toNat l c0.toNat c1.toNat dir with
    | some e => .trap e
    | none => s.queueMx 0xA0 (.tld d.toNat l c0.toNat c1.toNat dir) y false

/-- `tst`. -/
def execTst (d : Field) (c1 c0 : BitVec 12) (lt : BitVec 6) (dir : Bool) (y : Sync) (s : State) : Out :=
  s.issue 0xA0 .ordered [.tile 0 d] fun s =>
    let l := s.layout lt.toNat
    match s.moveFault d.toNat l c0.toNat c1.toNat dir with
    | some e => .trap e
    | none => s.queueMx 0xA0 (.tst d.toNat l c0.toNat c1.toNat dir) y false

/-- `tzero`. -/
def execTzero (d : Field) (y : Sync) (s : State) : Out :=
  s.issue 0xA1 .ordered [.tile 0 d] fun s => s.queueMx 0xA1 (.tzero d.toNat) y false

/-- `mzero`. -/
def execMzero (d : Field) (y : Sync) (s : State) : Out :=
  s.issue 0xA1 .ordered [.acc 0 d] fun s => s.queueMx 0xA1 (.mzero d.toNat) y false

/-! ### The multiply (R221 to R224) -/

/-- The scale word as an operand. -/
def scaleUse (m : MmaArgs) : List Use := if m.sa || m.sb then [.rF 3 m.c] else []

/-- The scale word, read at issue. -/
def State.scaleWord (s : State) (m : MmaArgs) : Word := if m.sa || m.sb then s.readF m.c else 0

/-- An `mma` of a pair. -/
def mma (op : Nat) (m : MmaArgs) (y : Sync) (s : State) : Out :=
  s.issue op .ordered ([.acc 0 m.d, .tile 1 m.a, .tile 2 m.b] ++ scaleUse m) fun s =>
    match s.mmaFault op m false with
    | some e => .trap e
    | none => s.queueMx op (.mma op m (s.scaleWord m)) y m.rpt

/-- `mma.bf16`. -/
def execMmaBf16 (m : MmaArgs) (y : Sync) (s : State) : Out := mma 0xA2 m y s
/-- `mma.f16`. -/
def execMmaF16 (m : MmaArgs) (y : Sync) (s : State) : Out := mma 0xA3 m y s
/-- `mma.e4m3`. -/
def execMmaE4m3 (m : MmaArgs) (y : Sync) (s : State) : Out := mma 0xA4 m y s
/-- `mma.e5e4`. -/
def execMmaE5e4 (m : MmaArgs) (y : Sync) (s : State) : Out := mma 0xA5 m y s
/-- `mma.e4e5`. -/
def execMmaE4e5 (m : MmaArgs) (y : Sync) (s : State) : Out := mma 0xA6 m y s
/-- `mma.i8`. -/
def execMmaI8 (m : MmaArgs) (y : Sync) (s : State) : Out := mma 0xA7 m y s
/-- `mma.ui8i8`. -/
def execMmaUi8i8 (m : MmaArgs) (y : Sync) (s : State) : Out := mma 0xA8 m y s
/-- `mma.e2m1`. -/
def execMmaE2m1 (m : MmaArgs) (y : Sync) (s : State) : Out := mma 0xA9 m y s
/-- `mma.tw8i8`. -/
def execMmaTw8i8 (m : MmaArgs) (y : Sync) (s : State) : Out := mma 0xAA m y s
/-- `mma.tw8e4`. -/
def execMmaTw8e4 (m : MmaArgs) (y : Sync) (s : State) : Out := mma 0xAB m y s
/-- `mma.tw8bf`. -/
def execMmaTw8bf (m : MmaArgs) (y : Sync) (s : State) : Out := mma 0xAC m y s

/-- A read-out's format, rounding mode and shift have no meaning (R225). (DESIGN CHOICE: log entry 112.) -/
def readOutBad (fmt rm shift : Nat) : Bool :=
  !readoutFormat (BitVec.ofNat 4 fmt) || 5 ≤ rm || (fmt == 12 && shift != 0)

/-- Both entries of a streaming multiply serve it (R224). -/
def streamServes (p : Pair) (m : MmaArgs) (q : Word) (src dst : Layout) : Bool :=
  src.serves (fmtEw p.b) ((rectangle p.k (mmaN m.nc)).map fun e => [e.1, streamSc1 q + e.2]) &&
    dst.serves (readEs (streamFmt q)) ((rectangle (mmaM m.mc) (mmaN m.nc)).map fun e => [e.1, streamDc1 q + e.2])

/-- The streaming `mma` (R224). -/
def execMmaStream (op : BitVec 8) (m : MmaArgs) (y : Sync) (s : State) : Out :=
  s.issue op.toNat .ordered ([.acc 0 m.d, .tile 1 m.a] ++ scaleUse m) fun s =>
    let o := op.toNat
    match s.words 2 with
    | [] => .trap ((s.mmaFault o m true).getD (shapeTrap o 4))
    | q :: _ =>
      if readOutBad (streamFmt q) (streamRm q) (streamShift q) then .trap (valueTrap o)
      else
        match s.mmaFault o m true, pairOf o with
        | some e, _ => .trap e
        | none, none => .trap (valueTrap o)
        | none, some p =>
          let src := s.layout (streamSlt q)
          let dst := s.layout (streamDlt q)
          if streamServes p m q src dst then s.queueMx2 o (.stream o m (s.scaleWord m) q src dst) y m.rpt
          else .trap (shapeTrap o 3)

/-! ### Read-outs (R226 to R228) -/

/-- `mrd`: waits for its semaphore if it names one, then reads the accumulator out in one step. (DEDUCED: log entry 19.) -/
def execMrd (m : MrdArgs) (y : Sync) (s : State) : Out :=
  s.issue 0xAD .stall [.wV m.d] fun s =>
    if !s.met y then .wait s (.semMrd ⟨m, y⟩)
    else
      match s.mrdStep ⟨m, y⟩ with
      | .error e => .trap e
      | .ok t => .done (t.signal y)

/-- The queueing of `mst` in either direction. -/
def State.accStore (s : State) (fmt : Nat) (lt : Nat) (col : Bool) (rpt : Bool) (y : Sync) (x : Layout → Word → MxOp) : Effect :=
  match s.words 2 with
  | [] => .trap (shapeTrap 0xAD 4)
  | q :: _ =>
    if fmt = 12 && mstShift q != 0 then .trap (valueTrap 0xAD)
    else if mstMc q = 3 then .trap (shapeTrap 0xAD 4)
    else if 3 < mstNc q then .trap (shapeTrap 0xAD 0)
    else if (s.layout lt).serves (readEs fmt) ((mstBox q col).map (·.2.2)) then
      s.queueMx2 0xAD (x (s.layout lt) q) y rpt
    else .trap (shapeTrap 0xAD 3)

/-- `mst`. (DEDUCED: log entry 19.) -/
def execMst (d : Field) (fmt : BitVec 4) (rm : BitVec 3) (lt : BitVec 6) (dir rpt : Bool) (y : Sync) (s : State) : Out :=
  s.issue 0xAD .ordered [.acc 0 d] fun s =>
    s.accStore fmt.toNat lt.toNat dir rpt y fun l q => .mst d.toNat fmt rm dir l q

/-- `mst.in`. -/
def execMstIn (d : Field) (fmt : BitVec 4) (_rm : BitVec 3) (lt : BitVec 6) (dir rpt : Bool) (y : Sync) (s : State) : Out :=
  s.issue 0xAD .ordered [.acc 0 d] fun s => s.accStore fmt.toNat lt.toNat dir rpt y fun l q => .mstIn d.toNat dir l q

/-! ### Waiting and status (R229) -/

/-- A wait for the commands that were in the queue at issue. (DEDUCED: log entry 62.) -/
def State.matrixWait (s : State) (acc : Option Nat) : Effect :=
  let below := match s.ctx.block with
    | some ⟨.matrix b _, _, _⟩ => b
    | _ => s.seqNo
  if s.matrixClear below acc then s.ordered fun s => .done s else .wait s (.matrix below acc)

/-- `mwait`. -/
def execMwait (s : State) : Out := s.issue 0xAE .stall [] fun s => s.matrixWait none

/-- `mwait.acc`. -/
def execMwaitAcc (a : Field) (s : State) : Out := s.issue 0xAE .stall [.acc 1 a] fun s => s.matrixWait (some a.toNat)

/-- The status word of an accumulator. -/
def State.accStatus (s : State) (k : Nat) : Word :=
  let seq := match s.owners k with
    | c :: _ => c.seq.toNat
    | [] => s.regs.mseq.bits 0 16
  BitVec.ofNat 64 (seq * 2 ^ 48 + (s.owners k).length * 2 ^ 32 + (s.acfg k).bits 0 8)

/-- `mstat`. -/
def execMstat (d a : Field) (s : State) : Out :=
  s.issue 0xAE .free [.wG d, .acc 1 a] fun s => .done (s.writeG d (s.accStatus a.toNat))

/-- `mstat.c`, which issues in a window as `mstat` does. (DESIGN CHOICE: log entry 118.) -/
def execMstatC (d a : Field) (s : State) : Out :=
  s.issue 0xAE .free [.wG d, .acc 1 a] fun s =>
    let k := a.toNat
    let t : State := { s with regs := { s.regs with acfg := upd s.regs.acfg k ((s.acfg k).setBits 4 4 0) } }
    .done (t.writeG d (s.accStatus k))

/-! ### Remote commands (R231) -/

/-- `mcap`. -/
def execMcap (a : Field) (s : State) : Out :=
  s.issue 0xAF .stall [.rG 1 a] fun s =>
    .done { s with regs := { s.regs with mcap := BitVec.ofNat 64 ((s.readG a).bits 0 32) } }

/-- `mcmd`. -/
def execMcmd (d a b c : Field) (r : BitVec 6) (x : BitVec 8) (s : State) : Out :=
  s.issue 0xAF .ordered [.wG d, .rG 1 a, .rG 2 b, .rG 3 c] fun s =>
    let target := (s.readG a).bits 0 29
    let rest := s.readG c
    let note : Option (BitVec 8) := if rest.bit 40 then some (BitVec.ofNat 8 (rest.bits 32 8)) else none
    if !s.coreOfJob target then .trap noSuchCore
    else
      s.await [⟨0, s.sliceOf target, .mcmd (BitVec.ofNat 64 target) x r (s.readG b) (BitVec.ofNat 32 (rest.bits 0 32)) note,
        false, false⟩] (.write d)

/-- The registers and reserved fields of a remote command, as its decode at the target would find them (R43, R44). -/
def State.remoteFault (s : State) (op : Nat) (r : Field) (t : Nat) : Option TrapInfo :=
  let y := Sync.decode t
  let m := MmaArgs.decode r t
  let field : TrapInfo := ⟨2, 0, none, BitVec.ofNat 64 (op * 256 + 1), none⟩
  if !y.wf then some field
  else if op = 0xA0 then s.firstUse op [.tile 0 r]
  else if op = 0xA1 then
    (if slice t 1 31 != 0 then some field else s.firstUse op [if flagAt t 0 then .acc 0 r else .tile 0 r])
  else if flagAt t 0 || (flagAt t 3 && m.b != 0) || (!m.sa && !m.sb && m.c != 0) then some field
  else if m.mc = 3 || flagAt t 3 || m.sa || m.sb then some (valueTrap op)
  else s.firstUse op [.acc 0 r, .tile 1 m.a, .tile 2 m.b]

/-- The command that a remote request asks for, checked as it would be at the target. -/
def State.remoteCmd (s : State) (op : Nat) (r : Field) (t : Nat) : Except TrapInfo MxOp :=
  match s.remoteFault op r t with
  | some e => .error e
  | none =>
    if op = 0xA0 then
      let l := s.layout (slice t 2 6)
      match s.moveFault r.toNat l (slice t 8 12) (slice t 20 12) (flagAt t 1) with
      | some e => .error e
      | none =>
        .ok (if flagAt t 0 then .tst r.toNat l (slice t 8 12) (slice t 20 12) (flagAt t 1)
          else .tld r.toNat l (slice t 8 12) (slice t 20 12) (flagAt t 1))
    else if op = 0xA1 then .ok (if flagAt t 0 then .mzero r.toNat else .tzero r.toNat)
    else
      let m := MmaArgs.decode r t
      match s.mmaFault op m false with
      | some e => .error e
      | none => .ok (.mma op m 0)

/-- The answer to a remote command's sender. -/
def State.answerRemote (s : State) (c : RemoteCmd) (r : Reply) : State := s.targetReply c.sender c.req r

/-- A refusal, marked remote. -/
def remoteRefusal (e : TrapInfo) : Reply := .fail e.cause e.sub (e.finfo ||| BitVec.ofNat 64 (2 ^ 31)) 0

/-- The oldest remote command held at the message interface is accepted, when the queue has room and no pre-emption is
pending (R231, R344). -/
def State.acceptWaiting (s : State) : State :=
  match s.mx.waiting with
  | [] => s
  | c :: t =>
    if !s.queueRoom 2 || (s.at 0).status.bit 11 then s
    else
      let s := s.withMx fun m => { m with waiting := t }
      match s.remoteCmd c.x.toNat c.r c.tail.toNat with
      | .error e => s.answerRemote c (remoteRefusal e)
      | .ok x =>
        let y := Sync.decode c.tail.toNat
        let rpt := 0xA2 ≤ c.x.toNat && (MmaArgs.decode c.r c.tail.toNat).rpt
        (s.acceptMx c.x.toNat x y rpt none (c.note.map fun n => (c.sender, n))).answerRemote c
          (.data (s.regs.mseq.bits 0 16))

/-- A remote command arrives: it is refused, or held until the queue has room. (DEDUCED: log entry 66.) -/
def State.remoteArrives (s : State) (c : RemoteCmd) (cap : BitVec 32) : State :=
  if s.regs.mcap.bits 0 32 = 0 || s.regs.mcap.bits 0 32 != cap.toNat then s.answerRemote c (.fail 15 0 0 0)
  else
    match s.remoteCmd c.x.toNat c.r c.tail.toNat with
    | .error e => s.answerRemote c (remoteRefusal e)
    | .ok _ =>
      let s := match c.req with | some id => s.setStage id .listed | none => s
      (s.withMx fun m => { m with waiting := m.waiting ++ [c] }).acceptWaiting

/-- A remote matrix command reaches this core. -/
def execMcmdAtTarget (x : BitVec 8) (r : Field) (tail : Word) (cap : BitVec 32) (sender : BitVec 29) (note : Option (BitVec 8))
    (req : Option Nat) (s : State) : Out :=
  s.atTarget sender req fun s => s.remoteArrives ⟨x, r, tail, sender, note, req⟩ cap

/-! ### The unit (R216, R235) -/

/-- The first unstarted command starts. -/
def execMatrixCommandStart (id : Nat) (s : State) : Out :=
  match s.mxReady with
  | some (_, c, _) => .next (if c.id = id then s.startMatrix.getD s else s)
  | none => .next s

/-- A boundary of the Bellows. (DESIGN CHOICE: log entry 68.) -/
def execBellowsBoundary (active requestsBelow stopsBelow : Nat) (s : State) : Out :=
  .next (s.bellows active requestsBelow stopsBelow)

/-- A started command makes its writes, and completes as soon as its record has room. -/
def execMatrixCommandComplete (id : Nat) (s : State) : Out :=
  let t := s.runMatrix id
  .next ((t.completeMatrix id).getD t)

end Sys2Proof.Machine
end

