-- ==== Sys2Proof/Machine/EngineOps.lean ====
section
/-!
DEFINITION. The engine and semaphore instructions and their events (R237 to R258).
-/

namespace Sys2Proof.Machine

open Sys2Proof

/-! ### Queueing (R237, R238, R245) -/

/-- A command joins the copy or gather queue and takes its operand words, or waits for room. -/
def State.queueEng (s : State) (gather : Bool) (op : Nat) (x : EngOp) (y : Sync) (rpt : Bool) (words : Nat) : Effect :=
  let q := if gather then 1 else 0
  if s.queueRoom q then .done ((s.acceptEng gather op x y rpt).takeWords q words) else .wait s (.cmdFull q)

/-- The most elements of a box (R245). -/
def boxLimit : Nat := 2 ^ 32 - 1

/-- The checks at issue, in their order, and then the queue. `n` is how many operand words the command takes; `x` makes it
from them. -/
def State.command (s : State) (gather : Bool) (op : Nat) (entriesOk : Bool) (n : Nat) (x : List Word → EngOp) (y : Sync)
    (rpt : Bool) : Effect :=
  let ws := s.words (if gather then 1 else 0)
  if !entriesOk then .trap (shapeTrap op 3)
  else if ws.length < n then .trap (shapeTrap op 4)
  else if boxLimit < (x ws).size then .trap (shapeTrap op 6)
  else s.queueEng gather op (x ws) y rpt n

/-- The skip word, the last of the words (R247). -/
def skipOf (ws : List Word) (at_ : Nat) (res : Bool) : Nat := if res then ((ws[at_]?).getD (0 : Word)).bits 0 40 else 0

/-! ### `cpy` and `cpyr` (R248) -/

/-- `cpy`. -/
def execCpy (slt dlt : BitVec 6) (rank : BitVec 4) (res rpt : Bool) (y : Sync) (s : State) : Out :=
  s.issue 0xB0 .ordered [] fun s =>
    let src := s.layout slt.toNat
    let dst := s.layout dlt.toNat
    let r := rank.toNat
    s.command false 0xB0 (src.valid && dst.valid && src.es == dst.es) (r + res.toNat)
      (fun ws => .cpy src dst (ws.take r) (skipOf ws r res)) y rpt

/-- `cpyr`. -/
def execCpyr (slt dlt : BitVec 6) (rank : BitVec 4) (res : Bool) (op : BitVec 3) (fmt : BitVec 4) (rpt : Bool) (y : Sync)
    (s : State) : Out :=
  s.issue 0xB1 .ordered [] fun s =>
    let src := s.layout slt.toNat
    let dst := s.layout dlt.toNat
    let r := rank.toNat
    let es := cpyrEs fmt.toNat
    s.command false 0xB1 (src.valid && dst.valid && dst.space == 0 && src.es == es && dst.es == es) (r + res.toNat)
      (fun ws => .cpyr op fmt src dst (ws.take r) (skipOf ws r res)) y rpt

/-! ### `gath` and `pack` (R249, R250) -/

/-- The index list is one of 32-bit indices. -/
def Layout.indexes (l : Layout) : Bool := l.valid && l.rank == 1 && l.es == 3

/-- The first word taken. -/
def firstWord (ws : List Word) : Word := ws.headD 0

/-- `gath`. -/
def execGath (slt ilt dlt : BitVec 6) (res rpt : Bool) (y : Sync) (s : State) : Out :=
  s.issue 0xB2 .ordered [] fun s =>
    let src := s.layout slt.toNat
    let idx := s.layout ilt.toNat
    let dst := s.layout dlt.toNat
    s.command true 0xB2
      (idx.indexes && (src.rank == 1 || src.rank == 2) && dst.rank == src.rank && src.es == dst.es) (1 + res.toNat)
      (fun ws => .gath src idx dst (firstWord ws) (skipOf ws 1 res)) y rpt

/-- `gath.q`. -/
def execGathQ (slt ilt : BitVec 6) (res rpt : Bool) (y : Sync) (s : State) : Out :=
  s.issue 0xB2 .ordered [] fun s =>
    let src := s.layout slt.toNat
    let idx := s.layout ilt.toNat
    s.command true 0xB2 (idx.indexes && src.rank == 1) (1 + res.toNat)
      (fun ws => .gathQ src idx (firstWord ws) (skipOf ws 1 res)) y rpt

/-- `pack`. -/
def execPack (slt mlt dlt : BitVec 6) (rpt : Bool) (y : Sync) (s : State) : Out :=
  s.issue 0xB5 .ordered [] fun s =>
    let src := s.layout slt.toNat
    let mask := s.layout mlt.toNat
    let dst := s.layout dlt.toNat
    s.command true 0xB5 (src.rank == 1 && mask.rank == 1 && dst.rank == 1 && mask.es == 1 && src.es == dst.es) 1
      (fun ws => .pack src mask dst (firstWord ws)) y rpt

/-! ### Pull-only transfer (R251, R252) -/

/-- `pull`: its bytes are elements of 8 bits, one after the other. (DEDUCED: log entry 71.) -/
def execPull (c1 c0 : BitVec 12) (lt : BitVec 6) (rpt : Bool) (y : Sync) (s : State) : Out :=
  s.issue 0xB4 .ordered [] fun s =>
    let dst := s.layout lt.toNat
    if dst.valid && dst.es == 1 && dst.stride 0 == 1 then s.queueEng false 0xB4 (.pull dst c0.toNat c1.toNat none) y rpt 0
    else .trap (shapeTrap 0xB4 3)

/-- An earlier store of the context to the home of an address is not acknowledged (R251). -/
def State.storesTo (s : State) (ga : Nat) : Bool :=
  s.net.any fun q => q.of s.cur s.ctx.gen && q.posted && q.msg.op.isSome && homeOf q.ga == homeOf ga

/-- The source of a `kick`: the translation of its first byte; both ends lie on one page of home or CXL space. -/
def State.kickSource (s : State) (va : Word) (len : Nat) : Except TrapInfo Trans :=
  match s.translate s.cur va 1 .load 0xB3 0 with
  | .error e => .error e
  | .ok t =>
    match s.translate s.cur (va + BitVec.ofNat 64 (len - 1)) 1 .load 0xB3 0 with
    | .error e => .error e
    | .ok u =>
      if u.x.base != t.x.base then .error { ownRule with faddr := some (BitVec.ofNat 64 u.x.base) }
      else if 2 ≤ gaSpace t.ga then .error (spaceTrap va .load 0xB3 0 t.x.level)
      else .ok t

/-- `kick`. -/
def execKick (d a b c : Field) (s : State) : Out :=
  s.issue 0xB3 .ordered [.wG d, .rG 1 a, .rG 2 b, .rG 3 c] fun s =>
    let rest := s.readG c
    let len := rest.bits 0 24
    let target := if (s.readG a).bit 63 then s.lcore.toNat else (s.readG a).bits 0 29
    if len = 0 then .done (s.writeG d 1)
    else
      match s.kickSource (s.readG b) len with
      | .error e => .trap e
      | .ok t =>
        if !s.coreOfJob target && !(s.readG a).bit 63 then .trap noSuchCore
        else if s.storesTo t.ga then .wait (s.install t.x) .freeWalker
        else
          let n : Notice := ⟨BitVec.ofNat 64 t.ga, BitVec.ofNat 24 len, rest.bit 40, BitVec.ofNat 8 (rest.bits 32 8), s.lcore⟩
          (s.install t.x).await [⟨s.readG b, coreHome target, .kick (BitVec.ofNat 64 target) n, false, false⟩] (.write d)

/-- A notice joins the KICK queue, unless it holds 16. -/
def State.takeNotice (s : State) (n : Notice) : State × Nat :=
  if s.eng.kicks.length < Config.kickDepth then (s.withEng fun e => { e with kicks := e.kicks ++ [n] }, 1) else (s, 0)

/-- A notice reaches this core. -/
def execKickNoticeArrival (n : Notice) (req : Option Nat) (s : State) : Out :=
  s.atTarget n.sender req fun s =>
    let r := s.takeNotice n
    r.1.targetReply n.sender req (.data r.2)

/-- The acknowledgement of another core's `pull` (R252). -/
def execPullAckArrival (sem : BitVec 8) (s : State) : Out := .next (s.semAdd sem.toNat 1)

/-! ### The engines (R237, R245) -/

/-- The head of the copy or gather queue starts. -/
def execEngineCommandStart (gather : Bool) (s : State) : Out := .next ((s.startEngine gather).getD s)

/-- The head of the copy or gather queue makes its accesses, and completes as soon as its record has room. -/
def execEngineCommandComplete (gather : Bool) (s : State) : Out :=
  let t := s.runEngine gather
  .next (if s.dbg.clusterHalted then t else (t.completeEngine gather).getD t)

/-- `qfence` (R253). -/
def execQfence (m : BitVec 4) (s : State) : Out := s.issue 0xB6 .ordered [] fun s => .done (s.joinQueues m.toNat)

/-! ### Semaphores (R254 to R256) -/

/-- `sinc`. -/
def execSinc (s0 : BitVec 8) (n : BitVec 16) (s : State) : Out :=
  s.issue 0xB7 .stall [] fun s => .done (s.semAdd s0.toNat n.toNat)

/-- `swait`. -/
def execSwait (s0 : BitVec 8) (n : BitVec 16) (s : State) : Out :=
  s.issue 0xB8 .stall [] fun s =>
    let v := s.sem s0.toNat
    if n.toNat ≤ v then .done (s.putSem s0.toNat (v - n.toNat)) else .wait s (.sem s0.toNat n.toNat)

/-- `swait.nb`. -/
def execSwaitNb (d : Field) (s0 : BitVec 8) (n : BitVec 16) (s : State) : Out :=
  s.issue 0xB8 .stall [.wG d] fun s =>
    let v := s.sem s0.toNat
    .done (if n.toNat ≤ v then (s.putSem s0.toNat (v - n.toNat)).writeG d 1 else s.writeG d 0)

/-- `sget`. -/
def execSget (d : Field) (s0 : BitVec 8) (s : State) : Out :=
  s.issue 0xB9 .free [.wG d] fun s => .done (s.writeG d (BitVec.ofNat 64 (s.sem s0.toNat)))

/-- Set a semaphore; the waits on it are tested after the additions of the cycle (R38). -/
def State.setSem (s : State) (n v : Nat) : State := (s.putSem n v).markDue n

/-- `sset`. -/
def execSset (s0 : BitVec 8) (n : BitVec 16) (s : State) : Out :=
  s.issue 0xBA .stall [] fun s => .done (s.setSem s0.toNat n.toNat)

/-- The register form of `sset`. -/
def execSsetReg (a : Field) (s0 : BitVec 8) (s : State) : Out :=
  s.issue 0xBA .stall [.rG 1 a] fun s => .done (s.setSem s0.toNat ((s.readG a).bits 0 16))

/-- A device-space store adds to a semaphore (R256). -/
def execDeviceSemaphoreAdd (sem : BitVec 8) (v : Word) (s : State) : Out := .next (s.semAdd sem.toNat (v.bits 0 16))

/-! ### The layout table (R244) -/

/-- The bytes of an entry's image. -/
def layoutBytes : Nat := 128

/-- `lyt`. (DEDUCED: log entry 71.) -/
def execLyt (a : Field) (lt : BitVec 6) (s : State) : Out :=
  s.issue 0xBB .ordered [.rG 1 a] fun s =>
    s.loadBytes none 0xBB (s.readG a) layoutBytes fun sizes _ => .layout lt.toNat sizes

/-- `lytq`. -/
def execLytq (d : Field) (lt : BitVec 6) (w : BitVec 4) (s : State) : Out :=
  s.issue 0xBC .free [.wG d] fun s => .done (s.writeG d (nth (s.layout lt.toNat) w.toNat 0))

end Sys2Proof.Machine
end

