-- ==== Sys2Proof/Machine/Float.lean ====
section
/-!
DEFINITION. The scalar floating instructions (R120 to R129).
-/

namespace Sys2Proof.Machine

open Sys2Proof

/-! ### Operands by format (R110) -/

/-- A code whose values lie in scalar space. -/
def inScalar (code : BitVec 4) : Bool := (integerOf code.toNat).isSome

def useFrom (i : Nat) (code : BitVec 4) (n : Field) : Use := if inScalar code then .rG i n else .rF i n
def useInto (code : BitVec 4) (n : Field) : Use := if inScalar code then .wG n else .wF n

def State.readBy (s : State) (code : BitVec 4) (n : Field) : Word := if inScalar code then s.readG n else s.readF n

/-- A value as its register holds it: a signed code is sign-extended. -/
def laidOut (code v : Nat) : Word :=
  match integerOf code with
  | some (true, w) => (BitVec.ofNat w v).signExtend 64
  | _ => BitVec.ofNat 64 v

def State.writeBy (s : State) (code : BitVec 4) (n : Field) (v : Nat) : State :=
  if inScalar code then s.writeG n (laidOut code.toNat v) else s.writeF n (BitVec.ofNat 64 v)

/-! ### Arithmetic (R122) -/

/-- The random bits of a mode: SR makes one draw (R113, R116). -/
def State.random (s : State) (rm : Nat) : Nat × State := if rm = 4 then ((s.drawAt 0).bits 0 16, s.drew 1) else (0, s)

/-- A result in FP32, rounded once, with its flags. -/
def State.fpResult (s : State) (d : Field) (rm : Nat) (x : Num × Flags) : Effect :=
  let r := s.random rm
  let y := finishNum fp32 rm s.ctx.sat r.1 x
  .done ((r.2.flag y.2).writeF d (BitVec.ofNat 64 y.1))

/-- The FP32 of a register. -/
def State.fp (s : State) (n : Field) : Num := fp32.read (s.readF n).toNat

/-- An arithmetic instruction of two operands. -/
def fp2 (op : Nat) (f : Nat → Num → Num → Num × Flags) (d a b : Field) (m : BitVec 3) (s : State) : Out :=
  s.issue op .free [.wF d, .rF 1 a, .rF 2 b] fun s => s.fpResult d (s.ctx.mode m) (f (s.ctx.mode m) (s.fp a) (s.fp b))

/-- A product plus an addend, with one rounding. -/
def fused (negate : Bool) (rm : Nat) (a b c : Num) : Num × Flags :=
  let p := a.mul b
  let x := (if negate then p.1.neg else p.1).add rm c
  (x.1, p.2.or x.2)

/-- A fused instruction. -/
def fp3 (op : Nat) (negate : Bool) (d a b c : Field) (m : BitVec 3) (s : State) : Out :=
  s.issue op .free [.wF d, .rF 1 a, .rF 2 b, .rF 3 c] fun s =>
    s.fpResult d (s.ctx.mode m) (fused negate (s.ctx.mode m) (s.fp a) (s.fp b) (s.fp c))

/-- `fadd`. -/
def execFadd (d a b : Field) (m : BitVec 3) (s : State) : Out := fp2 0x50 Num.add d a b m s
/-- `fsub`. -/
def execFsub (d a b : Field) (m : BitVec 3) (s : State) : Out := fp2 0x51 (fun rm x y => x.add rm y.neg) d a b m s
/-- `fmul`. -/
def execFmul (d a b : Field) (m : BitVec 3) (s : State) : Out := fp2 0x52 (fun _ x y => x.mul y) d a b m s
/-- `fma`. -/
def execFma (d a b c : Field) (m : BitVec 3) (s : State) : Out := fp3 0x53 false d a b c m s
/-- `fnma`. -/
def execFnma (d a b c : Field) (m : BitVec 3) (s : State) : Out := fp3 0x54 true d a b c m s
/-- `fdiv`. -/
def execFdiv (d a b : Field) (m : BitVec 3) (s : State) : Out := fp2 0x55 (fun _ x y => x.div y) d a b m s
/-- `fsqrt`. -/
def execFsqrt (d a : Field) (m : BitVec 3) (s : State) : Out :=
  s.issue 0x56 .free [.wF d, .rF 1 a] fun s => s.fpResult d (s.ctx.mode m) (s.fp a).sqrt

/-! ### Minima, signs, comparisons, classes (R123 to R125) -/

/-- `fmin` and `fmax`. -/
def fpPick (greater : Bool) (d a b : Field) (s : State) : Out :=
  s.issue 0x57 .free [.wF d, .rF 1 a, .rF 2 b] fun s =>
    let y := minMax fp32 greater ((s.readF a).bits 0 32) ((s.readF b).bits 0 32)
    .done ((s.flag y.2).writeF d (BitVec.ofNat 64 y.1))

/-- `fmin`. -/
def execFmin (d a b : Field) (s : State) : Out := fpPick false d a b s
/-- `fmax`. -/
def execFmax (d a b : Field) (s : State) : Out := fpPick true d a b s

/-- An `fsgn`: the magnitude of `a` with a sign made of both signs. -/
def fpSign (f : Bool → Bool → Bool) (d a b : Field) (s : State) : Out :=
  s.issue 0x58 .free [.wF d, .rF 1 a, .rF 2 b] fun s =>
    let x := s.readF a
    .done (s.writeF d (BitVec.ofNat 64 ((f (x.bit 31) ((s.readF b).bit 31)).toNat * 2 ^ 31 + x.bits 0 31)))

/-- `fsgn.cp`. -/
def execFsgnCp (d a b : Field) (s : State) : Out := fpSign (fun _ y => y) d a b s
/-- `fsgn.neg`. -/
def execFsgnNeg (d a b : Field) (s : State) : Out := fpSign (fun _ y => !y) d a b s
/-- `fsgn.xor`. -/
def execFsgnXor (d a b : Field) (s : State) : Out := fpSign (fun x y => x != y) d a b s

/-- `fcmp` (R124). -/
def execFcmp (d a b : Field) (c : BitVec 3) (s : State) : Out :=
  s.issue 0x59 .free [.wG d, .rF 1 a, .rF 2 b] fun s =>
    let y := fcond c.toNat (s.fp a) (s.fp b)
    .done ((s.flag y.2).writeG d (Word.ofBool y.1))

/-- The class of an encoding, as a bit number (R125). -/
def classOf (code x : Nat) : Nat :=
  match readCode code x with
  | .nan sg => if sg then 8 else 9
  | .inf neg => if neg then 0 else 7
  | .fin neg m _ =>
    if m = 0 then (if neg && code != 7 then 3 else 4)
    else
      match formatOf code with
      | some f => if x / 2 ^ f.mw % 2 ^ f.ew = 0 then (if neg then 2 else 5) else if neg then 1 else 6
      | none => if neg then 1 else 6

/-- `fclass`. -/
def execFclass (d a : Field) (f : BitVec 4) (s : State) : Out :=
  s.issue 0x5A .free [.wG d, .rF 1 a] fun s => .done (s.writeG d (BitVec.ofNat 64 (2 ^ classOf f.toNat (s.readF a).toNat)))

/-! ### Conversions and copies (R126 to R128) -/

/-- A conversion of one value with a mode and random bits. (DEDUCED: log entry 69.) -/
def State.convert (s : State) (d a : Field) (dst src : BitVec 4) (rm r : Nat) : State :=
  let y := writeCode dst.toNat rm s.ctx.sat r (readCode src.toNat (s.readBy src a).toNat)
  (s.flag y.2).writeBy dst d y.1

/-- `fcvt`. -/
def execFcvt (d a : Field) (m : BitVec 3) (dst src : BitVec 4) (s : State) : Out :=
  s.issue 0x5B .free [useInto dst d, useFrom 1 src a] fun s =>
    let r := s.random (s.ctx.mode m)
    .done (r.2.convert d a dst src (s.ctx.mode m) r.1)

/-- `fmov fd, fa`. -/
def execFmovFF (d a : Field) (s : State) : Out :=
  s.issue 0x5C .free [.wF d, .rF 1 a] fun s => .done (s.writeF d (s.readF a))
/-- `fmov fd, ga`. -/
def execFmovFG (d a : Field) (s : State) : Out :=
  s.issue 0x5C .free [.wF d, .rG 1 a] fun s => .done (s.writeF d (s.readG a))
/-- `fmov gd, fa`. -/
def execFmovGF (d a : Field) (s : State) : Out :=
  s.issue 0x5C .free [.wG d, .rF 1 a] fun s => .done (s.writeG d (s.readF a))
/-- `fldi`. -/
def execFldi (d : Field) (i : BitVec 64) (s : State) : Out := s.issue 0x5D .free [.wF d] fun s => .done (s.writeF d i)

/-- `fsr`. -/
def execFsr (d a b : Field) (dst src : BitVec 4) (s : State) : Out :=
  s.issue 0x5E .free [useInto dst d, useFrom 1 src a, .rG 2 b] fun s =>
    .done (s.convert d a dst src 4 ((s.readG b).bits 0 16))

/-- `fsr.draw`. -/
def execFsrDraw (d : Field) (s : State) : Out :=
  s.issue 0x5E .free [.wG d] fun s => .done ((s.drew 1).writeG d (s.drawAt 0))

/-! ### Block scales (R129) -/

/-- The largest magnitude of a target format. -/
def scaleMax (fmt : Nat) : Nat := if fmt = 3 then 448 else if fmt = 4 then 57344 else if fmt = 5 then 6 else 2

/-- The smallest `k` with m × 2^e ≤ MAX × 2^k, for a positive `m`. -/
def scaleK (big m : Nat) (e : Int) : Int :=
  let k : Int := e + bitLen m - bitLen big
  if m * 2 ^ bitLen big ≤ big * 2 ^ bitLen m then k else k + 1

/-- The scale byte of a magnitude, and NV. -/
def scaleByte (fmt : Nat) (x : Num) : Nat × Flags :=
  match x with
  | .fin _ m e => (if m = 0 then 0 else (satInt (scaleK (scaleMax fmt) m e + 127) 0 254).toNat, .none)
  | _ => (0xFF, .invalid)

/-- `fscl`. -/
def execFscl (d a : Field) (byte : BitVec 3) (fmt : BitVec 4) (s : State) : Out :=
  s.issue 0x5F .free [.rwF d, .rF 1 a] fun s =>
    let y := scaleByte fmt.toNat (s.fp a)
    .done ((s.flag y.2).writeF d ((s.readF d).setBits (8 * byte.toNat) 8 y.1))

end Sys2Proof.Machine
end

