-- ==== Sys2Proof/Machine/Vector.lean ====
section
/-!
DEFINITION. The vector instructions that make no access (R131 to R146).
-/

namespace Sys2Proof.Machine

open Sys2Proof

/-! ### Views, masks and results (R131 to R134) -/

/-- The element width of a view, and its number of elements. -/
def viewBits (w : BitVec 2) : Nat := 8 * 2 ^ w.toNat
def viewCount (w : BitVec 2) : Nat := 512 / viewBits w

/-- The element width of a floating view, whose code is its format's (R131). -/
def fpBits (w : BitVec 2) : Nat := if w = 0 then 32 else 16

/-- The format of a floating view. -/
def fpFormat (w : BitVec 2) : Format := if w = 0 then fp32 else if w = 1 then fp16 else bf16

/-- Element `i` of a register, or of the scalar that serves every element. -/
def State.elemB (s : State) (n : Field) (sc fp : Bool) (w i : Nat) : Nat :=
  if sc then (if fp then s.readF n else s.readG n).toNat % 2 ^ w else vecElem (s.readV n) w i

/-- The operand B of the common layout. -/
def useB (n : Field) (sc fp : Bool) : Use := if sc then (if fp then .rF 2 n else .rG 2 n) else .rV 2 n

/-- VSTART is 0 (R152). (DEDUCED: log entry 23.) -/
def State.restarted (s : State) : State := s.put { s.ctx with vstart := 0 }

/-- A vector instruction completed. (DEDUCED: log entry 23.) -/
def State.endV (s : State) : Effect := .done s.restarted

/-- What an inactive element of the destination keeps: a channel takes zero. -/
def State.keptV (s : State) (d : Field) (z : Bool) (w i : Nat) : Nat :=
  if z || 32 ≤ d.toNat then 0 else vecElem (nth s.ctx.v d.toNat 0) w i

/-- Write the active elements of a view of width `w`. -/
def State.mergeV (s : State) (d : Field) (w : Nat) (active : Nat → Bool) (z : Bool) (f : Nat → Nat) : State :=
  s.writeV d (vecOf w (512 / w) fun i => if active i then f i else s.keptV d z w i)

/-- Bit `i` of a mask register. -/
def State.active (s : State) (k : BitVec 3) (i : Nat) : Bool := (s.readK k.toNat).bit i

/-- A result of the common layout: an element from its operands' elements. -/
def vec2 (op : Nat) (v : VArgs) (f : Nat → Nat → Nat → Nat) (s : State) : Out :=
  s.issue op .free [.wV v.d, .rV 1 v.a, useB v.b v.s false] fun s =>
    let w := viewBits v.w
    (s.mergeV v.d w (s.active v.k) v.z fun i => f w (vecElem (s.readV v.a) w i) (s.elemB v.b v.s false w i)).endV

/-- The same with one source. -/
def vec1 (op : Nat) (v : VArgs2) (f : Nat → Nat → Nat) (s : State) : Out :=
  s.issue op .free [.wV v.d, .rV 1 v.a] fun s =>
    let w := viewBits v.w
    (s.mergeV v.d w (s.active v.k) v.z fun i => f w (vecElem (s.readV v.a) w i)).endV

/-- A rearrangement of the elements of two sources. -/
def vecMove (op : Nat) (v : VArgs3) (extra : List Use) (f : State → Nat → (Nat → Nat) → (Nat → Nat) → Nat → Nat) (s : State) : Out :=
  s.issue op .free ([.wV v.d, .rV 1 v.a, .rV 2 v.b] ++ extra) fun s =>
    let w := viewBits v.w
    (s.mergeV v.d w (s.active v.k) v.z
      (f s (viewCount v.w) (vecElem (s.readV v.a) w) (vecElem (s.readV v.b) w))).endV

/-! ### Integer arithmetic and logic (R136, R137) -/

/-- A signed element. -/
def elemS (w x : Nat) : Int := if x < 2 ^ (w - 1) then x else (x : Int) - 2 ^ w

/-- An element read unsigned or signed. -/
def elemOf (unsigned : Bool) (w x : Nat) : Int := if unsigned then x else elemS w x

/-- The end of an integer operation: wrapped (0), or clamped signed (1) or unsigned (2). -/
def clampTo (sat : BitVec 2) (w : Nat) (x : Int) : Nat :=
  if sat = 1 then lowBits w (satInt x (intLow true w) (intHigh true w))
  else if sat = 2 then lowBits w (satInt x 0 (intHigh false w)) else lowBits w x

/-- `vadd`. -/
def execVadd (v : VArgs) (sat : BitVec 2) (s : State) : Out :=
  vec2 0x60 v (fun w a b => clampTo sat w (elemOf (sat = 2) w a + elemOf (sat = 2) w b)) s
/-- `vsub`. -/
def execVsub (v : VArgs) (sat : BitVec 2) (s : State) : Out :=
  vec2 0x60 v (fun w a b => clampTo sat w (elemOf (sat = 2) w a - elemOf (sat = 2) w b)) s
/-- `vmul`. -/
def execVmul (v : VArgs) (s : State) : Out := vec2 0x61 v (fun w a b => a * b % 2 ^ w) s
/-- `vmulh`. -/
def execVmulh (v : VArgs) (s : State) : Out := vec2 0x61 v (fun w a b => lowBits w (elemS w a * elemS w b / 2 ^ w)) s
/-- `vmulh.u`. -/
def execVmulhU (v : VArgs) (s : State) : Out := vec2 0x61 v (fun w a b => a * b / 2 ^ w) s

/-- `vmacc`: the destination is a source. -/
def execVmacc (v : VArgs) (sat : BitVec 2) (s : State) : Out :=
  s.issue 0x62 .free [.rwV v.d, .rV 1 v.a, useB v.b v.s false] fun s =>
    let w := viewBits v.w
    (s.mergeV v.d w (s.active v.k) v.z fun i =>
      clampTo sat w (elemOf (sat = 2) w (vecElem (s.readV v.d) w i) +
        elemOf (sat = 2) w (vecElem (s.readV v.a) w i) * elemOf (sat = 2) w (s.elemB v.b v.s false w i))).endV

/-- `vmin`. -/
def execVmin (v : VArgs) (u : Bool) (s : State) : Out :=
  vec2 0x63 v (fun w a b => if elemOf u w b < elemOf u w a then b else a) s
/-- `vmax`. -/
def execVmax (v : VArgs) (u : Bool) (s : State) : Out :=
  vec2 0x63 v (fun w a b => if elemOf u w a < elemOf u w b then b else a) s
/-- `vabs`. -/
def execVabs (v : VArgs2) (sat : Bool) (s : State) : Out :=
  vec1 0x64 v (fun w a => clampTo (if sat then 1 else 0) w (elemS w a).natAbs) s
/-- `vand`. -/
def execVand (v : VArgs) (s : State) : Out := vec2 0x65 v (fun _ a b => a &&& b) s
/-- `vor`. -/
def execVor (v : VArgs) (s : State) : Out := vec2 0x65 v (fun _ a b => a ||| b) s
/-- `vxor`. -/
def execVxor (v : VArgs) (s : State) : Out := vec2 0x65 v (fun _ a b => a ^^^ b) s
/-- `vandn`. -/
def execVandn (v : VArgs) (s : State) : Out := vec2 0x65 v (fun w a b => a &&& (2 ^ w - 1 - b)) s
/-- `vshl`. -/
def execVshl (v : VArgs) (s : State) : Out := vec2 0x66 v (fun w a b => a * 2 ^ (b % w) % 2 ^ w) s
/-- `vshr`. -/
def execVshr (v : VArgs) (s : State) : Out := vec2 0x66 v (fun w a b => a / 2 ^ (b % w)) s
/-- `vsra`. -/
def execVsra (v : VArgs) (s : State) : Out := vec2 0x66 v (fun w a b => lowBits w (elemS w a / 2 ^ (b % w))) s

/-- The range of a `vrshr`. -/
def rangeTo (range : BitVec 2) (x : Int) : Int :=
  if range = 1 then satInt x (-128) 127 else if range = 2 then satInt x 0 255
  else if range = 3 then satInt x (-32768) 32767 else x

/-- `vrshr` (R137). -/
def execVrshr (v : VArgs) (range : BitVec 2) (ev : Bool) (s : State) : Out :=
  vec2 0x6F v (fun w a b => lowBits w (rangeTo range (roundShift (elemS w a) (b % w) ev).1)) s

/-! ### Dot products (R138) -/

/-- The integer form: `k` products of elements of `e` bits, with their signedness. -/
def dotSum (a b : VWord) (e k i : Nat) (ua ub : Bool) : Int :=
  (List.range k).foldl (fun x j => x + elemOf ua e (vecElem a e (k * i + j)) * elemOf ub e (vecElem b e (k * i + j))) 0

/-- One element of the integer form. -/
def dotInt (w : BitVec 2) (f : BitVec 6) (a b d : VWord) (i : Nat) : Nat :=
  let bits := viewBits w
  let e := if w = 3 then 16 else 8
  let mode := f.toNat % 4
  let x := elemOf (mode = 2) bits (vecElem d bits i) + dotSum a b e (bits / e) i (mode != 0) (mode = 2)
  clampTo (if f.getLsbD 2 then (if mode = 2 then 2 else 1) else 0) bits x

/-- One element of the floating form: the exact sum rounded once. -/
def dotFp (rm : Nat) (a b d : VWord) (i : Nat) : Num × Flags :=
  let p (j : Nat) : Num × Flags := (bf16.read (vecElem a 16 (2 * i + j))).mul (bf16.read (vecElem b 16 (2 * i + j)))
  let x := (p 0).1.add rm (p 1).1
  let y := x.1.add rm (fp32.read (vecElem d 32 i))
  (y.1, (p 0).2.or ((p 1).2.or (x.2.or y.2)))

/-- The draws of a floating vector instruction of `n` elements under a mode (R135). -/
def State.drawsFor (s : State) (rm n : Nat) : State := if rm = 4 then s.drew ((n + 3) / 4) else s

/-- The random bits of element `i`. -/
def State.randomAt (s : State) (rm i : Nat) : Nat := if rm = 4 then (s.drawAt (i / 4)).bits (16 * (i % 4)) 16 else 0

/-- The flags of the active elements. -/
def flagsOf (n : Nat) (active : Nat → Bool) (f : Nat → Flags) : Flags :=
  (List.range n).foldl (fun x i => if active i then x.or (f i) else x) .none

/-- A floating result: each active element from an exact value, rounded to the format. -/
def State.fpMerge (s : State) (d : Field) (fmt : Format) (w : Nat) (k : BitVec 3) (z : Bool) (rm : Nat)
    (f : Nat → Num × Flags) : Effect :=
  let n := 512 / w
  let one (i : Nat) : Nat × Flags := finishNum fmt rm s.ctx.sat (s.randomAt rm i) (f i)
  (((s.mergeV d w (s.active k) z fun i => (one i).1).drawsFor rm n).flag (flagsOf n (s.active k) fun i => (one i).2)).endV

/-- `vdot`. -/
def execVdot (v : VArgs3) (f : BitVec 6) (s : State) : Out :=
  s.issue 0x76 .free [.rwV v.d, .rV 1 v.a, .rV 2 v.b] fun s =>
    let a := s.readV v.a
    let b := s.readV v.b
    let d := s.readV v.d
    if f.getLsbD 3 then
      let rm := s.ctx.mode (f.truncate 3)
      s.fpMerge v.d fp32 32 v.k v.z rm (dotFp rm a b d)
    else (s.mergeV v.d (viewBits v.w) (s.active v.k) v.z (dotInt v.w f a b d)).endV

/-! ### Comparisons, selects and moves (R139, R140) -/

/-- The integer conditions on elements (R79). -/
def elemCond (c w a b : Nat) : Bool :=
  match c with
  | 0 => a == b
  | 1 => a != b
  | 2 => elemS w a < elemS w b
  | 3 => !(elemS w a < elemS w b)
  | 4 => a < b
  | 5 => !(a < b)
  | 6 => a &&& b == 0
  | _ => a &&& b != 0

/-- A mask from its bits below `n`; bits from `n` on are zero. -/
def maskOf (n : Nat) (f : Nat → Bool) : Word :=
  BitVec.ofNat 64 ((List.range n).foldl (fun x i => x + (f i).toNat * 2 ^ i) 0)

/-- `vcmp` (R139). -/
def execVcmp (v : VArgs) (fp : Bool) (c : BitVec 4) (s : State) : Out :=
  s.issue 0x67 .free [.wK v.d, .rV 1 v.a, useB v.b v.s fp] fun s =>
    let w := if fp then fpBits v.w else viewBits v.w
    let a (i : Nat) : Nat := vecElem (s.readV v.a) w i
    let b (i : Nat) : Nat := s.elemB v.b v.s fp w i
    let one (i : Nat) : Bool × Flags :=
      if fp then fcond (c.toNat % 8) ((fpFormat v.w).read (a i)) ((fpFormat v.w).read (b i))
      else (elemCond c.toNat w (a i) (b i), .none)
    let old := s.readK v.d.toNat
    ((s.writeK v.d (maskOf (512 / w) fun i => if s.active v.k i then (one i).1 else !v.z && old.bit i)).flag
      (flagsOf (512 / w) (s.active v.k) fun i => (one i).2)).endV

/-- `vsel`: the mask selects. -/
def execVsel (d a b : Field) (k : BitVec 3) (w : BitVec 2) (s : State) : Out :=
  s.issue 0x68 .free [.wV d, .rV 1 a, .rV 2 b] fun s =>
    (s.mergeV d (viewBits w) (fun _ => true) false fun i =>
      if s.active k i then vecElem (s.readV a) (viewBits w) i else vecElem (s.readV b) (viewBits w) i).endV

/-- `vsplat`. -/
def execVsplat (v : VArgs2) (fp : Bool) (s : State) : Out :=
  s.issue 0x69 .free [.wV v.d, if fp then .rF 1 v.a else .rG 1 v.a] fun s =>
    (s.mergeV v.d (viewBits v.w) (s.active v.k) v.z fun i => s.elemB v.a true fp (viewBits v.w) i).endV

/-- `vmov`. -/
def execVmov (v : VArgs2) (s : State) : Out := vec1 0x6A v (fun _ a => a) s

/-- `vmov.x`. -/
def execVmovX (d a c : Field) (sx : Bool) (w : BitVec 2) (s : State) : Out :=
  s.issue 0x6A .free [.wG d, .rV 1 a, .rG 3 c] fun s =>
    let x := vecElem (s.readV a) (viewBits w) ((s.readG c).toNat % viewCount w)
    (s.writeG d (if sx then (BitVec.ofNat (viewBits w) x).signExtend 64 else BitVec.ofNat 64 x)).endV

/-- `vmov.i`. -/
def execVmovI (d a c : Field) (w : BitVec 2) (s : State) : Out :=
  s.issue 0x6A .free [.wV d, .rG 1 a, .rG 3 c] fun s =>
    let j := (s.readG c).toNat % viewCount w
    (s.mergeV d (viewBits w) (· == j) false fun _ => (s.readG a).toNat % 2 ^ viewBits w).endV

/-! ### Permutes (R141) -/

/-- `vperm`. -/
def execVperm (v : VArgs3) (s : State) : Out := vecMove 0x6B v [] (fun _ n a b i => a (b i % n)) s
/-- `vperm2`. -/
def execVperm2 (v : VArgs3) (c : Field) (s : State) : Out :=
  vecMove 0x6B v [.rV 3 c] (fun s n a b i =>
    let j := b i % (2 * n)
    if j < n then a j else vecElem (s.readV c) (viewBits v.w) (j - n)) s
/-- `vslide.dn`. -/
def execVslideDn (v : VArgs3) (c : Field) (s : State) : Out :=
  vecMove 0x6C v [.rG 3 c] (fun s n a b i =>
    let j := i + (s.readG c).toNat
    if j < n then a j else if j < 2 * n then b (j - n) else 0) s
/-- `vslide.up`. -/
def execVslideUp (v : VArgs3) (c : Field) (s : State) : Out :=
  vecMove 0x6C v [.rG 3 c] (fun s n a b i =>
    let g := (s.readG c).toNat
    if n + i < g then 0 else let j := n + i - g; if j < n then b j else a (j - n)) s
/-- `vzip.lo`. -/
def execVzipLo (v : VArgs3) (s : State) : Out :=
  vecMove 0x6D v [] (fun _ _ a b i => if i % 2 = 0 then a (i / 2) else b (i / 2)) s
/-- `vzip.hi`. -/
def execVzipHi (v : VArgs3) (s : State) : Out :=
  vecMove 0x6D v [] (fun _ n a b i => if i % 2 = 0 then a (n / 2 + i / 2) else b (n / 2 + i / 2)) s
/-- `vunzip.ev`. -/
def execVunzipEv (v : VArgs3) (s : State) : Out :=
  vecMove 0x6D v [] (fun _ n a b i => if 2 * i < n then a (2 * i) else b (2 * i - n)) s
/-- `vunzip.od`. -/
def execVunzipOd (v : VArgs3) (s : State) : Out :=
  vecMove 0x6D v [] (fun _ n a b i => if 2 * i + 1 < n then a (2 * i + 1) else b (2 * i + 1 - n)) s

/-! ### Reductions (R142) -/

/-- The active elements, extended. -/
def State.activeElems (s : State) (a : Field) (k : BitVec 3) (w : BitVec 2) (u : Bool) : List Int :=
  ((List.range (viewCount w)).filter (s.active k)).map fun i => elemOf u (viewBits w) (vecElem (s.readV a) (viewBits w) i)

/-- One level of the tree: neighbours are paired. -/
def pairUp (f : Nat → Nat → Nat × Flags) : List (Option Nat) → Flags → List (Option Nat) × Flags
  | some x :: some y :: t, fl => let r := f x y; let l := pairUp f t (fl.or r.2); (some r.1 :: l.1, l.2)
  | some x :: none :: t, fl => let l := pairUp f t fl; (some x :: l.1, l.2)
  | none :: y :: t, fl => let l := pairUp f t fl; (y :: l.1, l.2)
  | l, fl => (l, fl)

/-- Six levels reduce 64 positions to one. -/
def treeOf (f : Nat → Nat → Nat × Flags) : Nat → List (Option Nat) → Flags → Option Nat × Flags
  | 0, l, fl => (l.head?.join, fl)
  | n + 1, l, fl => let r := pairUp f l fl; treeOf f n r.1 r.2

/-- An element widened exactly to FP32; of a NaN the canonical one, with NV when it signals (R106, R114). -/
def widen (w : BitVec 2) (x : Nat) : Nat × Flags := writeCode 0 0 false 0 ((fpFormat w).read x)

/-- The floating reduction. (DEDUCED: log entry 69.) -/
def State.reduceFp (s : State) (a : Field) (k : BitVec 3) (w : BitVec 2) (f : Nat → Nat → Nat × Flags) (none : Nat) : Nat × Flags :=
  let n := 512 / fpBits w
  let wide (i : Nat) : Nat × Flags := widen w (vecElem (s.readV a) (fpBits w) i)
  let l : List (Option Nat) := (List.range n).map fun i => if s.active k i then some (wide i).1 else Option.none
  let r := treeOf f 5 l (flagsOf n (s.active k) fun i => (wide i).2)
  (r.1.getD none, r.2)

/-- A reduction of either form. -/
def reduction (d a : Field) (k : BitVec 3) (w : BitVec 2) (u fp : Bool) (int : List Int → Int)
    (f : Bool → Nat → Nat → Nat × Flags) (none : Nat) (s : State) : Out :=
  s.issue 0x6E .free [if fp then .wF d else .wG d, .rV 1 a] fun s =>
    if fp then
      let r := s.reduceFp a k w (f s.ctx.sat) none
      ((s.flag r.2).writeF d (BitVec.ofNat 64 r.1)).endV
    else (s.writeG d (BitVec.ofInt 64 (int (s.activeElems a k w u)))).endV

/-- `vredadd`. -/
def execVredadd (d a : Field) (k : BitVec 3) (w : BitVec 2) (u fp : Bool) (s : State) : Out :=
  reduction d a k w u fp (fun l => l.foldl (· + ·) 0)
    (fun sat x y => finishNum fp32 0 sat 0 ((fp32.read x).add 0 (fp32.read y))) 0 s
/-- `vredmin`. -/
def execVredmin (d a : Field) (k : BitVec 3) (w : BitVec 2) (u fp : Bool) (s : State) : Out :=
  reduction d a k w u fp (fun l => l.foldl (fun x y => if y < x then y else x) (intHigh (!u) (viewBits w)))
    (fun _ => minMax fp32 false) (fp32.infinity false) s
/-- `vredmax`. -/
def execVredmax (d a : Field) (k : BitVec 3) (w : BitVec 2) (u fp : Bool) (s : State) : Out :=
  reduction d a k w u fp (fun l => l.foldl (fun x y => if x < y then y else x) (intLow (!u) (viewBits w)))
    (fun _ => minMax fp32 true) (fp32.infinity true) s

/-! ### Floating arithmetic (R143) -/

/-- A floating element of A, B or C. -/
def State.fpA (s : State) (n : Field) (w : BitVec 2) (i : Nat) : Num := (fpFormat w).read (vecElem (s.readV n) (fpBits w) i)
def State.fpB (s : State) (v : VArgs) (i : Nat) : Num := (fpFormat v.w).read (s.elemB v.b v.s true (fpBits v.w) i)

/-- A floating instruction of two sources. -/
def vecFp (op : Nat) (v : VArgs) (m : BitVec 3) (f : Nat → Num → Num → Num × Flags) (s : State) : Out :=
  s.issue op .free [.wV v.d, .rV 1 v.a, useB v.b v.s true] fun s =>
    let rm := s.ctx.mode m
    s.fpMerge v.d (fpFormat v.w) (fpBits v.w) v.k v.z rm fun i => f rm (s.fpA v.a v.w i) (s.fpB v i)

/-- `vfadd`. -/
def execVfadd (v : VArgs) (m : BitVec 3) (s : State) : Out := vecFp 0x70 v m Num.add s
/-- `vfsub`. -/
def execVfsub (v : VArgs) (m : BitVec 3) (s : State) : Out := vecFp 0x70 v m (fun rm a b => a.add rm b.neg) s
/-- `vfmul`. -/
def execVfmul (v : VArgs) (m : BitVec 3) (s : State) : Out := vecFp 0x71 v m (fun _ a b => a.mul b) s

/-- A fused instruction. -/
def vecFused (negate : Bool) (v : VArgs) (c : Field) (m : BitVec 3) (s : State) : Out :=
  s.issue 0x72 .free [.wV v.d, .rV 1 v.a, useB v.b v.s true, .rV 3 c] fun s =>
    let rm := s.ctx.mode m
    s.fpMerge v.d (fpFormat v.w) (fpBits v.w) v.k v.z rm fun i =>
      fused negate rm (s.fpA v.a v.w i) (s.fpB v i) (s.fpA c v.w i)

/-- `vfma`. -/
def execVfma (v : VArgs) (c : Field) (m : BitVec 3) (s : State) : Out := vecFused false v c m s
/-- `vfnma`. -/
def execVfnma (v : VArgs) (c : Field) (m : BitVec 3) (s : State) : Out := vecFused true v c m s

/-- `vfmin` and `vfmax`: the chosen operand's bits. -/
def vecPick (greater : Bool) (v : VArgs) (s : State) : Out :=
  s.issue 0x73 .free [.wV v.d, .rV 1 v.a, useB v.b v.s true] fun s =>
    let w := fpBits v.w
    let one (i : Nat) : Nat × Flags :=
      minMax (fpFormat v.w) greater (vecElem (s.readV v.a) w i) (s.elemB v.b v.s true w i)
    ((s.mergeV v.d w (s.active v.k) v.z fun i => (one i).1).flag (flagsOf (512 / w) (s.active v.k) fun i => (one i).2)).endV

/-- `vfmin`. -/
def execVfmin (v : VArgs) (s : State) : Out := vecPick false v s
/-- `vfmax`. -/
def execVfmax (v : VArgs) (s : State) : Out := vecPick true v s

/-! ### Conversion and width (R144, R145) -/

/-- The width of a format in a vector register. -/
def codeBits (code : Nat) : Nat :=
  match code with
  | 0 => 32 | 1 => 16 | 2 => 16 | 5 => 4 | 10 => 32 | 11 => 32 | 12 => 64 | 13 => 64 | _ => 8

/-- `vcvt` (R144). -/
def execVcvt (d a : Field) (k : BitVec 3) (z : Bool) (m p : BitVec 3) (dst src : BitVec 4) (s : State) : Out :=
  s.issue 0x74 .free [.wV d, .rV 1 a] fun s =>
    let rm := s.ctx.mode m
    let ws := codeBits src.toNat
    let wd := codeBits dst.toNat
    let n := 512 / max ws wd
    let from_ (i : Nat) : Nat := if ws < wd then p.toNat * n + i else i
    let pos (i : Nat) : Nat := if wd < ws then p.toNat * n + i else i
    let one (i : Nat) : Nat × Flags :=
      writeCode dst.toNat rm s.ctx.sat (s.randomAt rm i) (readCode src.toNat (vecElem (s.readV a) ws (from_ i)))
    let out := s.writeV d (vecOf wd (512 / wd) fun j =>
      let i := j - pos 0
      if pos 0 ≤ j && i < n then (if s.active k i then (one i).1 else s.keptV d z wd j) else s.keptV d false wd j)
    ((out.drawsFor rm n).flag (flagsOf n (s.active k) fun i => (one i).2)).endV

/-- A wide element narrowed (R145): 0 truncates, 1 signed to signed, 2 signed to unsigned. -/
def narrow (sat : BitVec 2) (w x : Nat) : Nat := clampTo sat (w / 2) (if sat = 0 then (x : Int) else elemS w x)

/-- `vpack`. -/
def execVpack (v : VArgs3) (sat : BitVec 2) (s : State) : Out :=
  s.issue 0x75 .free [.wV v.d, .rV 1 v.a, .rV 2 v.b] fun s =>
    let w := viewBits v.w
    let n := viewCount v.w
    (s.mergeV v.d (w / 2) (s.active v.k) v.z fun i =>
      narrow sat w (if i < n then vecElem (s.readV v.a) w i else vecElem (s.readV v.b) w (i - n))).endV

/-- `vunpack`. -/
def execVunpack (v : VArgs2) (sx hi : Bool) (s : State) : Out :=
  s.issue 0x75 .free [.wV v.d, .rV 1 v.a] fun s =>
    let w := viewBits v.w
    let n := viewCount v.w
    (s.mergeV v.d w (s.active v.k) v.z fun i =>
      lowBits w (elemOf (!sx) (w / 2) (vecElem (s.readV v.a) (w / 2) (hi.toNat * n + i)))).endV

/-! ### Masks (R146) -/

/-- A mask of two masks. (DEDUCED: log entry 23.) -/
def maskOp (f : Word → Word → Word) (d a b : Field) (s : State) : Out :=
  s.issue 0x77 .free [.wK d, .rK 1 a, .rK 2 b] fun s => (s.writeK d (f (s.readK a.toNat) (s.readK b.toNat))).endV

/-- `kop.and`. -/
def execKopAnd (d a b : Field) (s : State) : Out := maskOp (· &&& ·) d a b s
/-- `kop.or`. -/
def execKopOr (d a b : Field) (s : State) : Out := maskOp (· ||| ·) d a b s
/-- `kop.xor`. -/
def execKopXor (d a b : Field) (s : State) : Out := maskOp (· ^^^ ·) d a b s
/-- `kop.andn`. -/
def execKopAndn (d a b : Field) (s : State) : Out := maskOp (fun x y => x &&& ~~~y) d a b s
/-- `kop.not`. -/
def execKopNot (d a : Field) (s : State) : Out :=
  s.issue 0x77 .free [.wK d, .rK 1 a] fun s => (s.writeK d (~~~(s.readK a.toNat))).endV
/-- `kop.fromg`. -/
def execKopFromg (d a : Field) (s : State) : Out :=
  s.issue 0x77 .free [.wK d, .rG 1 a] fun s => (s.writeK d (s.readG a)).endV
/-- `kop.tog`. -/
def execKopTog (d a : Field) (s : State) : Out :=
  s.issue 0x77 .free [.wG d, .rK 1 a] fun s => (s.writeG d (s.readK a.toNat)).endV
/-- `kop.lo`. -/
def execKopLo (d a : Field) (s : State) : Out :=
  s.issue 0x77 .free [.wK d, .rG 1 a] fun s =>
    (s.writeK d (BitVec.ofNat 64 (2 ^ (min (s.readG a).toNat 64) - 1))).endV

/-- `kpop`. (DEDUCED: log entry 23.) -/
def execKpop (d a : Field) (w : BitVec 2) (s : State) : Out :=
  s.issue 0x78 .free [.wG d, .rK 1 a] fun s =>
    (s.writeG d (BitVec.ofNat 64 ((List.range (viewCount w)).filter (s.readK a.toNat).bit).length)).endV

/-- `kfirst`. (DEDUCED: log entry 23.) -/
def execKfirst (d a : Field) (w : BitVec 2) (s : State) : Out :=
  s.issue 0x79 .free [.wG d, .rK 1 a] fun s =>
    (s.writeG d (BitVec.ofNat 64 (((List.range (viewCount w)).find? (s.readK a.toNat).bit).getD (viewCount w)))).endV

end Sys2Proof.Machine
end

