-- ==== Sys2Proof/Machine/Events.lean ====
section
/-!
DEFINITION. The Drone instructions and their events (R260 to R294).
-/

namespace Sys2Proof.Machine

open Sys2Proof

/-! ### Checks at issue (R277, R284) -/

/-- The opcode as R277 and R284 place it in FINFO. -/
def eventInfo (op idx : Nat) : Word := BitVec.ofNat 64 (idx * 2 ^ 16 + op * 2 ^ 8)

/-- PROT of an object's free index, or of a slot it does not have (R284, R285). -/
def freeIndex (op idx : Nat) : TrapInfo := ⟨6, 4, none, eventInfo op idx, none⟩

/-- PROT of an address that fails a command's own rule. -/
def eventAddress (op : Nat) : TrapInfo := { ownRule with finfo := eventInfo op 0 }

/-- The core that an identity register names: bit 63 names the issuing one. -/
def State.named (s : State) (w : Word) : Nat := if w.bit 63 then s.lcore.toNat else w.bits 12 29

/-- It names no core of the job. -/
def State.namesNone (s : State) (w : Word) : Bool := !w.bit 63 && !s.coreOfJob (w.bits 12 29)

/-- PROT of an identity that names no core. -/
def noCore (op : Nat) : TrapInfo := { noSuchCore with finfo := eventInfo op 0 }

/-- A translation's trap of a Drone command: R277 puts OP in FINFO[15:8]. (DEDUCED: log entry 17.) -/
def TrapInfo.ofDrone (e : TrapInfo) (op : Nat) : TrapInfo := { e with finfo := e.finfo.setBits 8 8 op }

/-- The index of an object. -/
def objIndex (w : Word) : Nat := w.bits 0 12

/-- An instruction on an object of the issuing core: a free index traps. (DEDUCED: log entry 19.) -/
def State.onObject (s : State) (op : Nat) (w : Word) (f : Nat → Effect) : Effect :=
  if dirSt (s.dir (objIndex w)) = 0 then .trap (freeIndex op (objIndex w)) else f (objIndex w)

/-- An address of home space within a slice, of so many bytes. (DEDUCED: log entry 56.) -/
def inSlice (base ga n : Nat) : Bool := base ≤ ga && ga + n ≤ base + 2 ^ 24

/-- A command joins the event queue, or waits for room (R237, R277). -/
def State.queueEv (s : State) (op : Nat) (x : EvOp) (y : Sync) (rpt : Bool) : Effect :=
  if s.queueRoom 3 then .done (s.acceptEv op x y rpt) else .wait s (.cmdFull 3)

/-! ### Queued commands (R278 to R282) -/

/-- A configuration of `onew` that no object has. -/
def cfgBad (c : Word) : Bool :=
  cfgKind c == 3 || cfgSw c == 0 || 28 < cfgSw c || (cfgKind c == 2 && (cfgSw c != 1 || cfgNs c != 0))

/-- `onew`. (DEDUCED: log entry 18.) -/
def execOnew (d : Field) (b c : BitVec 6) (rpt : Bool) (y : Sync) (s : State) : Out :=
  s.issue 0xC0 .ordered [.rG 0 d, .rG 2 b, .rG 3 c] fun s =>
    let who := s.readG d
    let cfg := s.readG c
    if s.namesNone who then .trap (noCore 0xC0)
    else if cfgBad cfg then .trap (shapeTrap 0xC0 5)
    else
      match s.translate s.cur (s.readG b) 1 .store 0xC0 0 with
      | .error e => .trap (e.ofDrone 0xC0)
      | .ok t =>
        if t.ga % 32 != 0 || !inSlice (s.sliceOf (s.named who)) t.ga (recordSize (cfgSw cfg) (cfgNs cfg)) then
          .trap (eventAddress 0xC0)
        else
          (s.install t.x).queueEv 0xC0
            (.onew (BitVec.ofNat 64 (s.named who)) (BitVec.ofNat 12 (objIndex who)) (BitVec.ofNat 24 (gaOffset t.ga)) cfg) y rpt


/-- `odel`. (DEDUCED: log entry 18.) -/
def execOdel (d : Field) (rpt : Bool) (y : Sync) (s : State) : Out :=
  s.issue 0xC1 .ordered [.rG 0 d] fun s =>
    let who := s.readG d
    if s.namesNone who then .trap (noCore 0xC1)
    else s.queueEv 0xC1 (.odel (BitVec.ofNat 64 (s.named who)) (BitVec.ofNat 12 (objIndex who))) y rpt

/-- The event that a header word describes (R280). -/
def State.eventOf (s : State) (who header : Word) (payload : List (BitVec 32)) : Ev :=
  let h := s.ctx.hobj
  let v := h.bit 40
  let ts := header.bits 32 32 + (if header.bit 15 then s.now else 0)
  ⟨BitVec.ofNat 41 (s.named who * 4096 + objIndex who), BitVec.ofNat 8 (header.bits 24 8), BitVec.ofNat 6 (header.bits 16 6),
    s.ownId (if v then h.bits 0 12 else 0), !v, if v then BitVec.ofNat 8 (h.bits 32 8) else 0, BitVec.ofNat 32 ts, payload,
    false, 0⟩

/-- An event is queued. -/
def State.sendEvent (s : State) (op : Nat) (who header : Word) (payload : List (BitVec 32)) (y : Sync) : Effect :=
  if s.namesNone who then .trap (noCore op)
  else s.queueEv op (.esend (BitVec.ofNat 64 (s.named who)) (s.eventOf who header payload)) y false

/-- `esend`. (DEDUCED: log entry 18.) -/
def execEsend (d : Field) (b c : BitVec 6) (y : Sync) (s : State) : Out :=
  s.issue 0xC5 .ordered [.rG 0 d, .rG 2 b, .rF 3 c] fun s =>
    s.sendEvent 0xC5 (s.readG d) (s.readG b) [BitVec.ofNat 32 (s.readF c).toNat] y

/-- The vector register after one that an instruction names lies outside the allotment. -/
def State.lacksNext (s : State) (n : Nat) : Bool := 31 ≤ n || 8 * s.ctx.vn ≤ n + 1

/-- Its ILLREG, for the field that names the first. -/
def nextTrap (op field n : Nat) : TrapInfo := illreg op ⟨field, .v, n + 1, true, false⟩ 1

/-- Word `i` of a vector register and the one after it. -/
def State.pairWord (s : State) (n : Field) (i : Nat) : Nat :=
  if i < 16 then vecElem (s.readV n) 32 i else vecElem (nth s.ctx.v (n.toNat + 1) 0) 32 (i - 16)

/-- `esendv`. (DEDUCED: log entry 18.) -/
def execEsendv (d : Field) (b c : BitVec 6) (n : BitVec 5) (y : Sync) (s : State) : Out :=
  let uses : List Use := [.rG 0 d, .rG 2 b, .rV 3 c]
  let count := n.toNat + 1
  if (s.firstUse 0xC6 uses).isNone && 16 < count && s.lacksNext c.toNat then .next (s.raise (nextTrap 0xC6 3 c.toNat))
  else
    s.issue 0xC6 .ordered uses fun s =>
      s.sendEvent 0xC6 (s.readG d) (s.readG b) ((List.range count).map fun i => BitVec.ofNat 32 (s.pairWord c i)) y

/-- `efan`. (DEDUCED: log entry 18.) -/
def execEfan (d : Field) (b c : BitVec 6) (y : Sync) (s : State) : Out :=
  s.issue 0xC8 .ordered [.rG 0 d, .rG 2 b, .rG 3 c] fun s =>
    let idx := objIndex (s.readG d)
    let count := (s.readG c).toNat
    if 65535 < count then .trap (shapeTrap 0xC8 5)
    else
      match s.translate s.cur (s.readG b) 1 .load 0xC8 0 with
      | .error e => .trap (e.ofDrone 0xC8)
      | .ok t =>
        if t.ga % 16 != 0 || !inSlice s.ownBase t.ga (16 * count) then .trap (eventAddress 0xC8)
        else
          s.onObject 0xC8 (s.readG d) fun _ =>
            (s.install t.x).queueEv 0xC8 (.efan (BitVec.ofNat 12 idx) (gaOffset t.ga) count) y false

/-- `esread`. (DEDUCED: log entry 18.) -/
def execEsread (d : Field) (b : BitVec 6) (cut : BitVec 8) (cur : Bool) (y : Sync) (s : State) : Out :=
  s.issue 0xCC .ordered [.rG 0 d, .rG 2 b] fun s =>
    let who := s.readG d
    let count := min (s.readG b).toNat (4096 - objIndex who)
    if s.namesNone who then .trap (noCore 0xCC)
    else s.queueEv 0xCC (.esread (BitVec.ofNat 64 (s.named who)) (BitVec.ofNat 12 (objIndex who)) count cut cur) y false

/-! ### Their work at the target -/

/-- `onew` at this core. -/
def execOnewAtTarget (index : BitVec 12) (off : BitVec 24) (cfg : Word) (sender : BitVec 29) (req : Option Nat) (s : State) : Out :=
  s.atTarget sender req fun s =>
    let r := s.create index.toNat off.toNat cfg
    r.1.targetReply sender req (.data r.2)

/-- The target's answer, once the events with these numbers have been accepted (R237). -/
def State.answerAfter (s : State) (sender : BitVec 29) (req : Option Nat) (ids : List Nat) (r : Reply) : State :=
  match ids, req with
  | [], _ => s.targetReply sender req r
  | _, some id => s.setStage id (.owes ids r)
  | _, none => { s with owed := s.owed ++ [⟨sender.toNat, ids, r⟩] }

/-- `odel` at this core: its retractions must be accepted before it completes. -/
def execOdelAtTarget (index : BitVec 12) (sender : BitVec 29) (req : Option Nat) (s : State) : Out :=
  s.atTarget sender req fun s =>
    let r := s.delete index.toNat
    r.1.answerAfter sender req ((List.range (r.1.seqNo - s.seqNo)).map (s.seqNo + ·)) (.data r.2)

/-- `esread` at this core: the words of every object. -/
def execEsreadAtTarget (first : BitVec 12) (count : Nat) (cut : BitVec 8) (cur : Bool) (sender : BitVec 29) (req : Option Nat)
    (s : State) : Out :=
  s.atTarget sender req fun s =>
    let ws := s.readObjects first.toNat count cut.toNat cur
    match req with
    | none => s.targetReply sender none (.data (ofBytes (ws.flatMap fun w => bytesOf w.toNat 8)))
    | some id => { s with net := s.net.filter (·.id != id) }.handWords id ws

/-! ### Objects of the issuing core (R283 to R285) -/

/-- `ocfg`: a field of an object. -/
def ocfg (a b : Field) (f : State → Nat → Word → Effect) (s : State) : Out :=
  s.issue 0xC2 .ordered [.rG 1 a, .rG 2 b] fun s => s.onObject 0xC2 (s.readG a) fun idx => f s idx (s.readG b)

/-- A leak below zero, or no number. -/
def leakBad (w : Nat) : Bool :=
  match fp32.read w with
  | .nan _ => true
  | x => decide (x.cmp (.fin false 0 0) < 0)

/-- `ocfg.leak`. -/
def execOcfgLeak (a b : Field) (s : State) : Out :=
  ocfg a b (fun s idx v =>
    if leakBad (v.bits 0 32) then .trap (shapeTrap 0xC2 5)
    else .done (s.setHd idx 2 (putBits (s.hd idx 2) 32 32 (v.bits 0 32)))) s

/-- `ocfg.theta`. -/
def execOcfgTheta (a b : Field) (s : State) : Out :=
  ocfg a b (fun s idx v => .done (s.setHd idx 2 (putBits (s.hd idx 2) 0 32 (v.bits 0 32)))) s

/-- `ocfg.user`. -/
def execOcfgUser (a b : Field) (s : State) : Out := ocfg a b (fun s idx v => .done (s.setHd idx 4 v.toNat)) s

/-- `ocfg.type`. -/
def execOcfgType (a b : Field) (s : State) : Out :=
  ocfg a b (fun s idx v => .done (s.setHd idx 0 (putBits (s.hd idx 0) 19 6 (v.bits 0 6)))) s

/-- A block of an object as two vector registers: words at or above SW read zero. -/
def State.blockWords (s : State) (idx b from_ : Nat) : VWord :=
  vecOf 32 16 fun i => if from_ + i < hdSw (s.hd idx 0) then s.word32 idx b (from_ + i) else 0

/-- A read of a block into D and, for an object of more than 16 words, the register after it. -/
def State.readBlock (s : State) (op : Nat) (d : Field) (idx b : Nat) : Effect :=
  if hdSw (s.hd idx 0) ≤ 16 then .done (s.writeV d (s.blockWords idx b 0))
  else if s.lacksNext d.toNat then .trap (nextTrap op 0 d.toNat)
  else .done ((s.writeV d (s.blockWords idx b 0)).writeV (d + 1) (s.blockWords idx b 16))

/-- The block forms of `oget`. -/
def ogetBlock (d a : Field) (b : Nat) (s : State) : Out :=
  s.issue 0xC3 .free [.wV d, .rG 1 a] fun s => s.onObject 0xC3 (s.readG a) fun idx => s.readBlock 0xC3 d idx b

/-- `oget`. -/
def execOget (d a : Field) (s : State) : Out := ogetBlock d a 0 s
/-- `oget.ref`. -/
def execOgetRef (d a : Field) (s : State) : Out := ogetBlock d a 1 s
/-- `oget.sh`. -/
def execOgetSh (d a : Field) (s : State) : Out := ogetBlock d a 2 s

/-- `oget.w`. -/
def execOgetW (d a : Field) (w : BitVec 5) (s : State) : Out :=
  s.issue 0xC3 .free [.wF d, .rG 1 a] fun s =>
    s.onObject 0xC3 (s.readG a) fun idx =>
      .done (s.writeF d (BitVec.ofNat 64 (if w.toNat < hdSw (s.hd idx 0) then s.word32 idx 0 w.toNat else 0)))

/-- `oget.hd`. -/
def execOgetHd (d a : Field) (n : BitVec 3) (s : State) : Out :=
  s.issue 0xC3 .free [.wG d, .rG 1 a] fun s =>
    s.onObject 0xC3 (s.readG a) fun idx => .done (s.writeG d (BitVec.ofNat 64 (s.hd idx n.toNat)))

/-- `oput`. -/
def execOput (d a : Field) (s : State) : Out :=
  s.issue 0xC3 .ordered [.rV 0 d, .rG 1 a] fun s =>
    s.onObject 0xC3 (s.readG a) fun idx =>
      let sw := hdSw (s.hd idx 0)
      if 16 < sw && s.lacksNext d.toNat then .trap (nextTrap 0xC3 0 d.toNat)
      else .done ((s.setBlock idx 0 sw (s.pairWord d)).residual idx)

/-- `oput.w`. -/
def execOputW (d a : Field) (w : BitVec 5) (s : State) : Out :=
  s.issue 0xC3 .ordered [.rF 0 d, .rG 1 a] fun s =>
    s.onObject 0xC3 (s.readG a) fun idx =>
      let t := if w.toNat < hdSw (s.hd idx 0) then s.setWord32 idx 0 w.toNat ((s.readF d).bits 0 32) else s
      .done (t.residual idx)

/-- An instruction on a slot: one that the object does not have traps. (DEDUCED: log entry 19.) -/
def State.onSlot (s : State) (a b : Field) (f : Nat → Nat → Effect) : Effect :=
  s.onObject 0xC4 (s.readG a) fun idx =>
    let j := (s.readG b).toNat
    if hdNs (s.hd idx 0) ≤ j then .trap (freeIndex 0xC4 idx) else f idx j

/-- `eslot`. -/
def execEslot (d a b : Field) (s : State) : Out :=
  s.issue 0xC4 .free [.wV d, .rG 1 a, .rG 2 b] fun s => s.onSlot a b fun idx j => s.readBlock 0xC4 d idx (3 + j)

/-- `eslot.tag`. -/
def execEslotTag (d a b : Field) (s : State) : Out :=
  s.issue 0xC4 .free [.wG d, .rG 1 a, .rG 2 b] fun s =>
    s.onSlot a b fun idx j => .done (s.writeG d (BitVec.ofNat 64 (s.tagOf idx j)))

/-- `eslot.free`. -/
def execEslotFree (a b : Field) (s : State) : Out :=
  s.issue 0xC4 .ordered [.rG 1 a, .rG 2 b] fun s =>
    s.onSlot a b fun idx j => .done (((s.subtractSlot idx j).setTag idx j 0).residual idx)

/-! ### `edamp` (R286) -/

/-- β without an operand: BETA of the type of the context's object, while its handler runs. -/
def State.beta (s : State) : Nat :=
  let h := s.ctx.hobj
  let idx := h.bits 0 12
  let d := s.dir idx
  let gen := h.bits 32 8
  let runs := dirQ d == 3 &&
    ((dirSt d == 1 && dirGen d == gen) || (dirSt d == 2 && dirGen d == (gen + 1) % 256))
  if h.bit 40 && runs then (s.handler (hdType (s.hd idx 0))).damp.toNat else 0

/-- One element: the blend of a message with its predecessor. -/
def dampOne (sat : Bool) (beta a b : Nat) : Nat × Flags :=
  let x := fp32.read a
  let less := (Num.fin false 1 0).add 0 (fp32.read beta).neg
  let diff := (fp32.read b).add 0 x.neg
  let prod := less.1.mul diff.1
  let d := finishNum fp32 0 sat 0 (prod.1, less.2.or (diff.2.or prod.2))
  let y := x.add 0 (fp32.read d.1)
  finishNum fp32 0 sat 0 (y.1, d.2.or y.2)

/-- `edamp`. (DEDUCED: log entry 52.) -/
def execEdamp (d a b c : Field) (fc z : Bool) (k : BitVec 3) (s : State) : Out :=
  s.issue 0xC7 .free ([.wV d, .rV 1 a, .rV 2 b] ++ if fc then [.rF 3 c] else []) fun s =>
    let beta := if fc then (s.readF c).bits 0 32 else s.beta
    let one (i : Nat) : Nat × Flags := dampOne s.ctx.sat beta (vecElem (s.readV a) 32 i) (vecElem (s.readV b) 32 i)
    .done ((s.mergeV d 32 (s.active k) z fun i => (one i).1).flag (flagsOf 16 (s.active k) fun i => (one i).2))

/-! ### Time and cuts (R287, R288) -/

/-- NOW is set. -/
def State.setNow (s : State) (t : Nat) : State :=
  { s with regs := { s.regs with etime := BitVec.ofNat 64 (t % 2 ^ 32) } }

/-- `etick`. -/
def execEtick (d a : Field) (s : State) : Out :=
  s.issue 0xC9 .ordered [.wG d, .rG 1 a] fun s =>
    let t := s.setNow (s.now + (s.readG a).bits 0 32)
    .done (t.writeG d (BitVec.ofNat 64 t.now))

/-- `etick.set`. -/
def execEtickSet (d a : Field) (s : State) : Out :=
  s.issue 0xC9 .ordered [.wG d, .rG 1 a] fun s =>
    let v := (s.readG a).bits 0 32
    let t := if before v s.now then s else s.setNow v
    .done (t.writeG d (BitVec.ofNat 64 t.now))

/-- `enow`. -/
def execEnow (d : Field) (s : State) : Out :=
  s.issue 0xCA .free [.wG d] fun s => .done (s.writeG d (BitVec.ofNat 64 s.now))

/-- `esnap`. -/
def execEsnap (d a b : Field) (s : State) : Out :=
  s.issue 0xCB .ordered [.wG d, .rG 1 a, .rG 2 b] fun s =>
    let t := (s.readG a).bits 0 32
    if before s.now t then
      let s : State := { s with
        regs := { s.regs with esnap := BitVec.ofNat 64 (2 ^ 40 + (s.readG b).bits 0 8 * 2 ^ 32 + t) }
        drone := { s.drone with snaplate := 0 } }
      .done (s.writeG d 1)
    else .done (s.writeG d 0)

/-- `esnap.close`. -/
def execEsnapClose (d : Field) (s : State) : Out :=
  s.issue 0xCB .ordered [.wG d] fun s =>
    let t : State := { s with regs := { s.regs with esnap := s.regs.esnap.setBits 40 1 0 } }
    .done (t.writeG d (Word.ofBool s.cutActive))

/-! ### Convergence values (R290) -/

/-- The unsettled objects. (DEDUCED: log entry 52.) -/
def State.unsettled (s : State) : List Nat := (List.range 4096).filter fun i => dirQ (s.dir i) != 0

/-- The largest residual among them. -/
def State.largestResidual (s : State) : Nat :=
  match s.unsettled with
  | [] => 0
  | i :: t => t.foldl (fun m j => if bankGt (s.resid j) m then s.resid j else m) (s.resid i)

/-- `cvq` of a value. -/
def cvq (d : Field) (f : State → Word) (s : State) : Out := s.issue 0xCD .free [.wG d] fun s => .done (s.writeG d (f s))

/-- `cvq` of a counter that it clears. -/
def cvqClear (d : Field) (f : Drone → Word) (clear : Drone → Drone) (s : State) : Out :=
  s.issue 0xCD .free [.wG d] fun s => .done ((s.withDrone clear).writeG d (f s.drone))

/-- `cvq.un`. -/
def execCvqUn (d : Field) (s : State) : Out := cvq d (fun s => BitVec.ofNat 64 s.unsettled.length) s
/-- `cvq.res`. -/
def execCvqRes (d : Field) (s : State) : Out := cvq d (fun s => BitVec.ofNat 64 s.largestResidual) s
/-- `cvq.late`. -/
def execCvqLate (d : Field) (s : State) : Out := cvq d (·.drone.late) s
/-- `cvq.stale`. -/
def execCvqStale (d : Field) (s : State) : Out := cvq d (·.drone.stale) s
/-- `cvq.drop`. -/
def execCvqDrop (d : Field) (s : State) : Out := cvq d (·.drone.drop) s
/-- `cvq.pend`. -/
def execCvqPend (d : Field) (s : State) : Out := cvq d (fun s => BitVec.ofNat 64 s.drone.pending.length) s
/-- `cvq.sent`. -/
def execCvqSent (d : Field) (s : State) : Out := cvq d (·.drone.sent) s
/-- `cvq.recv`. -/
def execCvqRecv (d : Field) (s : State) : Out := cvq d (·.drone.received) s
/-- `cvq.slate`. -/
def execCvqSlate (d : Field) (s : State) : Out := cvq d (·.drone.snaplate) s
/-- `cvq.late.c`. (DEDUCED: log entry 53.) -/
def execCvqLateC (d : Field) (s : State) : Out := cvqClear d (·.late) (fun x => { x with late := 0 }) s
/-- `cvq.stale.c`. (DEDUCED: log entry 53.) -/
def execCvqStaleC (d : Field) (s : State) : Out := cvqClear d (·.stale) (fun x => { x with stale := 0 }) s
/-- `cvq.drop.c`. (DEDUCED: log entry 53.) -/
def execCvqDropC (d : Field) (s : State) : Out := cvqClear d (·.drop) (fun x => { x with drop := 0 }) s
/-- `cvq.slate.c`. (DEDUCED: log entry 53.) -/
def execCvqSlateC (d : Field) (s : State) : Out := cvqClear d (·.snaplate) (fun x => { x with snaplate := 0 }) s

/-! ### Handlers (R291, R274) -/

/-- `hnd`. (DEDUCED: log entry 51.) -/
def execHnd (a b c : Field) (t : BitVec 6) (s : State) : Out :=
  s.issue 0xCE .ordered [.rG 1 a, .rG 2 b, .rF 3 c] fun s =>
    let entry := s.readG a
    let cfg := s.readG b
    let par := s.readF c
    let put (h : Handler) : Effect := .done (s.withDrone fun d => { d with handlers := upd d.handlers t.toNat h })
    let old := s.handler t.toNat
    if entry = 0 then put { old with valid := false }
    else
      let sn := cfg.bits 0 3
      let vn := cfg.bits 4 3
      let mode := cfg.bits 12 2
      if sn = 0 || 4 < sn || 4 < vn || mode = 3 then .trap (shapeTrap 0xCE 5)
      else put ⟨true, entry, sn, vn, BitVec.ofNat 2 (cfg.bits 8 2), mode, BitVec.ofNat 32 (par.bits 0 32),
        BitVec.ofNat 32 (par.bits 32 32), s.ctx.pl⟩

/-- The handler of an object starts in a helper (R274). -/
def State.startHandler (s : State) (idx : Nat) (k : Fin 11) : State :=
  let s := s.leaveQueue idx
  let h := s.hd idx 0
  let y := s.handler (hdType h)
  if !y.valid then s.setQ idx 0
  else
    let sw := hdSw h
    let s := if hdKind h = 2 then s else (s.setBlock idx 1 sw fun i => s.word32 idx 0 i).setResid idx 0
    let s := s.setQ idx 3
    let h := s.hd idx 0
    let fires := slice h 48 16
    let s := s.setHd idx 0 (putBits h 48 16 (fires + 1))
    let gen := dirGen (s.dir idx)
    let user := s.hd idx 4
    (s.begin k y.sn y.vn y.pri y.pl y.entry).modifyAt k fun c => { c with
      hobj := BitVec.ofNat 64 (2 ^ 40 + gen * 2 ^ 32 + idx)
      srcount := BitVec.ofNat 64 ((0x8000 + idx) * 2 ^ 48 + fires * 2 ^ 32)
      g := upd (upd c.g 1 (BitVec.ofNat 64 (idx + hdType h * 2 ^ 16 + hdKind h * 2 ^ 24 + gen * 2 ^ 32))) 2 (BitVec.ofNat 64 user) }

/-- The head of the residual queue starts its handler. -/
def execHandlerStart (s : State) : Out :=
  match s.startableHandler with
  | some (idx, k) => .next (s.startHandler idx k)
  | none => .next s

/-! ### Holding delivery (R293) -/

/-- HOLD is set or cleared. -/
def State.setHold (s : State) (b : Bool) : State :=
  { s with regs := { s.regs with etcfg := putBit s.regs.etcfg 16 b } }

/-- `ehold`: it completes when the write-back ends. (DEDUCED: log entry 52.) -/
def execEhold (d : Field) (s : State) : Out :=
  s.issue 0xCF .ordered [.wG d] fun s =>
    if s.held && !s.writingBack then .done (s.writeG d 1) else .wait (s.setHold true) (.writeBack d s.held)

/-- The residual queue goes to the ring. (DEDUCED: log entry 52.) -/
def State.spillQueue (s : State) : State :=
  s.drone.residual.foldl (fun s e => s.enterRing e.1.toNat) (s.withDrone fun d => { d with residual := [] })

/-- The write-back ends, and every `ehold` that waits for it completes. -/
def execDroneWritebackDone (s : State) : Out :=
  if !s.writingBack then .next s
  else
    let s := if s.held then s.spillQueue else s
    .next (allCtx.foldl (fun s i => match (s.at i).live, (s.at i).block with
      | true, some ⟨.writeBack d old, _, _⟩ => s.completeG i d (Word.ofBool old)
      | _, _ => s) s)

/-- The queue is restored from the ring: the 64 of the largest RESID, equal ones in ring order. (DEDUCED: log entry 52.) -/
def State.restoreQueue (s : State) : State :=
  let ring := s.drone.ring
  let all := ring.zipIdx.foldl (fun l (p : BitVec 12 × Nat) =>
    queueInsert (p.1, BitVec.ofNat 32 (s.resid p.1.toNat), s.drone.seq + p.2) l) s.drone.residual
  let top := all.take 64
  let rest := all.drop 64
  let left := (rest.filter fun e => !ring.contains e.1).map (·.1)
  let s := s.withDrone fun d => { d with
    residual := top, ring := (ring.filter fun i => rest.any (·.1 == i)) ++ left, seq := d.seq + ring.length }
  let s := top.foldl (fun s e => s.setQ e.1.toNat 1) s
  left.foldl (fun s i => s.setQ i.toNat 2) s

/-- `ehold.rel`. (DEDUCED: log entry 52.) -/
def execEholdRel (d : Field) (s : State) : Out :=
  s.issue 0xCF .ordered [.wG d] fun s =>
    let t := if s.held then (s.setHold false).restoreQueue else s
    .done (t.writeG d (Word.ofBool s.held))

/-- `ehold.q`. -/
def execEholdQ (d : Field) (s : State) : Out := s.issue 0xCF .free [.wG d] fun s => .done (s.writeG d (Word.ofBool s.held))

/-! ### The front end (R261, R267 to R269) -/

/-- Another core's event is refused: a home's notice will follow its acceptance (R420). -/
def State.refuseEvent (s : State) (e : Ev) : State :=
  { s with sent := s.sent ++ [.rnr (idCore e.src)], evRnrs := if s.evRnrs.contains e then s.evRnrs else s.evRnrs ++ [e] }

/-- Another core's event is accepted; the notice goes out if it was refused before. -/
def State.takeEvent (s : State) (e : Ev) : State :=
  let s := s.acceptEvent e
  let s := if s.evRnrs.contains e then { s with sent := s.sent ++ [.notice (idCore e.src)], evRnrs := s.evRnrs.erase e } else s
  { s with sent := s.sent ++ [.reply (idCore e.src) (.data 0)] }

/-- An event reaches this core's front end: it is accepted, or refused when the pending store is full. -/
def execEventAccept (e : Ev) (req : Option Nat) (s : State) : Out :=
  s.atTarget (BitVec.ofNat 29 (idCore e.src)) req fun s =>
    let room := s.drone.pending.length < pendingDepth
    match req with
    | some id => if room then (s.acceptEvent e).replyTo id (.data 0) else s.setStage id .refused
    | none => if room then s.takeEvent e else s.refuseEvent e

/-- NOW advances by one (R414). -/
def State.nowOn (s : State) : State :=
  (s.setNow (s.now + 1)).withDrone fun d => { d with phase := d.phase - s.regs.etcfg.bits 0 16 }

/-- NOW advances, if RATE cycles have passed. -/
def execNowAdvance (s : State) : Out :=
  let rate := s.regs.etcfg.bits 0 16
  .next (if rate != 0 && rate ≤ s.drone.phase then s.nowOn else s)

/-- The next due event is delivered. -/
def execEventDelivery (s : State) : Out :=
  if s.held || s.dbg.clusterHalted then .next s
  else
    match s.nextDue with
    | some p => .next ((s.withDrone fun d => { d with pending := d.pending.filter (·.seq != p.seq) }).integrate p.ev)
    | none => .next s

/-! ### The event queue (R237, R277) -/

/-- The head of the event queue starts. -/
def execEventQueueCommandStart (s : State) : Out := .next (s.startEvent.getD s)

/-- The head of the event queue completes, once its answer and its words are delivered. -/
def execEventQueueCommandComplete (s : State) : Out := .next (s.completeEvent.getD s)

end Sys2Proof.Machine
end

