-- ==== Sys2Proof/Machine/TaskOps.lean ====
section
/-!
DEFINITION. The task and queue instructions and their events (R319 to R334).
-/

namespace Sys2Proof.Machine

open Sys2Proof

/-! ### Requests at a home of this core -/

/-- RNR goes to a foreign core; the request is remembered as refused. -/
def State.rnrTo (s : State) (r : ForeignReq) : State :=
  { s with sent := s.sent ++ [.rnr r.src], rnrs := if s.rnrs.contains r then s.rnrs else s.rnrs ++ [r] }

/-- A foreign request is accepted: if it was refused before, its acceptance notice goes out (R420). -/
def State.accepted (s : State) (r : ForeignReq) : State :=
  if s.rnrs.contains r then { s with sent := s.sent ++ [.notice r.src], rnrs := s.rnrs.erase r } else s

/-- The answer to a request: it goes back to this core or to a foreign one. -/
def State.homeReply (s : State) (r : ReqSel) (a : Reply) : State :=
  match r with
  | .own id => s.replyTo id a
  | .foreign q => let s := s.accepted q; { s with sent := s.sent ++ [.reply q.src a] }

/-- The refusal of a request with RNR (R164). -/
def State.homeRefuse (s : State) (r : ReqSel) : State :=
  match r with
  | .own id => s.setStage id .refused
  | .foreign q => s.rnrTo q

/-- The address and the operation of a request that reaches its home. -/
def State.requested (s : State) (r : ReqSel) : Option (Nat × MemOp) :=
  match r with
  | .own id => match s.arriving id with
    | some q => q.msg.op.map fun op => (q.ga, op)
    | none => none
  | .foreign q => some (q.ga.toNat, q.op)

/-- A slice or a device register whose cluster is powered off is not served (R398). (DEDUCED: log entry 25.) (DESIGN CHOICE: log entry 27.) -/
def State.unserved (s : State) (ga : Nat) : Bool :=
  (gaSpace ga == 0 || gaSpace ga == 2) && gaPkg ga == s.pkg && s.guard.offClusters.contains (BitVec.ofNat 7 (gaCore ga / 16))

/-- Nothing answers for an address: its package failed, or its cluster has no power. -/
def State.silent (s : State) (ga : Nat) : Bool := (s.deadPackage (gaPkg ga)).isSome || s.unserved ga

/-- The error of a task record that cannot be written (R167, R178). (DEDUCED: log entry 54.) -/
def State.recordError (s : State) (ga : Nat) : Option Reply :=
  if s.mem.isSealed ga then some (.fail 9 0 0 0)
  else if s.mem.poisoned ga 64 then some (.fail 17 0 0 0) else none

/-- A request on a task record reaches its home: refused on a frozen page, or by the slice of a core that reported itself saved (R369);
an error; or performed. -/
def State.onRecord (s : State) (r : ReqSel) (ga : Nat) (f : State → Nat → State × Nat) : State :=
  let ga := s.moved ga
  if s.silent ga then s
  else if (s.closedAt (gaPkg ga) (gaCore ga)).isSome then
    s.homeReply r (.fail 19 0 ((s.closedAt (gaPkg ga) (gaCore ga)).getD 0) 0)
  else if (s.launch.acked && s.ownSlice ga) || s.mem.frozen.contains (granule ga) then s.homeRefuse r
  else
    match s.recordError ga with
    | some e => s.homeReply r e
    | none =>
      let t := f s ga
      t.1.homeReply r (.data t.2)

/-! ### `tnew` and `tdec` (R327, R328) -/

/-- The record that an instruction names; it waits for the context's own adaptive stores to it (R161). -/
def State.recordAt (s : State) (op : Nat) (ea : Word) (f : State → Nat → Effect) : Effect :=
  match s.translate s.cur ea 8 .atomic op 0 with
  | .error e => .trap e
  | .ok t =>
    if ea.toNat % 64 != 0 || gaSpace t.ga != 0 then .trap { ownRule with faddr := some ea }
    else if s.overtakes [(t.ga, 64)] then .is (s.install t.x).stall
    else f (s.install t.x) t.ga

/-- `tnew`. (DEDUCED: log entry 54.) -/
def execTnew (d a b : Field) (s : State) : Out :=
  s.issue 0xD0 .ordered [.wG d, .rG 1 a, .rG 2 b] fun s =>
    s.recordAt 0xD0 (s.readG a) fun s ga => s.await [⟨s.readG a, ga, .access (.tnew (s.readG b)), false, false⟩] (.write d)

/-- `tdec`. (DEDUCED: log entry 54.) -/
def execTdec (a : Field) (s : State) : Out :=
  s.issue 0xD1 .ordered [.rG 1 a] fun s =>
    s.recordAt 0xD1 (s.readG a) fun s ga => s.postEffect [⟨s.readG a, ga, .access .tdec, true, false⟩]

/-- PCYC of a package (R320): this one's, or another's. (DESIGN CHOICE: log entry 106.) -/
def State.cycleAt (s : State) (pkg : Nat) : Word := if pkg = s.pkg then s.units.pcyc else Config.pcycOf pkg s.tick

/-- The record becomes ready: STATE 2, TREADY, and the run list of its home. Another core's run list is no state of this machine. -/
def State.makeReady (s : State) (ga : Nat) : State :=
  let s := s.poke (ga + 32) 8 (putBits (s.taskWord ga 4) 45 3 2)
  let s := s.poke (ga + 40) 8 (s.cycleAt (gaPkg ga)).toNat
  if s.ownSlice ga then s.appendTask ga else s

/-- A record is armed (R327). -/
def State.armRecord (s : State) (count : Word) (ga : Nat) : State × Nat :=
  let w := s.taskWord ga 4
  let st := recState w
  if st = 1 || st = 2 || st = 3 then (s, 2)
  else if recSn w = 0 || 4 < recSn w || 4 < recVn w then (s, 3)
  else
    let n := count.bits 0 32
    let s := s.poke (ga + 24) 8 (putBits (s.taskWord ga 3) 32 32 n)
    let s := s.zeros (ga + 40) 24
    if n = 0 then (s.makeReady ga, 1) else (s.poke (ga + 32) 8 (putBits w 45 3 1), 0)

/-- DROP gains one and stops at its largest value. -/
def State.countTaskDrop (s : State) : State :=
  let n := s.regs.taskstat.bits 32 32
  { s with regs := { s.regs with taskstat := s.regs.taskstat.setBits 32 32 (if n = 2 ^ 32 - 1 then n else n + 1) } }

/-- A decrement is performed (R328). DROP is the home core's. -/
def State.decrement (s : State) (ga : Nat) : State × Nat :=
  if recState (s.taskWord ga 4) != 1 then (if s.ownSlice ga then s.countTaskDrop else s, 0)
  else
    let n := (recPred (s.taskWord ga 3) + 2 ^ 32 - 1) % 2 ^ 32
    let s := s.poke (ga + 24) 8 (putBits (s.taskWord ga 3) 32 32 n)
    (if n = 0 then s.makeReady ga else s, 0)

/-- A `tnew` reaches a record of this core. -/
def execTnewAtHome (r : ReqSel) (s : State) : Out :=
  match s.requested r with
  | some (ga, .tnew n) => .next (s.onRecord r ga fun s ga => s.armRecord n ga)
  | _ => .next s

/-- A decrement reaches a record of this core. -/
def execTaskDecrement (r : ReqSel) (s : State) : Out :=
  match s.requested r with
  | some (ga, .tdec) => .next (s.onRecord r ga fun s ga => s.decrement ga)
  | _ => .next s

/-! ### Starts of the run lists (R322) -/

/-- A task starts in a helper. (DEDUCED: log entry 54.) -/
def State.startTask (s : State) (p ga : Nat) (k : Fin 11) : State :=
  let s : State := { s with tasks := { s.tasks with lists := upd s.tasks.lists p (nth s.tasks.lists p []).tail } }
  let s := s.refill p
  let w := s.taskWord ga 4
  let s := s.poke (ga + 32) 8 (putBits w 45 3 3)
  let s := s.poke (ga + 48) 8 s.units.pcyc.toNat
  let qid := slice (s.taskWord ga 3) 0 16
  let arg : Word := BitVec.ofNat 64 (s.taskWord ga 1)
  (s.begin k (recSn w) (recVn w) (BitVec.ofNat 2 (recPri w)) false (BitVec.ofNat 64 (s.taskWord ga 0))).modifyAt k fun c =>
    { c with
      g := upd c.g 1 arg
      srcount := BitVec.ofNat 64 (slice w 48 16 * 2 ^ 48)
      task := BitVec.ofNat 64 ga
      qlast := if qid = 0xFFFF then 0 else BitVec.ofNat 64 (2 ^ 63 + 2 ^ 62 + qid * 2 ^ 32) }

/-- The head of the highest list starts, if it may. -/
def execRunListStart (s : State) : Out :=
  match s.startableTask with
  | some (p, ga, k) => .next (s.startTask p ga k)
  | none => .next s

/-! ### Queue instructions (R324, R329 to R332) -/

/-- An identifier that is none (R324). -/
def queueBad (w : Word) : Bool := w.bits 13 3 != 0

/-- The identifier in a register. -/
def queueId (w : Word) : BitVec 16 := BitVec.ofNat 16 (w.bits 0 16)

/-- A waited request to the controller of a queue. -/
def State.askQueue (s : State) (a : Field) (op : QOp) (k : After) : Effect :=
  let w := s.readG a
  if queueBad w then .trap ownRule
  else s.await [⟨0, controllerHome (queueId w), .queue (queueId w) op, false, false⟩] k

/-- `qclaim`. -/
def execQclaim (d a : Field) (s : State) : Out :=
  s.issue 0xD2 .ordered [.wG d, .rG 1 a] fun s => s.askQueue a .claim (.claim d (queueId (s.readG a)))

/-- `qpub`. -/
def execQpub (d a b : Field) (s : State) : Out :=
  s.issue 0xD3 .ordered [.wG d, .rG 1 a, .rG 2 b] fun s => s.askQueue a (.pub (s.readG b)) (.write d)

/-- `qsteal`. -/
def execQsteal (d a : Field) (s : State) : Out :=
  s.issue 0xD4 .ordered [.wG d, .rG 1 a] fun s => s.askQueue a .steal (.claim d (queueId (s.readG a)))

/-- A read of the controller, which issues in a window too (R334). -/
def queueRead (d a : Field) (op : QOp) (s : State) : Out :=
  s.issue 0xD5 .free [.wG d, .rG 1 a] fun s => s.askQueue a op (.write d)

/-- `qlen`. -/
def execQlen (d a : Field) (s : State) : Out := queueRead d a .len s
/-- `qlen.claims`. -/
def execQlenClaims (d a : Field) (s : State) : Out := queueRead d a .claims s
/-- `qlen.steals`. -/
def execQlenSteals (d a : Field) (s : State) : Out := queueRead d a .steals s
/-- `qlen.fail`. -/
def execQlenFail (d a : Field) (s : State) : Out := queueRead d a .fail s

/-- `qreset`. -/
def execQreset (d a : Field) (s : State) : Out :=
  s.issue 0xD6 .ordered [.wG d, .rG 1 a] fun s => s.askQueue a .reset (.write d)

/-- The bytes of a descriptor. -/
def descriptorBytes : Nat := 64

/-- Where the pieces of an access that lie in a second page begin; pages are of 64 KiB at least. -/
def secondPage (ps : List Piece) : Nat :=
  match ps with
  | [] => 0
  | p :: _ => ((ps.find? fun q => q.va.toNat / 65536 != p.va.toNat / 65536).map (·.ga)).getD 0

/-- The place of a byte of a bound descriptor. -/
def BoundQueue.descByte (q : BoundQueue) (i : Nat) : Nat :=
  let a := q.desc.toNat % 65536 + i
  if a < 65536 then q.desc.toNat + i else q.next.toNat + (a - 65536)

/-- `qreset.bind`: the descriptor is read first. -/
def execQresetBind (d a b : Field) (s : State) : Out :=
  s.issue 0xD6 .ordered [.wG d, .rG 1 a, .rG 2 b] fun s =>
    let w := s.readG a
    if queueBad w then .trap ownRule
    else
      match s.translateAll .load 0xD6 0 (.plain descriptorBytes) (pieces 9 (s.readG b) descriptorBytes) with
      | .error e => .trap e
      | .ok ps =>
        (s.installAll ps).readPieces none ps
          (.bind d (queueId w) ((ps.head?.map (·.ga)).getD 0) (secondPage ps) (ps.map (·.n)))

/-- `qreset.unbind`. -/
def execQresetUnbind (d a : Field) (s : State) : Out :=
  s.issue 0xD6 .ordered [.wG d, .rG 1 a] fun s => s.askQueue a .unbind (.write d)

/-- `fcast`. -/
def execFcast (d a : Field) (s : State) : Out :=
  s.issue 0xD7 .ordered [.wG d, .rG 1 a] fun s =>
    let t : State := { s with regs := { s.regs with forecast := forecastWrite (s.readG a) } }
    .done (t.writeG d s.regs.forecast)

/-- `fcast.q`. -/
def execFcastQ (d a : Field) (s : State) : Out :=
  s.issue 0xD7 .ordered [.wG d, .rG 1 a] fun s => s.askQueue a .fcast (.forecast d)

/-- `tstamp`. -/
def execTstamp (s : State) : Out :=
  s.issue 0xD8 .ordered [] fun s =>
    if s.ctx.claims && !s.room 1 then .wait s (.outstanding [] [] 0 none) else .done s.completeItem

/-- `tstamp.now`. -/
def execTstampNow (d : Field) (s : State) : Out :=
  s.issue 0xD8 .free [.wG d] fun s => .done (s.writeG d s.units.pcyc)

/-- `tstamp.q`. -/
def execTstampQ (d : Field) (s : State) : Out := s.issue 0xD8 .free [.wG d] fun s => .done (s.writeG d s.ctx.qlast)

/-! ### The queue controller of the cluster (R325) -/

/-- The slot that an identifier is bound to. -/
def State.queueOf (s : State) (qid : BitVec 16) : Option BoundQueue := s.queues.find? (·.qid == qid)

/-- Replace a slot. -/
def State.putQueue (s : State) (q : BoundQueue) : State :=
  { s with queues := s.queues.map fun x => if x.qid == q.qid then q else x }

/-- The address of the ring slot of a position. -/
def BoundQueue.slot (q : BoundQueue) (pos : Nat) : Nat := q.base + 64 * (pos % 2 ^ q.log2)

/-- The items in a queue. -/
def BoundQueue.length (q : BoundQueue) : Word := q.tail - q.head

/-- A plain load of the controller from a ring slot, or the error that the slot's home answers with (R325). (DEDUCED: log entry 55.) -/
def State.ringWord (s : State) (a : Nat) : Except Reply Nat :=
  match s.homeError (s.moved a) 8 true with
  | some (cause, sub, info) => .error (.fail cause sub info 0)
  | none => .ok (s.peek a 8)

/-- A claim or a steal: the item, its position and a mark above them, or 0. -/
def State.takeItem (s : State) (q : BoundQueue) (steal : Bool) (claimer : Nat) : State × Reply :=
  let a := q.slot q.head.toNat
  if q.head = q.tail then (s.putQueue { q with fail := if steal then q.fail + 1 else q.fail }, .data 0)
  else
    match s.ringWord a with
    | .error e => (s, e)
    | .ok item =>
    let s := (s.poke (a + 24) 8 s.units.pcyc.toNat).poke (a + 40) 8 claimer
    let q' := { q with
      head := q.head + 1
      claims := if steal then q.claims else q.claims + 1
      steals := if steal then q.steals + 1 else q.steals }
    (s.putQueue q', .data (item + q.head.toNat % 2 ^ 32 * 2 ^ 64 + 2 ^ 96))

/-- A publish; an error of the slot's home is its answer. -/
def State.publish (s : State) (q : BoundQueue) (item : Word) : State × Reply :=
  if item = 0 then (s, .data 2)
  else if q.length = BitVec.ofNat 64 (2 ^ q.log2) then (s, .data 0)
  else
    let a := q.slot q.tail.toNat
    match s.homeError (s.moved a) 64 false with
    | some (cause, sub, info) => (s, .fail cause sub info 0)
    | none =>
      let s := (s.poke a 8 item.toNat).poke (a + 8) 8 q.tail.toNat
      let s := (s.poke (a + 16) 8 s.units.pcyc.toNat).zeros (a + 24) 40
      (s.putQueue { q with tail := q.tail + 1 }, .data 1)

/-- TDONE is written when the slot still holds the position. -/
def State.stampDone (s : State) (q : BoundQueue) (pos : BitVec 32) (stamp : Word) : State × Reply :=
  let a := q.slot pos.toNat
  match s.ringWord (a + 8) with
  | .error e => (s, e)
  | .ok p => (if p % 2 ^ 32 = pos.toNat then s.poke (a + 32) 8 stamp.toNat else s.touch (s.moved a), .data 0)

/-- An unbind: the descriptor takes the state back. (DEDUCED: log entry 55.) -/
def State.unbind (s : State) (q : BoundQueue) : State :=
  let words := [q.head, q.tail, q.claims, q.steals, q.fail].flatMap fun w => bytesOf w.toNat 8
  let first := words.zipIdx.filter fun p => q.descByte (16 + p.2) == q.desc.toNat + 16 + p.2
  let rest := words.zipIdx.filter fun p => q.descByte (16 + p.2) != q.desc.toNat + 16 + p.2
  let s := s.storeOut (q.desc.toNat + 16) (first.map fun p => (p.2, p.1))
  let s := if rest.isEmpty then s else s.storeOut q.next.toNat (rest.map fun p => (q.descByte (16 + p.2) - q.next.toNat, p.1))
  { s with queues := s.queues.filter (·.qid != q.qid) }

/-- The slot that a bind makes. -/
def boundFrom (qid : BitVec 16) (desc next base : Word) (words : List Word) : BoundQueue :=
  let w (i : Nat) : Word := (words[i]?).getD 0
  ⟨qid, base.toNat, (w 1).bits 0 5, w 2, w 3, w 4, w 5, w 6, desc, next⟩

/-- An operation on a bound queue: the state and the answer. (DEDUCED: log entry 55.) -/
def State.queueDo (s : State) (q : BoundQueue) (op : QOp) (claimer : Nat) : State × Reply :=
  match op with
  | .claim => s.takeItem q false claimer
  | .steal => s.takeItem q true claimer
  | .pub item => s.publish q item
  | .len => (s, .data q.length.toNat)
  | .fcast => (s, .data q.length.toNat)
  | .claims => (s, .data q.claims.toNat)
  | .steals => (s, .data q.steals.toNat)
  | .fail => (s, .data q.fail.toNat)
  | .reset => (s.putQueue { q with head := q.tail }, .data q.length.toNat)
  | .bind .. => (s, .data 0)
  | .unbind => (s.unbind q, .data 1)
  | .done pos stamp => s.stampDone q pos stamp

/-- A request at the controller: the state and the answer. An unbound slot answers PROT, but to a `bind`; a completion finds
no slot to write. -/
def State.controller (s : State) (qid : BitVec 16) (op : QOp) (claimer : Nat) : State × Reply :=
  match s.queueOf qid, op with
  | none, .bind desc next base words => ({ s with queues := s.queues ++ [boundFrom qid desc next base words] }, .data 1)
  | none, .done _ _ => (s, .data 0)
  | none, _ => (s, .fail 6 4 0 0)
  | some q, op => s.queueDo q op claimer

/-! ### Termination (R330) -/

/-- A helper is to be terminated. -/
def Ctx.works (c : Ctx) (qid : BitVec 16) : Bool := c.qlast.bit 63 && c.qlast.bits 32 16 == qid.toNat

/-- A terminated helper departs from its group for its episode SEQ, unless it has done so (R330, R304), and gives up its share. (DEDUCED: log entry 55.) -/
def State.departGroup (s : State) (i : Fin 11) (sent : Bool) : State :=
  let c := s.at i
  if !c.inGroup then s
  else (if c.brk = 0 && !sent then s.sendArrival i .leave else s).leaveGroup i

/-- A helper stops issuing, departs from its group and waits for its replies; a waiting request of its own is withdrawn. One that has
been terminated is left as it is. (DEDUCED: log entry 55.) -/
def State.terminate (s : State) (i : Fin 11) : State :=
  let s := s.putAt i (s.at i).squashed
  match (s.at i).block with
  | some ⟨.ending, _, _⟩ => s
  | b =>
    let s := s.departGroup i (match b with
      | some ⟨.exitVote, _, _⟩ => true | some ⟨.cleave _, _, _⟩ => true
      | _ => false)
    let s := match b with
      | some ⟨.bar scope _, _, _⟩ => s.withdraw i scope false
      | _ => s
    let s := s.modifyAt i fun c => { c with block := some ⟨.ending, s.seqNo, []⟩, imprecise := [], pending := none }
    ({ s with seqNo := s.seqNo + 1 } : State).grant

/-- A helper that awaits a claim of the queue is terminated once the reply arrives. -/
def State.terminateOnReply (s : State) (i : Fin 11) (qid : BitVec 16) : State :=
  match (s.at i).block with
  | some ⟨.reply ids got (.claim _ q), n, l⟩ =>
    if q == qid then s.modifyAt i fun c => { c with block := some ⟨.reply ids got .terminate, n, l⟩ } else s
  | _ => s

/-- A termination notice for a queue reaches this core. -/
def State.terminated (s : State) (qid : BitVec 16) : State :=
  let s := if (s.at 0).works qid then s.modifyAt 0 fun c => { c with qlast := 0 } else s
  helpers.foldl (fun s i =>
    if !(s.at i).live then s
    else if (s.at i).works qid then s.terminate i
    else s.terminateOnReply i qid) s

/-- The notice as an event. -/
def execTerminationNotice (qid : BitVec 16) (s : State) : Out := .next (s.terminated qid)

/-- The controller of another cluster, or this one's, answers. -/
def State.queueOwn (s : State) (q : Request) (qid : BitVec 16) (op : QOp) : State :=
  if s.guard.closedClusters.contains (BitVec.ofNat 7 (qid.toNat / 64)) then
    s.replyTo q.id (.fail 19 0 (deadInfo s.pkg (qid.toNat / 64 * 16)) 0)
  else if qid.toNat / 64 != s.core / 16 then
    ({ s with sent := s.sent ++ [.message (qid.zeroExtend 64) q.msg] } : State).setStage q.id .listed
  else
    let r := s.controller qid op (s.lcore.toNat + q.ctx.val * 2 ^ 32)
    match op, r.2 with
    | .reset, .data n =>
      (({ r.1 with sent := r.1.sent ++ [.termination qid] } : State).setStage q.id (.held (.data n))).terminated qid
    | _, a => r.1.replyTo q.id a

/-- A queue request reaches its controller. The answer to another core's `qreset` is owed until every core of the package has
acknowledged the termination notice (R330). -/
def execQueueRequestAtController (r : QSel) (s : State) : Out :=
  match r with
  | .own id =>
    (match s.arriving id with
     | some q => (match q.msg with
       | .queue qid op => .next (s.queueOwn q qid op)
       | _ => .next s)
     | none => .next s)
  | .foreign qid op claimer =>
    let t := s.controller qid op claimer.toNat
    let src := claimer.toNat % 2 ^ 29
    match s.closedAt s.pkg s.core with
    | some i => .next { s with sent := s.sent ++ [.reply src (.fail 19 0 i 0)] }
    | none =>
    if s.ownOff then .next s else
    match op, t.2 with
    | .reset, .data n =>
      let u : State := { t.1 with sent := t.1.sent ++ [.termination qid], owed := t.1.owed ++ [⟨src, [], .data n⟩] }
      .next (u.terminated qid)
    | _, a => .next { t.1 with sent := t.1.sent ++ [.reply src a] }

end Sys2Proof.Machine
end

