-- ==== Sys2Proof/Machine/Network.lean ====
section
/-!
DEFINITION. Requests at their homes, replies, refusals and notices (R155 to R167, R420), sector buffers (R183, R184), device
space (R256, R386), channels (R60), walks and invalidations as events (R356 to R359).
-/

namespace Sys2Proof.Machine

open Sys2Proof

/-! ### Homes that do not answer (R377, R382) -/

/-- Why a core's message interface does not answer. -/
def State.deadCore (s : State) (lcore : Nat) : Option Word :=
  let a := s.sliceOf lcore
  match s.deadPackage (gaPkg a) with
  | some i => some i
  | none => s.closedAt (gaPkg a) (gaCore a)

/-! ### Channels (R60) -/

/-- An entry is present; a scalar channel carries 64 bits. (DEDUCED: log entry 14.) -/
def execChannelEntryArrival (ch : BitVec 3) (v : VWord) (s : State) : Out :=
  let x : VWord := if ch.toNat < 4 then BitVec.ofNat 512 (v.toNat % 2 ^ 64) else v
  .next { s with chans := upd s.chans ch.toNat (nth s.chans ch.toNat [] ++ [x]) }

/-! ### Device space (R256, R386) -/

/-- The value of listed bytes as a number. -/
def listedValue (bytes : List (Nat × Byte)) : Nat := bytes.foldl (fun v p => v + p.2.toNat * 256 ^ p.1) 0

/-- The doorbell is rung: HRES of context 0, and PHDB. -/
def State.ringDoorbell (s : State) (v : Word) : State :=
  s.modifyAt 0 fun c => { c with hres := BitVec.ofNat 64 (0xFFFF * 2 ^ 48 + v.bits 0 48), status := putBit c.status 10 true }

/-- The doorbell as an event. -/
def execDoorbell (v : Word) (s : State) : Out := .next (s.ringDoorbell v)

/-- The control register behind an offset. -/
def deviceReg (off : Nat) : Option Nat :=
  match off with
  | 0x00 => some 0x4B | 0x08 => some 0x4A | 0x10 => some 0x4C | 0x18 => some 0x4D | 0x20 => some 0x4E
  | _ => none

/-- The semaphore behind an offset. -/
def deviceSem (off : Nat) : Option Nat := if 0x800 ≤ off ∧ off < 0x1000 ∧ off % 8 = 0 then some ((off - 0x800) / 8) else none

/-- A read of a device-space register of this core. (DESIGN CHOICE: log entry 29.) -/
def State.deviceRead (s : State) (ga : Nat) : Reply :=
  let off := ga % 2 ^ 16
  match ga / 2 ^ 16 % 2 ^ 17, deviceReg off, deviceSem off with
  | 0, some r, _ => .data (s.creg r).toNat
  | 0, none, some n => .data (s.sem n)
  | 1, _, _ => if off = 0 then .data 0 else .fail 6 1 0 0
  | _, _, _ => .fail 6 1 0 0

/-- A write of one. (DESIGN CHOICE: log entry 29.) -/
def State.deviceWrite (s : State) (ga : Nat) (v : Word) : State × Reply :=
  let off := ga % 2 ^ 16
  match ga / 2 ^ 16 % 2 ^ 17, deviceReg off, deviceSem off with
  | 0, some _, _ => (s, .data 0)
  | 0, none, some n => (s.semAdd n (v.bits 0 16), .data 0)
  | 1, _, _ => if off = 0 then (s.ringDoorbell v, .data 0) else (s, .fail 6 1 0 0)
  | _, _, _ => (s, .fail 6 1 0 0)

/-- A device access of this core; nothing but 8-byte reads and writes reaches device space (R156). -/
def State.deviceAccess (s : State) (ga : Nat) (op : MemOp) : State × Reply :=
  match op with
  | .read _ => (s, s.deviceRead ga)
  | .write bytes => s.deviceWrite ga (BitVec.ofNat 64 (listedValue bytes))
  | _ => (s, .fail 6 1 0 0)

/-- A device-space address names this core. -/
def State.ownDevice (s : State) (ga : Nat) : Bool := gaSpace ga == 2 && gaPkg ga == s.pkg && gaCore ga == s.core

/-! ### Accesses at their homes (R158, R161 to R164, R183, R184) -/

/-- A read of its home. -/
def opReads : MemOp → Bool
  | .read _ => true | .sector _ => true | _ => false

/-- An access reaches the home of its bytes. The home's protection check fails for a CXL address with no memory behind it: RNR
while a mapping change is in progress, else PROT, or SEALST for a store to a region that its owner has sealed (R164, R184, R185).
(DEDUCED: log entry 99.) Of the package's own CXL units, those out
of the sector buffer are read from the device first. -/
def State.atHome (s : State) (src : Source) (ga : Nat) (op : MemOp) (wait : Bool) : State × Taken :=
  let a := s.moved ga
  if gaSpace a != 1 then s.takeUp src ga op
  else if s.cxlAbsent a (opReads op) then (s, if s.changing a then .refused else .now (if s.sealedLoan a (opReads op) then .fail 9 0 0 0 else .fail 6 5 0 0))
  else if s.lent a then (s, .now (.data (lentRead a op)))
  else if gaPkg a != s.pkg then s.takeUp src ga op
  else if s.mem.frozen.contains (granule a) then s.takeUp src ga op
  else if wait && !s.buffered a then (s, .listed)
  else (s.touchSector a).takeUp src ga op

/-- What becomes of a request of this core. -/
def State.taken (s : State) (id : Nat) (t : Taken) : State :=
  match t with
  | .now r => s.replyTo id r
  | .listed => s.setStage id .listed
  | .refused => s.setStage id .refused

/-- A read of the own slice, or of a sealed granule, fills the data cache (R178, R190, R411). -/
def State.fillRead (s : State) (ga : Nat) (op : MemOp) : State := if opReads op then s.fill (s.moved ga) else s

/-- A request of this core leaves for another core of the job. -/
def State.sendOut (s : State) (q : Request) (target : Word) : State :=
  ({ s with sent := s.sent ++ [.message target q.msg] } : State).setStage q.id .listed

/-- A host-space access reaches the service core (R156, R384). -/
def State.toHostSpace (s : State) (q : Request) (op : MemOp) : State :=
  match op with
  | .write bytes => (s.hostWrite q.ga bytes).setStage q.id .listed
  | .read n => (s.emitHost (.readRequest q.ga n)).setStage q.id .listed
  | _ => s.replyTo q.id (.fail 6 1 0 0)

/-- An access of this core reaches its home. A failed package answers nothing. -/
def State.accessArrives (s : State) (q : Request) (op : MemOp) : State :=
  match gaSpace q.ga with
  | 2 =>
    if s.ownDevice q.ga then let r := s.deviceAccess q.ga op; r.1.replyTo q.id r.2
    else
      (match s.closedAt (gaPkg q.ga) (gaCore q.ga) with
       | some i => s.replyTo q.id (.fail 19 0 i 0)
       | none => s.sendOut q (BitVec.ofNat 64 q.ga))
  | 3 => s.toHostSpace q op
  | _ =>
    if s.silent q.ga then s
    else
      match (if gaSpace q.ga = 0 then s.closedAt (gaPkg q.ga) (gaCore q.ga) else none), op with
      | some i, _ => s.replyTo q.id (.fail 19 0 i 0)
      | none, .tnew _ => s
      | none, .tdec => s
      | none, op => let t := s.atHome (.own q.id) q.ga op true; (t.1.taken q.id t.2).fillRead q.ga op

/-- A message to a core of the job, other than this one. -/
def State.messageArrives (s : State) (q : Request) (target : Word) : State :=
  if target.toNat = s.lcore.toNat then s
  else
    match s.deadCore target.toNat with
    | some i => s.replyTo q.id (.fail 19 0 i 0)
    | none => s.sendOut q target

/-- An invalidation that this core issued, at every core in scope. -/
def State.shootdownArrives (s : State) (q : Request) (base len : Word) (scope : Nat) : State :=
  let t := s.dropTranslations base.toNat len.toNat
  if scope = 0 then
    { t with net := t.net.filter (·.id != q.id), sent := t.sent ++ [.invalidated base len] }
  else if scope = 1 then t.replyTo q.id (.data 0)
  else ({ t with sent := t.sent ++ [.shootdown base len (if scope = migrationScope then 5 else scope)] } : State).setStage q.id .listed

/-- A discard of fetched lines, likewise. -/
def State.discardArrives (s : State) (q : Request) (base len : Word) (scope : Nat) : State :=
  let t := s.dropLines base.toNat len.toNat
  if scope ≤ 1 then t.replyTo q.id (.data 0)
  else ({ t with sent := t.sent ++ [.discard base len scope] } : State).setStage q.id .listed

/-- The discard of a PATCH, in a scope of core 0 of a cluster, a multicast of which this core may be no member (R395). -/
def State.patchArrives (s : State) (q : Request) (cluster : BitVec 7) (base : Word) (scope : Nat) : State :=
  let t := if s.coreInScope s.pkg (16 * cluster.toNat) scope then s.dropLines base.toNat 64 else s
  if scope = 1 && s.core = 16 * cluster.toNat then t.replyTo q.id (.data 0)
  else ({ t with sent := t.sent ++ [.patch cluster base scope] } : State).setStage q.id .listed

/-- A request of this core reaches where it goes. -/
def State.ownArrives (s : State) (q : Request) : State :=
  match q.msg with
  | .access op => s.accessArrives q op
  | .kick target _ => s.messageArrives q target
  | .mcmd target _ _ _ _ _ => s.messageArrives q target
  | .event target _ => s.messageArrives q target
  | .onew target _ _ _ => s.messageArrives q target
  | .odel target _ => s.messageArrives q target
  | .esread target _ _ _ _ => s.messageArrives q target
  | .resync ga => (s.pokeWords ga.toNat s.summary).replyTo q.id (.data 800)
  | .shootdown base len scope => if s.quiesced q.id base.toNat len.toNat then s.shootdownArrives q base len scope else s
  | .discard base len scope => s.discardArrives q base len scope
  | .patch cluster base scope => s.patchArrives q cluster base scope
  | .hcall code arg ctx gen ticket =>
    ({ s with net := s.net.filter (·.id != q.id) } : State).emitHost (.request code arg s.lcore ctx gen ticket)
  | .queue _ _ => s
  | .migrate _ => s

/-- A foreign request reaches a home of the machine: a device register of this core, or memory. -/
def State.foreignArrives (s : State) (r : ForeignReq) : State :=
  let ga := r.ga.toNat
  let back (s : State) (x : Sent) : State := { s with sent := s.sent ++ [x] }
  let closed := if gaSpace ga = 0 || gaSpace ga = 2 then s.closedAt (gaPkg ga) (gaCore ga) else none
  if closed.isSome then back s (.reply r.src (.fail 19 0 (closed.getD 0) 0))
  else if s.unserved ga then s
  else if s.ownDevice ga then let t := s.deviceAccess ga r.op; back t.1 (.reply r.src t.2)
  else if 2 ≤ gaSpace ga then s
  else
    match s.atHome (.foreign r.src) ga r.op false with
    | (t, .now a) => back (t.accepted r) (.reply r.src a)
    | (t, .listed) => t.accepted r
    | (t, .refused) => t.rnrTo r

/-- A foreign `tnew` or `tdec` has rows of its own. -/
def opOnRecord : MemOp → Bool
  | .tnew _ => true | .tdec => true | _ => false

/-- A request reaches its home. -/
def State.requestArrives (s : State) (r : ReqSel) : State :=
  match r with
  | .own id =>
    (match s.arriving id with
     | some q => s.ownArrives q
     | none => s)
  | .foreign f => if opOnRecord f.op then s else s.foreignArrives f

/-- `requestAtHome`. (DEDUCED: log entry 5.) -/
def execRequestAtHome (r : ReqSel) (s : State) : Out := .next (s.requestArrives r)

/-- An access that the old home of a migrated page forwarded reaches the new one (R362). -/
def execForwardedAccess (r : ReqSel) (s : State) : Out := .next (s.requestArrives r)

/-! ### Replies (R160, R162) -/

/-- A request that a party outside the machine answers once it has left. -/
def outside (q : Request) : Bool :=
  match q.msg with
  | .access _ => gaSpace q.ga == 2
  | .resync _ => false
  | .migrate _ => false
  | .hcall .. => false
  | _ => true

/-- The reply that an outside party gives. -/
def outsideReply (e : ExtReply) : Reply := if e.cause = 0 then .data e.value else .fail e.cause e.sub e.info 0

/-- The words of so many objects in an `esread`'s answer (R282): a header, and as many data words as it says. -/
def objectWords : Nat → Nat → List Word
  | 0, _ => []
  | n + 1, v =>
    let h : Word := BitVec.ofNat 64 v
    let k := if h.bits 52 2 = 0 then 0 else (h.bits 47 5 + 1) / 2
    ((List.range (k + 1)).map fun i => (BitVec.ofNat 64 (v / 2 ^ (64 * i)) : Word)) ++ objectWords n (v / 2 ^ (64 * (k + 1)))

/-- The reply of another core's message interface. -/
def State.deliverOutside (s : State) (q : Request) (r : Reply) : State :=
  match q.msg, r with
  | .esread _ _ count _ _, .data v =>
    let t : State := { s with net := s.net.filter (·.id != q.id) }
    t.handWords q.id (objectWords count v)
  | _, r => s.deliver q.id r

/-- A reply reaches the core. (DEDUCED: log entry 5.) -/
def execReplyArrival (id : Nat) (ext : Option ExtReply) (s : State) : Out :=
  match s.net.find? (·.id == id) with
  | none => .next s
  | some q =>
    match q.stage, ext with
    | .replied r, none => .next (s.deliver id r)
    | .held r, some e => .next (s.deliver id (if e.cause = 0 then r else (outsideReply e)))
    | .listed, some e => .next (if outside q then s.deliverOutside q (outsideReply e) else s)
    | _, _ => .next s

/-! ### Refusals (R164, R420, R267) -/

/-- A request's refusal is forgotten at its home. -/
def State.forgetRefusal (s : State) (id : Nat) : State :=
  { s with mem := { s.mem with refusals := s.mem.refusals.filter fun e => e.src != .own id } }

/-- An event that the front end itself sent is retried without limit. -/
def State.retriesForever (s : State) (q : Request) : Bool :=
  match q.msg with
  | .event _ _ => !s.eng.event.any (·.req == some q.id)
  | _ => false

/-- A request was refused: by its home, or, an event, by another core's front end (R267). -/
def State.wasRefused (s : State) (q : Request) : Bool :=
  match q.stage, q.msg with
  | .refused, _ => true
  | .listed, .event target _ => target.toNat != s.lcore.toNat
  | _, _ => false

/-- The back-off ends: the request is sent again, or takes REMTIMEO after retry number LIMIT, as if it had never been sent (R420).
(DEDUCED: log entry 25.) -/
def execRnrRetry (id : Nat) (s : State) : Out :=
  match s.net.find? (·.id == id) with
  | none => .next s
  | some q =>
    if !s.wasRefused q then .next s
    else if s.regs.rnrlim.bits 0 8 ≤ q.tries && !s.retriesForever q then
      .next (((s.forgetRefusal id).changeRequest id fun r => { r with tries := 0 }).deliver id (.fail 18 0 0 0))
    else .next (s.changeRequest id fun r => { r with tries := r.tries + 1, stage := .sent })

/-- The acceptance notice of a request once refused: the core sends what it held behind it. -/
def execAcceptanceNotice (id : Nat) (s : State) : Out :=
  let s : State := { s with net := s.net.filter fun r => r.id != id || r.stage != .answered }
  .next (s.changeRequest id fun r => if r.stage != .sent && r.stage != .refused then { r with tries := 0 } else r)

/-! ### Sector buffers (R183) -/

/-- The requests of a unit are performed, in the order they were sent. -/
def State.serveUnit (s : State) (u : Nat) : State :=
  (s.net.filter fun q => q.stage == .listed && q.msg.op.isSome && gaSpace q.ga == 1 && q.ga / 64 * 64 == u).foldl
    (fun s q => match q.msg.op with
      | some op => let t := s.atHome (.own q.id) q.ga op false; (t.1.taken q.id t.2).fillRead q.ga op
      | none => s) s

/-- A device read completes. -/
def execCxlDeviceReadComplete (unit : Word) (s : State) : Out :=
  .next ((s.touchSector unit.toNat).serveUnit (unit.toNat / 64 * 64))

/-- A unit's 4 µs run out. -/
def execSectorBufferExpiry (unit : Word) (s : State) : Out :=
  .next { s with sectors := s.sectors.filter fun u => u.unit != unit.toNat || s.units.pcyc.toNat < u.expires.toNat }

/-! ### Walks and invalidations (R356 to R359) -/

/-- A walk ends: the TLBs take the leaf, unless the address traps or an invalidation of the page is under way. -/
def execTranslationWalk (va : Word) (kind : Access) (s : State) : Out :=
  match s.translate s.cur va 1 kind 0 0 with
  | .ok t => .next (if s.leaving t.x then s else s.install t.x)
  | .error _ => .next s

/-- Another core's invalidation: the cluster's SDSEQ advances; the core acknowledges once the accesses made through the
matching entries are performed. -/
def execTlbInvalidation (base len : Word) (all : Bool) (s : State) : Out :=
  let base := if all then 0 else base
  let len := if all then everything else len
  let q : Request := ⟨s.seqNo, 0, 0, multicastHome, 0, 0, .shootdown base len 0, true, false, 0, [], .sent, 0⟩
  .next { s with
    units := { s.units with sdseq := s.units.sdseq + 1 }
    net := s.net ++ [q], seqNo := s.seqNo + 1 }

end Sys2Proof.Machine
end

