-- ==== Sys2Proof/Machine/Migrate.lean ====
section
/-!
DEFINITION. Page migration (R361, R362), as the memory core that runs it works.
-/

namespace Sys2Proof.Machine

open Sys2Proof

/-- Copy one 32-byte sector; poisoned words are copied as poisoned, empty ones as empty. -/
def Memory.copySector (m : Memory) (src dst : Nat) : Memory :=
  let t := m.write dst 32 (m.read src 32)
  (List.range 4).foldl (fun t i =>
    let w := dst / 8 + i
    let others := setOut t.poison w
    { t.setFull (8 * w) (m.full (src / 8 * 8 + 8 * i)) with
      poison := if m.poison.contains (src / 8 + i) then setIn others w else others }) t

/-- Copy sectors of a frame, named by their places in it. (DEDUCED: log entry 38.) -/
def Memory.copySectors (m : Memory) (old new : Nat) (l : List Nat) : Memory :=
  l.foldl (fun m k => m.copySector (old + 32 * k) (new + 32 * k)) m

/-- The granules of a frame. -/
def frameGranules (ga bits : Nat) : List Nat := (List.range (2 ^ (bits - 16))).map fun i => granule ga + i

/-- The migration of a page. -/
def State.migration (s : State) (page : Word) : Option Migration := s.migrations.find? fun m => m.m.va == page

/-- Change it. -/
def State.setMigration (s : State) (page : Word) (f : Migration → Migration) : State :=
  { s with migrations := s.migrations.map fun m => if m.m.va == page then f m else m }

/-- The memory core's answer to `migr`. -/
def State.migrationAnswer (s : State) (m : MigReq) (req : Option Nat) (v : Nat) : State :=
  match req with
  | some id => s.replyTo id (.data v)
  | none => { s with sent := s.sent ++ [.reply m.sender.toNat (.data v)] }

/-- Copy sectors of a frame, those in CXL memory through the sector buffers (R183). -/
def State.copyFrame (s : State) (old new : Nat) (l : List Nat) : State :=
  l.foldl (fun (s : State) k => (s.touch (old + 32 * k)).touch (new + 32 * k)) { s with mem := s.mem.copySectors old new l }

/-- A page is migrating, until its migration is complete: by its address, and by either frame (R361). -/
def State.migrating (s : State) (m : MigReq) : Bool := s.migrations.any fun x => x.m.va == m.va || x.m.old == m.old || x.m.new == m.old

/-- A request reaches the memory core: the first round copies every sector. A page that is migrating already is left as it is. -/
def execMigrationRequest (m : MigReq) (req : Option Nat) (s : State) : Out :=
  if !s.comes req then .next s
  else if s.migrating m then .next (s.migrationAnswer m req 1)
  else
    let t : State := { s.copyFrame m.old m.new (List.range (2 ^ (m.bits - 5))) with
      migrations := s.migrations ++ [⟨m, [], 1, false, false⟩] }
    .next (t.migrationAnswer m req 0)

/-- The full-empty entries that wait on the page go to the new home's list, ahead of every later one (R166). (DEDUCED: log entry 38.) -/
def Memory.moveEntries (m : Memory) (old new size : Nat) : Memory :=
  let on (e : FeEntry) : Bool := old ≤ e.ga && e.ga < old + size
  { m with retry := m.retry.map fun e => if on e then { e with ga := new + (e.ga - old) } else e }

/-- A round ends: another one copies what was written meanwhile, or the page is frozen. (DEDUCED: log entry 38.) -/
def execMigrationRoundEnd (page : Word) (s : State) : Out :=
  match s.migration page with
  | none => .next s
  | some x =>
    let m := x.m
    if x.frozen || x.forwarding then .next s
    else if x.marked.length ≤ 64 || 8 ≤ x.rounds then
      let mem := s.mem.moveEntries m.old m.new (2 ^ m.bits)
      .next (({ s with mem := { mem with frozen := (frameGranules m.old m.bits).foldl setIn mem.frozen } } : State).setMigration page
        fun x => { x with frozen := true })
    else
      .next ((s.copyFrame m.old m.new x.marked).setMigration page
        fun x => { x with marked := [], rounds := x.rounds + 1 })

/-- The last sectors are copied, the leaf entry gets the new frame, the `tlbinv.pkg` of the page is issued, and the page is
unfrozen; the old home forwards from now on. -/
def execMigrationFinalCopy (page : Word) (s : State) : Out :=
  match s.migration page with
  | none => .next s
  | some x =>
    let m := x.m
    if !x.frozen || x.forwarding then .next s
    else
      let s := s.copyFrame m.old m.new x.marked
      let s : State := { s with mem := { s.mem with
        frozen := s.mem.frozen.filter fun g => !(frameGranules m.old m.bits).contains g } }
      let s := s.poke m.leaf 8 (s.peek m.leaf 8 % 65536 + m.new)
      let q : Request := ⟨s.seqNo, 0, 0, multicastHome, m.va, 0, .shootdown m.va (BitVec.ofNat 64 (2 ^ m.bits)) migrationScope, true,
        false, 0, [], .sent, 0⟩
      .next (({ s with
        net := s.net ++ [q], seqNo := s.seqNo + 1
        units := { s.units with sdseq := s.units.sdseq + 1 } } : State).setMigration page
          fun x => { x with marked := [], frozen := false, forwarding := true })

/-- The shoot-down of a migrated page is complete. -/
def State.shotDown (s : State) (page : Word) : Bool :=
  !s.net.any fun q => match q.msg with
    | .shootdown base _ scope => base == page && scope == migrationScope
    | _ => false

/-- The old frame is released and the semaphore of the asking core signalled. (DEDUCED: log entry 38.) -/
def execMigrationComplete (page : Word) (s : State) : Out :=
  match s.migration page with
  | none => .next s
  | some x =>
    if !x.forwarding || !s.shotDown page then .next s
    else
      let t : State := { s with migrations := s.migrations.filter fun m => m.m.va != page }
      .next (match x.m.sem with
        | none => t
        | some n =>
          if x.m.sender = s.lcore then t.semAdd n.toNat 1
          else { t with sent := t.sent ++ [.semaphore x.m.sender n 1] })

end Sys2Proof.Machine
end

