-- ==== Sys2Proof/Machine/Lifecycle.lean ====
section
/-!
DEFINITION. Interrupts and delays as events (R344, R345), the quiet point (R363), the dump and restore of a job (R369), links
(R375, R376, R379), failures (R377), cluster and package resets (R382, R399), and the scrubber (R28).
-/

namespace Sys2Proof.Machine

open Sys2Proof

/-! ### Interrupts and quiet points -/

/-- PREEMPT becomes pending at context 0 (R344); while the cluster is halted the management core holds the pre-emption (R392). -/
def execPreemptInterrupt (s : State) : Out :=
  .next (if s.dbg.clusterHalted then { s with launch := { s.launch with preemptHeld := true } }
    else s.modifyAt 0 fun c => { c with status := putBit c.status 11 true })

/-- A context's delay is over (R345): PDLY, and AT is cleared. -/
def execDelayedExpiry (ctx : Nat) (s : State) : Out :=
  match ctxOf ctx with
  | none => .next s
  | some i =>
    if (s.at i).live && (s.at i).dtime != 0 && (s.at i).dtime.toNat ≤ s.units.pcyc.toNat then
      .next (s.modifyAt i fun c => { c with status := putBit c.status 9 true, dtime := 0 })
    else .next s

/-- The `ssave` of a context that has become free meanwhile finds it free (R365). -/
def State.saveNothing (s : State) (k : Fin 11) : State :=
  allCtx.foldl (fun s j => match (s.at j).live, (s.at j).block with
    | true, some ⟨.save d n _, _, _⟩ => if n == k then s.completeG j d 0 else s
    | _, _ => s) s

/-- A context that an `ssave` stopped reaches its quiet point (R363, R365). -/
def execQuietPointReached (ctx : Nat) (s : State) : Out :=
  match ctxOf ctx with
  | none => .next s
  | some k =>
    if !s.stopped k || !s.atQuiet k then .next s
    else if (s.at k).live then .next (s.saved k)
    else .next (s.saveNothing k)

/-! ### The dump and its restore (R369) -/

/-- Copy a region of a list of cells into another list. -/
def copyCells (src : List Host.Cell) (a : Nat) (dst : List Host.Cell) (b size : Nat) : List Host.Cell :=
  (src.filter fun c => a ≤ c.1 && c.1 < a + size).foldl (fun l c => cellsSet l (b + (c.1 - a)) c.2)
    (dst.filter fun c => !(b ≤ c.1 && c.1 < b + size))

/-- Copy a region of a list of poisoned words of one size into another of a second size. -/
def copyPoison (src : List Nat) (a w : Nat) (dst : List Nat) (b v size : Nat) : List Nat :=
  (src.filter fun x => a ≤ w * x && w * x < a + size).foldl (fun l x => setIn l ((b + (w * x - a)) / v))
    (dst.filter fun x => !(b ≤ v * x && v * x < b + size))

/-- Copy a region of memory. -/
def Memory.copyRegion (m : Memory) (a b size : Nat) : Memory :=
  { m with cells := copyCells m.cells a m.cells b size, poison := copyPoison m.poison a 8 m.poison b 8 size }

def sliceSize : Nat := 2 ^ 24
def spadSize : Nat := 2 ^ 18

/-- The place of the slice and of the scratchpad of core `c` of the cluster in the dump. -/
def dumpSlice (dump c : Nat) : Nat := dump + c * sliceSize
def dumpSpad (dump c : Nat) : Nat := dump + 2 ^ 28 + c * spadSize

/-- The slice of core `c` of this cluster. -/
def State.clusterSlice (s : State) (c : Nat) : Nat := sliceBase s.pkg (s.core / 16 * 16 + c)

/-- One core's slice and scratchpad are copied out. (DEDUCED: log entry 49.) -/
def State.dumpCore (s : State) (c : Nat) : State :=
  let d := s.units.dumpaddr.toNat
  let m := s.mem.copyRegion (s.clusterSlice c) (dumpSlice d c) sliceSize
  let s := if c = s.core % 16 then s.setSpill (dumpSlice d c) (some s.spilled) else s
  { s with mem := { m with
      cells := copyCells s.spad.cells (c * spadSize) m.cells (dumpSpad d c) spadSize
      poison := copyPoison s.spad.poison (c * spadSize) 4 m.poison (dumpSpad d c) 8 spadSize } }

/-- One core's slice and scratchpad are copied back. (DEDUCED: log entry 49.) -/
def State.restoreCore (s : State) (c : Nat) : State :=
  let d := s.units.dumpaddr.toNat
  let s := if c = s.core % 16 then s.setSpill s.ownBase (s.spillAt (dumpSlice d c)) else s
  { s with
    mem := s.mem.copyRegion (dumpSlice d c) (s.clusterSlice c) sliceSize
    spad := { s.spad with
      cells := copyCells s.mem.cells (dumpSpad d c) s.spad.cells (c * spadSize) spadSize
      poison := copyPoison s.mem.poison (dumpSpad d c) 8 s.spad.poison (c * spadSize) 4 spadSize } }

/-- The cluster's 16 cores have reported: the controller copies them out. -/
def execClusterDump (s : State) : Out :=
  if !s.launch.acked || s.launch.state != 2 then .next s
  else
    let t := (List.range 16).foldl State.dumpCore s
    .next { t with launch := { t.launch with state := 3 } }

/-- A control context starts at level 1 at an entry of the launch record, with a value in g1 (R369, R382, R388). -/
def State.startControl (s : State) (entry : Nat) (g1 : Word) : State :=
  let c := s.at 0
  let pc := BitVec.ofNat 64 (s.peek (s.launch.record.toNat + 8 * entry) 8)
  (s.begin 0 c.sn c.vn c.pri true pc).modifyAt 0 fun c => { c with g := upd c.g 1 g1 }

/-- The management core copies the dump back and starts the control context at RESUME. (DEDUCED: log entry 49.) -/
def execJobRestore (s : State) : Out :=
  if s.launch.state != 3 then .next s
  else
    let t := (List.range 16).foldl State.restoreCore s
    let t : State := { t with launch := { t.launch with state := 2, acked := false } }
    .next (t.startControl 1 (BitVec.ofNat 64 t.launch.image))

/-- The job has ended (R389). -/
def execJobEnded (s : State) : Out := .next { s with launch := { s.launch with state := 5 } }

/-! ### Links (R375, R376, R379) -/

/-- A transaction of the host or the port wakes a sleeping package to PS2 (R398). -/
def State.woken (s : State) : State :=
  if s.guard.asleep then { s with guard := { s.guard with asleep := false }, links := { s.links with standby := false } } else s

/-- A flit is sent again: at the 16th failed replay the link retrains. (DESIGN CHOICE: log entry 37.) -/
def execFlitReplay (link : BitVec 3) (s : State) : Out :=
  let n := nth s.links.replays link.toNat 0 + 1
  let l := { s.links with replays := upd s.links.replays link.toNat n }
  .next { s with links :=
    if 16 ≤ n && !l.retraining.contains link then { l with retraining := l.retraining ++ [link] } else l }

/-- A retrain ends: the management core counts it; a link that does not retrain is failed. -/
def execLinkRetrain (link : BitVec 3) (ok : Bool) (s : State) : Out :=
  if !s.links.retraining.contains link then .next s
  else
    .next { s with links := { s.links with
      replays := upd s.links.replays link.toNat 0
      retrains := upd s.links.retrains link.toNat (saturate (nth s.links.retrains link.toNat 0))
      retraining := s.links.retraining.filter (· != link)
      failed := if ok then s.links.failed else s.links.failed ++ [link] } }

/-- The far end of a port returns a unit of a class's allowance: its buffer has room for one more flit, and the flit that
left it had arrived. (DESIGN CHOICE: log entry 37.) -/
def execAllowanceReturn (port cls : BitVec 3) (s : State) : Out :=
  let full := (Links.buffers[cls.toNat]?).getD 0
  let k := port.toNat * 7 + cls.toNat
  if 7 ≤ cls.toNat then .next s
  else
    .next { s with links := { s.links with
      replays := upd s.links.replays port.toNat 0
      allowance := upd s.links.allowance k (min full (nth s.links.allowance k 0 + 1)) } }

/-! ### Failures (R376, R377) -/

/-- The package that a request goes to, if it goes to one. -/
def State.goesTo (s : State) (q : Request) : Option Nat :=
  let core (t : Word) : Option Nat := some (gaPkg (s.sliceOf t.toNat))
  match q.msg with
  | .access _ => if gaSpace q.ga = 3 then some s.pkg else some (gaPkg q.ga)
  | .kick t _ => core t
  | .mcmd t _ _ _ _ _ => core t
  | .event t _ => core t
  | .onew t _ _ _ => core t
  | .odel t _ => core t
  | .esread t _ _ _ _ => core t
  | .migrate _ => some (gaPkg q.ga)
  | _ => none

/-- The requests that a test names are in doubt because of a package. (DEDUCED: log entry 34.) -/
def State.doubting (s : State) (pkg : BitVec 18) (p : Nat → Bool) : State :=
  { s with net := s.net.map fun q =>
      if (s.goesTo q).any p then { q with doubt := q.doubt ++ [pkg] } else q }

/-- The scopes of barriers that hold a core of another part of the machine. -/
def State.scopesOf (s : State) (pkg core : Nat) : List Nat := [1, 2, 3, 4, 5, 6, 7, 8].filter (s.coreInScope pkg core)

/-- The groups that have a member in a failed package are broken. (DESIGN CHOICE: log entry 33.) -/
def State.breakFor (s : State) (pkg : BitVec 18) : State :=
  (s.groups.filter fun g => Config.memberOn g.gid g.scope pkg && s.coreInScope pkg.toNat 0 g.scope.toNat).foldl (fun s g =>
    s.breakHere g.gid g.scope 2 21 (groupInfo 0 g.seq (pkg.toNat * 2 ^ 11 + 0x7FF))) s

/-- The groups that have a member in a reset cluster are broken (R313). (DESIGN CHOICE: log entry 33.) -/
def State.breakForCluster (s : State) (pkg cluster : Nat) (info : Word) : State :=
  (s.groups.filter fun g =>
      Config.memberIn g.gid g.scope (BitVec.ofNat 18 pkg) cluster && s.coreInScope pkg (cluster * 16) g.scope.toNat).foldl
    (fun s g => s.breakHere g.gid g.scope 2 21 (groupInfo 0 g.seq info.toNat)) s

/-- The announcement of a failed package reaches the core. (DESIGN CHOICE: log entry 33.) -/
def execFailureAnnouncement (pkg : BitVec 18) (s : State) : Out :=
  if s.launch.failed.contains pkg then .next s
  else
    let s : State := { s with
      launch := { s.launch with failed := s.launch.failed ++ [pkg], failures := s.launch.failures + 1 }
      guard := { s.guard with packageFailures := saturate s.guard.packageFailures } }
    let s := s.doubting pkg fun p => p != s.pkg
    let s := (s.scopesOf pkg.toNat 0).foldl (fun s n => s.abandon n (deadInfo pkg.toNat 0x7FF)) s
    .next (s.breakFor pkg)

/-- A request of this core ends with an error of the network; its home forgets it. (DEDUCED: log entry 34.) -/
def State.fails (s : State) (id : Nat) (info : Word) : State :=
  let mine (e : FeEntry) : Bool := e.src == .own id
  ({ s with mem := { s.mem with
      retry := s.mem.retry.filter fun e => !mine e
      refusals := s.mem.refusals.filter fun e => !mine e } } : State).deliver id (.fail 19 0 info 0)

/-- 20 µs after an announcement: the requests in doubt that are unanswered take RMTDEAD. (DEDUCED: log entry 34.) -/
def execInDoubtTimeout (pkg : BitVec 18) (s : State) : Out :=
  let info := deadInfo pkg.toNat (if s.launch.failed.contains pkg then 0x7FF else 0x7FE)
  .next ((s.net.filter fun q => q.doubt.contains pkg).foldl (fun s q => s.fails q.id info) s)

/-- A package or a link has failed: detours are installed; packages that no detour reaches are unreachable from here. (DEDUCED: log entry 34.) (DEDUCED: log entry 83.) -/
def execLinkFailure (pkg : BitVec 18) (link : Option (BitVec 3)) (unreachable : List (BitVec 18)) (s : State) : Out :=
  let links := match link with
    | some l => if pkg.toNat = s.pkg && !s.links.failed.contains l then { s.links with failed := s.links.failed ++ [l] } else s.links
    | none => s.links
  let new := unreachable.filter fun p => !s.launch.unreachable.contains p && p.toNat != s.pkg
  let t : State := { s with links := links, launch := { s.launch with unreachable := s.launch.unreachable ++ new } }
  .next (new.foldl (fun s p => s.doubting p fun x => x == p.toNat) t)

/-! ### Cluster reset (R382) -/

/-- A slice of a cluster of a package. -/
def inCluster (ga pkg cluster : Nat) : Bool := gaSpace ga == 0 && gaPkg ga == pkg && gaCore ga / 16 == cluster

/-- A request waits on a home, a core or a controller of a cluster. -/
def State.waitsOn (s : State) (q : Request) (pkg cluster : Nat) : Bool :=
  let core (t : Word) : Bool := inCluster (s.sliceOf t.toNat) pkg cluster
  match q.msg with
  | .access _ => gaSpace q.ga != 1 && gaSpace q.ga != 3 && gaPkg q.ga == pkg && gaCore q.ga / 16 == cluster
  | .kick t _ => core t
  | .mcmd t _ _ _ _ _ => core t
  | .event t _ => core t
  | .onew t _ _ _ => core t
  | .odel t _ => core t
  | .esread t _ _ _ _ => core t
  | .queue qid _ => pkg == s.pkg && qid.toNat / 64 == cluster
  | _ => false

/-- The answer of a request has left the boundary before it closed: it reaches the core, unless it was lost with what the cluster
was injecting (R382). (DESIGN CHOICE: log entry 102.) -/
def Request.safe (q : Request) : Bool :=
  match q.stage with
  | .replied _ => !Config.replyLost q.id
  | .answered => true
  | _ => false

/-- The retry lists and refusal queues of a cluster's slices: what waits there takes RMTDEAD. -/
def State.closeLists (s : State) (pkg cluster : Nat) (info : Word) : State :=
  let at' (e : FeEntry) : Bool := inCluster e.ga pkg cluster
  let foreign := s.mem.retry.filterMap fun e => match e.src with
    | .foreign c => if at' e then some (Sent.reply c (.fail 19 0 info 0)) else none
    | .own _ => none
  { s with
    sent := s.sent ++ foreign
    mem := { s.mem with
      retry := s.mem.retry.filter fun e => !at' e
      refusals := s.mem.refusals.filter fun e => !at' e } }

/-- Objects queued or running are left with Q = 0. -/
def State.unqueueAll (s : State) : State :=
  let queued := s.drone.residual.map (·.1.toNat) ++ s.drone.ring.map (·.toNat)
  let running := (allCtx.filter fun i => (s.at i).live && (s.at i).hobj.bit 40).map fun i => (s.at i).hobj.bits 0 12
  (queued ++ running).foldl (fun s idx => s.setQ idx 0) s

/-- What memory cores and the management core of the package have sent: the shoot-down of a migration (R362) and the discard of a
PATCH (R395). A cluster's reset leaves it (R22). -/
def Request.ofPackage (q : Request) : Bool :=
  match q.msg with
  | .shootdown _ _ scope => scope == migrationScope
  | .patch .. => true
  | _ => false

/-- What a reset of this core's cluster returns to its reset values (R382 step 5): everything of the cores, engines and
controllers; the home slices keep their contents. -/
def State.clusterValues (s : State) : State :=
  { s with
    ctxs := State.reset.ctxs, cur := 0, lastOf := State.reset.lastOf, regs := .reset
    units := { Units.reset with pcyc := s.units.pcyc, rampup := s.units.rampup, rampdn := s.units.rampdn }
    spad := State.reset.spad, sems := State.reset.sems, chans := State.reset.chans, away := State.reset.away
    mx := .reset, eng := .reset, net := s.net.filter (·.ofPackage), tlb := [], lines := [], replicas := [], early := []
    rnrs := [], evRnrs := [], owed := [], strays := []
    bars := State.reset.bars, groups := [], tasks := State.reset.tasks, queues := [], drone := .reset
    dueSems := [], slots := State.reset.slots
    dbg := .reset, ticket := 0, launch := { s.launch with preemptHeld := false, acked := false, image := 0 } }

/-- Requests of this core at homes that go on are dropped with it. -/
def State.dropOwn (s : State) : State :=
  let own (e : FeEntry) : Bool := match e.src with | .own _ => true | .foreign _ => false
  { s with mem := { s.mem with
      retry := s.mem.retry.filter fun e => !own e
      refusals := s.mem.refusals.filter fun e => !own e } }

/-- A reset of this core's cluster. (DEDUCED: log entry 31.) (DEDUCED: log entry 32.) -/
def State.resetOwn (s : State) (info : Word) : State :=
  ((s.unqueueAll.dropOwn).closeLists s.pkg (s.core / 16) info).clusterValues

/-- A reset of another cluster, as this core sees it: episodes are abandoned, what waits on it takes RMTDEAD, and groups with a
member there are broken. -/
def State.resetOther (s : State) (pkg cluster : Nat) (info : Word) : State :=
  let s := (s.scopesOf pkg (cluster * 16)).foldl (fun s n => s.abandon n info) s
  let s := (s.net.filter fun q => s.waitsOn q pkg cluster && !q.safe).foldl (fun s q => s.fails q.id info) s
  (s.closeLists pkg cluster info).breakForCluster pkg cluster info

/-- The boundary of a cluster closes. -/
def State.closeCluster (s : State) (pkg : BitVec 18) (cluster : BitVec 7) : State :=
  if pkg.toNat = s.pkg then { s with
      launch := { s.launch with resets := s.launch.resets + 1 }
      guard := { s.guard with
        clusterResets := saturate s.guard.clusterResets
        closedClusters := s.guard.closedClusters.filter (· != cluster) ++ [cluster] } }
  else { s with guard := { s.guard with
      closedElsewhere := s.guard.closedElsewhere.filter (· != (pkg, cluster)) ++ [(pkg, cluster)] } }

/-- A cluster is reset. (DEDUCED: log entry 31.) -/
def execClusterReset (cluster : BitVec 7) (pkg : BitVec 18) (s : State) : Out :=
  let info := deadInfo pkg.toNat (cluster.toNat * 16)
  let s := s.closeCluster pkg cluster
  .next (if pkg.toNat = s.pkg && cluster.toNat = s.core / 16 then s.resetOwn info else s.resetOther pkg.toNat cluster.toNat info)

/-- The management core reopens a cluster and starts its control contexts at RECOVER. (DEDUCED: log entry 31.) -/
def execBoundaryReopen (cluster : BitVec 7) (s : State) : Out :=
  if !s.guard.closedClusters.contains cluster then .next s
  else
    let t : State := { s with guard := { s.guard with closedClusters := s.guard.closedClusters.filter (· != cluster) } }
    .next (if cluster.toNat = s.core / 16 then t.startControl 2 s.launch.record else t)

/-! ### Package reset (R158, R399) -/

/-- A home slice of the package. -/
def State.ownHome (s : State) (ga : Nat) : Bool := gaSpace ga == 0 && gaPkg ga == s.pkg

/-- Global memory after a reset of this package: its home slices are zero and full; CXL devices and other packages keep
what they hold. (DEDUCED: log entry 35.) -/
def State.memoryReset (s : State) : Memory where
  cells := s.mem.cells.filter fun c => !s.ownHome c.1
  empty := s.mem.empty.filter fun w => !s.ownHome (8 * w)
  poison := s.mem.poison.filter fun w => !s.ownHome (8 * w)
  sealed := s.mem.sealed.filter fun g => gaPkg (65536 * g) != s.pkg
  frozen := []
  retry := []
  refusals := []

/-- The package's state after a reset: what the package keeps without power, and the counts it makes over its life, stay. (DEDUCED: log entry 35.) -/
def State.packageValues (s : State) : State :=
  { State.reset with
    core := s.core, pkg := s.pkg, mem := s.memoryReset, tick := s.tick, inbox := s.inbox, sent := s.sent, toHost := s.toHost
    images := s.images, spills := s.spills.filter fun x => !s.ownHome x.1
    links := { Links.reset with retrains := s.links.retrains }
    guard := { Guard.reset with
      security := if Config.firmwareVerified s.guard.bootImages then 0 else 1
      offClusters := if Config.firmwareVerified s.guard.bootImages then [] else everyCluster
      challenges := s.guard.challenges, ownerKey := s.guard.ownerKey, bootImages := s.guard.bootImages
      corrected := s.guard.corrected, uncorrected := s.guard.uncorrected, fillerSteps := s.guard.fillerSteps
      interventions := s.guard.interventions, packageFailures := s.guard.packageFailures
      clusterResets := s.guard.clusterResets, hours := s.guard.hours, lifetime := s.guard.lifetime } }

/-- Package reset. (DEDUCED: log entry 35.) (DESIGN CHOICE: log entry 46.) -/
def execPackageReset (s : State) : Out := .next s.packageValues

/-! ### The scrubber (R28, R167) -/

/-- A home word with errors. -/
def State.scrubHome (s : State) (ga bits : Nat) : State :=
  let here := gaSpace ga == 0 && gaPkg ga == s.pkg && gaCore ga / 256 == s.core / 256
  match bits with
  | 0 => s
  | 1 => if here then { s with guard := { s.guard with corrected := saturate s.guard.corrected } } else s
  | _ =>
    let t : State := { s with mem := { s.mem with poison := setIn s.mem.poison (ga / 8) } }
    let t := t.mark (ga / 8 * 8) [0]
    if here then { t with guard := { t.guard with uncorrected := saturate t.guard.uncorrected } } else t

/-- A scratchpad word of the cluster with errors. -/
def State.scrubSpad (s : State) (a bits : Nat) : State :=
  match bits with
  | 0 => s
  | 1 => { s with guard := { s.guard with corrected := saturate s.guard.corrected } }
  | _ => { s with
      spad := { s.spad with poison := setIn s.spad.poison (a / 4) }
      guard := { s.guard with uncorrected := saturate s.guard.uncorrected } }

/-- The scrubber visits a word that has so many bits in error. (DESIGN CHOICE: log entry 48.) -/
def execScrub (scratch : Bool) (ga : Word) (bits : Nat) (s : State) : Out :=
  .next (if scratch then s.scrubSpad ga.toNat bits else s.scrubHome ga.toNat bits)

end Sys2Proof.Machine
end

