-- ==== Sys2Proof/Machine/HostOps.lean ====
section
/-!
DEFINITION. The host's transactions (R383 to R389), its answers (R351, R384), and the fabric manager (R185).
-/

namespace Sys2Proof.Machine

open Sys2Proof

/-! ### Reads and writes (R383 to R385) -/

/-- A package that a host request may name: of the launched job, or, with none launched, a populated one. (DESIGN CHOICE: log entry 28.) -/
def State.hostPackage (s : State) (p : Nat) : Bool :=
  if s.launch.state = 0 || s.launch.state = 5 then p / 2 ^ 11 < Config.extentX && p / 2 ^ 4 % 2 ^ 7 < Config.extentY || p == s.pkg
  else s.jobPackage p

/-- The status of a request whose address is not served; 0 when it is. (DESIGN CHOICE: log entry 27.) (DESIGN CHOICE: log entry 28.) -/
def State.hostStatus (s : State) (ga : Nat) (read : Bool) : Status :=
  if !s.hostPackage (gaPkg ga) || (s.deadPackage (gaPkg ga)).isSome then 2
  else if gaSpace ga != 1 && (s.closedAt (gaPkg ga) (gaCore ga)).isSome then 4
  else if s.unserved ga then 5
  else if gaSpace ga = 1 && s.cxlAbsent ga read then 1
  else 0

/-- The service core that R20 selects for an address: its package, and its number there. -/
def serviceOf (ga : Nat) : Nat :=
  let c := gaCore ga / 16 % 16
  gaPkg ga * 8 + (if gaSpace ga = 1 then gaPort ga / 2 * 4 else gaCore ga / 256 * 4 + (c / 8 * 2 + c % 4 / 2))

/-- This core's service core has received a request, or performed one. -/
def State.tookIn (s : State) (own : Bool) (seq : BitVec 16) : State :=
  if own then { s with service := { s.service with received := seq } } else s
def State.served (s : State) (own : Bool) (seq : BitVec 16) : State :=
  if own then { s with service := { s.service with performed := seq } } else s

/-- A service core's transaction to the host: this core's keeps its order (R384). -/
def State.emitFrom (s : State) (own : Bool) (x : ToHost) : State :=
  if own then s.emitHost x else { s with toHost := s.toHost ++ [x] }

/-- Bytes of memory, or the status of a failure. -/
def State.readBytes (s : State) (ga n : Nat) : Status × List Byte :=
  let a := s.moved ga
  if s.mem.poisoned a n then (3, []) else (0, bytesOf (s.mem.read a n) n)

/-- The offset is that of a doorbell (R386). -/
def gaDoorbell (ga : Nat) : Bool := ga / 2 ^ 16 % 2 ^ 17 == 1

/-- A register of device space: of this core, or of another, where the same offsets are refused and the doorbell reads 0. -/
def State.hostDeviceRead (s : State) (ga n : Nat) : Status × List Byte :=
  if n != 8 then (1, [])
  else
    match s.deviceRead ga with
    | .data v => (0, bytesOf (if s.ownDevice ga then v else if gaDoorbell ga then 0 else (Config.deviceWord ga s.tick).toNat) 8)
    | .fail .. => (1, [])

/-- What a read answers. (DESIGN CHOICE: log entry 26.) -/
def State.hostReads (s : State) (ga n : Nat) : Status × List Byte :=
  let st := s.hostStatus ga true
  if st != 0 then (st, [])
  else if gaSpace ga = 2 then s.hostDeviceRead ga n
  else s.readBytes ga n

/-- A host read is performed. -/
def State.hostReadNow (s : State) (seq : BitVec 16) (ga len : Nat) : State :=
  let r := s.hostReads ga len
  let s := if r.1 = 0 then s.touchUnits ga len else s
  (s.served (s.ownService ga) seq).emitFrom (s.ownService ga) (.readData seq r.1 r.2)

/-- The status of an error reply (R385). -/
def statusOf : Reply → Status
  | .data _ => 0
  | .fail cause _ _ _ => if cause = 9 then 6 else if cause = 17 then 3 else if cause = 19 then 4 else if cause = 18 then 5 else 1

/-- Listed bytes of a list. -/
def numbered (l : List Byte) : List (Nat × Byte) := l.zipIdx.map fun p => (p.2, p.1)

/-- A write of memory, sector by sector from the lowest: the state, and the offset and status of the sector that failed. -/
def State.writeSectors : Nat → State → Nat → Nat → List Byte → State × Option (Nat × Status)
  | 0, s, _, _, _ => (s, none)
  | f + 1, s, ga, off, data =>
    if data.isEmpty then (s, none)
    else
      let t := s.storeAt (ga + off) (numbered (data.take 32))
      match t.2 with
      | .data _ => State.writeSectors f t.1 ga (off + 32) (data.drop 32)
      | r => (s, some (off, statusOf r))

/-- A write of a device-space register: of this core, or of another, which it leaves for. (DESIGN CHOICE: log entry 29.) -/
def State.hostDeviceWrite (s : State) (ga : Nat) (data : List Byte) : State × Option (Nat × Status) :=
  let v : Word := BitVec.ofNat 64 (ofBytes data)
  if data.length != 8 then (s, some (0, 1))
  else
    match s.deviceWrite ga v with
    | (t, .data _) => (if s.ownDevice ga then t else { s with sent := s.sent ++ [.device ga v] }, none)
    | (_, r) => (s, some (0, statusOf r))

/-- What a write does. (DESIGN CHOICE: log entry 26.) -/
def State.hostWrites (s : State) (ga : Nat) (data : List Byte) : State × Option (Nat × Status) :=
  let st := s.hostStatus ga false
  if st != 0 then (s, some (0, st))
  else if gaSpace ga = 2 then s.hostDeviceWrite ga data
  else State.writeSectors 8 (s.touchUnits ga data.length) ga 0 data

/-- A host write is performed; a failure is reported by an error transaction. -/
def State.hostWriteNow (s : State) (seq : BitVec 16) (ga : Nat) (data : List Byte) : State :=
  let t := s.hostWrites ga data
  let u := t.1.served (s.ownService ga) seq
  match t.2 with
  | none => u
  | some (off, st) => u.emitFrom (s.ownService ga) (.error seq off st)

/-- An `hcall` is answered: HRES and a wake of the named context, unless its GEN is stale (R351). -/
def State.hostAnswers (s : State) (core : BitVec 29) (ctx : BitVec 4) (gen : BitVec 8) (ticket : BitVec 16) (value : BitVec 48) :
    State :=
  match ctxOf ctx.toNat with
  | none => s
  | some k =>
    if core != s.lcore || !(s.at k).live || (s.at k).gen != gen then s
    else
      let t := s.modifyAt k fun c => { c with hres := BitVec.ofNat 64 (ticket.toNat * 2 ^ 48 + value.toNat) }
      t.wake k

/-! ### The order of a service core (R384, R385) -/

/-- A host transaction's home refuses it: its page is frozen, or its slice's core has reported itself saved (R362, R369). -/
def State.hostRefused (s : State) (x : HostTry) : Bool :=
  let refused (read : Bool) : Bool := gaSpace x.ga < 2 && s.hostStatus x.ga read = 0 &&
    (s.mem.frozen.contains (granule x.ga) || (s.launch.acked && s.ownSlice x.ga))
  match x.what with
  | .read _ => refused true
  | .write _ => refused false
  | .answer .. => false
  | .portRead _ => refused true
  | .portWrite _ => refused false
  | .portPatch .. => refused false

/-- Who serves a host transaction or a command: the service core that R20 selects, or the management core (R390). -/
def HostTry.server (x : HostTry) : Nat := if x.what.ofPort then 2 ^ 40 else serviceOf x.ga

/-! ### The management port's accesses (R390, R395) -/

/-- A port status from a host status. (DEDUCED: log entry 40.) -/
def portStatus (st : Status) : Status := if st = 0 then 0 else if st = 6 then 2 else 1

/-- The 64 bytes are written as one access, and the cores in scope of the cluster are asked to discard them; status 0 answers once
every one has acknowledged. (DEDUCED: log entry 40.) -/
def State.patchLine (s : State) (cluster : BitVec 7) (va : Word) (ga : Nat) (line : List Byte) (scope : Nat) : State :=
  if s.hostStatus ga false != 0 then s.portAnswer 1 [] else
  let t := s.storeAt ga (numbered (line.take 64))
  match t.2 with
  | .fail .. => s.portAnswer 1 []
  | .data _ =>
    let base := va.toNat / 64 * 64
    let sc := if scope = 0 then 1 else if scope = 9 then 8 else scope
    { t.1 with
      seqNo := t.1.seqNo + 1
      net := t.1.net ++ [⟨t.1.seqNo, 0, 0, multicastHome, 0, 0, .patch cluster (BitVec.ofNat 64 base) sc, true, false, 0, [], .sent, 0⟩] }

/-- MEMRD at the home. -/
def State.portReads (s : State) (ga n : Nat) : State :=
  let r := s.hostReads ga n
  (if r.1 = 0 then s.touchUnits ga n else s).portAnswer (portStatus r.1) r.2

/-- MEMWR at the home. -/
def State.portWrites (s : State) (ga : Nat) (data : List Byte) : State :=
  let t := s.hostWrites ga data
  match t.2 with
  | none => t.1.portAnswer 0 []
  | some (_, st) => t.1.portAnswer (portStatus st) []

/-- A host transaction is performed, or a command of the port. -/
def State.hostPerform (s : State) (x : HostTry) : State :=
  match x.what with
  | .read n => s.hostReadNow x.seq x.ga n
  | .write data => s.hostWriteNow x.seq x.ga data
  | .answer core ctx gen ticket value => (s.hostAnswers core ctx gen ticket value).served (s.ownService x.ga) x.seq
  | .portRead n => s.portReads x.ga n
  | .portWrite data => s.portWrites x.ga data
  | .portPatch cluster va line scope => s.patchLine cluster va x.ga line scope

/-- Every retry of a host transaction was refused: status 5, and nothing is performed; a command of the port is refused. -/
def State.hostGivesUp (s : State) (x : HostTry) : State :=
  if x.what.ofPort then s.portAnswer 1 []
  else
    (s.served (s.ownService x.ga) x.seq).emitFrom (s.ownService x.ga)
      (match x.what with
       | .write _ => .error x.seq 0 5
       | _ => .readData x.seq 5 [])

/-- The retries of a service core (R385), and of the management core. -/
def hostRetries : Nat := 64

/-- Host transactions in their order: one that is refused waits for its retry, and those of its service core behind it wait too. (DESIGN CHOICE: log entry 26.) -/
def State.serveHost (s : State) (kept : List HostTry) : List HostTry → State × List HostTry
  | [] => (s, kept)
  | x :: t =>
    if kept.any fun y => y.server == x.server then s.serveHost (kept ++ [x]) t
    else if !s.hostRefused x then (s.hostPerform x).serveHost kept t
    else if !Config.backOffEnds s.tick then s.serveHost (kept ++ [x]) t
    else if x.tries + 1 < hostRetries then s.serveHost (kept ++ [{ x with tries := x.tries + 1 }]) t
    else (s.hostGivesUp x).serveHost kept t

/-- The host transactions that wait are tried again. -/
def State.retryHost (s : State) : State :=
  match s.service.waiting with
  | [] => s
  | l => let r := s.serveHost [] l; { r.1 with service := { r.1.service with waiting := r.2 } }

/-- A transaction or a command is performed, or waits: its home refuses it, or one before it waits. -/
def State.hostTake (s : State) (x : HostTry) : State :=
  if s.hostRefused x || s.service.waiting.any (fun y => y.server == x.server) then
    { s with service := { s.service with waiting := s.service.waiting ++ [x] } }
  else s.hostPerform x

/-- A host transaction is received, and performed or refused. -/
def State.hostRequest (s : State) (x : HostTry) : State := (s.tookIn (s.ownService x.ga) x.seq).hostTake x

/-- A transaction of the host wakes a sleeping package (R398). In recovery no service or management firmware runs to serve it (R399).
(DESIGN CHOICE: log entry 46.) -/
def State.fromHost (s : State) (f : State → State) : Out := .next (if s.guard.security = 0 then f s.woken else s.woken)

/-- A host read. -/
def execHostRead (seq : BitVec 16) (ga : Word) (len : Nat) (s : State) : Out :=
  s.fromHost fun s => s.hostRequest ⟨seq, ga.toNat, .read len, 0⟩

/-- A host write. -/
def execHostWrite (seq : BitVec 16) (ga : Word) (data : List Byte) (s : State) : Out :=
  s.fromHost fun s => s.hostRequest ⟨seq, ga.toNat, .write data, 0⟩

/-- The answer to an `hcall`. (DESIGN CHOICE: log entry 26.) -/
def execHcallAnswer (core : BitVec 29) (ctx : BitVec 4) (gen : BitVec 8) (ticket : BitVec 16) (value : BitVec 48) (s : State) :
    Out :=
  s.fromHost fun s => s.hostRequest ⟨Config.answerSeq s.tick, s.sliceOf core.toNat, .answer core ctx gen ticket value, 0⟩

/-! ### Launch (R387, R388) -/

/-- A doubleword of a launch record. -/
def State.recordWord (s : State) (rec : Word) (k : Nat) : Word := BitVec.ofNat 64 (s.peek (rec.toNat + 8 * k) 8)

/-- The chassis offsets of the package in a job that starts at a chassis. -/
def State.chassisX (s : State) (lx0 : Nat) : Nat := (s.pkg / 2 ^ 11 % 128 + Config.extentX - lx0) % Config.extentX
def State.chassisY (s : State) (ly0 : Nat) : Nat := (s.pkg / 2 ^ 4 % 128 + Config.extentY - ly0) % Config.extentY

/-- The job of a launch record, as the management core keeps it. -/
def State.jobOf (s : State) (rec : Word) : Launch :=
  let w := s.recordWord rec 5
  { s.launch with
    record := rec, state := 2, nx := w.bits 56 8, ny := w.bits 48 8, lx0 := w.bits 41 7, ly0 := w.bits 34 7
    hivec := BitVec.ofNat 32 (s.recordWord rec 9).toNat, completions := 0, failures := 0, resets := 0, acked := false, image := 0 }

/-- The core's registers as a launch writes them. -/
def State.launchRegs (s : State) (rec : Word) (l : Launch) : CoreRegs :=
  let jpkg := (s.chassisX l.lx0 * l.ny + s.chassisY l.ly0) * 16 + s.pkg % 16
  { s.regs with
    jobseed := s.recordWord rec 4, lcore := BitVec.ofNat 64 (jpkg * 2048 + s.core)
    ptb := keep (s.recordWord rec 3) (2 ^ 64 - 2 ^ 12), barcfg := barcfgWrite s.regs.barcfg (s.recordWord rec 6)
    tcpl := keep (s.recordWord rec 7) (2 ^ 64 - 2 ^ 5) }

/-- The machine can be launched: no job runs, the firmware is verified, and the package and the cluster have power. (DEDUCED: log entry 30.) -/
def State.launchable (s : State) : Bool :=
  (s.launch.state == 0 || s.launch.state == 5) && s.guard.security == 0 && !s.guard.asleep &&
    !s.guard.offClusters.contains (BitVec.ofNat 7 (s.core / 16)) && !s.guard.closedClusters.contains (BitVec.ofNat 7 (s.core / 16))

/-- A launch: the registers, and the control context at level 1, at ENTRY, with the record's address in g1. (DEDUCED: log entry 9.) (DEDUCED: log entry 30.) (DEDUCED: log entry 49.) -/
def execHostLaunch (rec : Word) (s : State) : Out :=
  s.fromHost fun s =>
    let l := s.jobOf rec
    if !s.launchable || l.nx ≤ s.chassisX l.lx0 || l.ny ≤ s.chassisY l.ly0 then s
    else
      ({ s with
        launch := l, regs := s.launchRegs rec l, units := { s.units with dumpaddr := s.recordWord rec 8 } } : State).startControl 0 rec

/-- The host's resync transaction. -/
def execHostResync (addr : Word) (s : State) : Out :=
  s.fromHost fun s => { s with toHost := s.toHost ++ [.summary addr (wordBytes s.summary)] }

/-! ### Acknowledgements (R384) -/

/-- The host has acknowledged a write: what waited for the last one leaves. -/
def State.hostAcked (s : State) : State := s.sendHost (s.service.unacked - 1) s.service.queue

/-- The host answers a read or acknowledges a write of this core. -/
def execHostAcknowledgement (id : Nat) (data : Word) (s : State) : Out :=
  match s.net.find? fun q => q.id == id && q.stage == .listed && gaSpace q.ga == 3 && q.msg.op.isSome with
  | none => .next (if s.service.unacked = 0 then s else s.hostAcked)
  | some q =>
    match q.msg with
    | .access (.read n) => .next (s.replyTo id (.data (data.toNat % 256 ^ n)))
    | _ => .next (s.hostAcked.replyTo id (.data 0))

/-! ### The fabric manager (R185) -/

/-- A pool region is assigned to its owner, in place of what was assigned there. -/
def execPoolRegionAssignment (port : BitVec 4) (base size : Nat) (owner : BitVec 18) (s : State) : Out :=
  let others := s.pools.filter fun r => r.port != port || r.base + r.size ≤ base || base + size ≤ r.base
  .next { s with pools := others ++ [⟨port, base, size, owner⟩] }

end Sys2Proof.Machine
end

