-- ==== Sys2Proof/Machine/Agents.lean ====
section
/-!
DEFINITION. The agents beside the instruction stream: what time does by itself at each step, the events that can happen next
(00_scope, R161, R197), the context that issues (R58, R63), and the fetch of its instruction (R29 to R34, R44).
-/

namespace Sys2Proof.Machine

open Sys2Proof

/-! ### Time -/

/-- A context can issue: it is live, not being saved, and not blocked, or its block is over. (DEDUCED: log entry 20.) -/
def State.ready (s : State) (i : Fin 11) : Bool :=
  let c := s.at i
  c.live && !s.stopped i && (match c.block with
    | none => true
    | some b => s.waitOver i b.wait)

/-- A ready context ages; a blocked one does not (R58). (DESIGN CHOICE: log entry 7.) -/
def State.growOld (s : State) : State :=
  { s with ctxs := .ofFn fun i => let c := s.at i; { c with age := if s.ready i then c.age + 1 else 0 } }

/-- Contexts blocked on an empty return queue. -/
def State.starved (s : State) : Nat :=
  (allCtx.filter fun i => match (s.at i).live, (s.at i).block with
    | true, some ⟨.queue _, _, _⟩ => true
    | _, _ => false).length


/-- LODCNT.CYC counts the core cycles that contexts stay blocked with QEMPTY, and stops at its largest value (R3, R239, R240). -/
def State.countStarved (s : State) (n : Nat) : State :=
  let k := s.starved
  if k = 0 then s
  else
    let v := s.regs.lodcnt.bits 32 32 + k * n
    { s with regs := { s.regs with lodcnt := s.regs.lodcnt.setBits 32 32 (if 2 ^ 32 - 1 < v then 2 ^ 32 - 1 else v) } }

/-- The neighbours read entries of this core's channels (R60). (DEDUCED: log entry 14.) -/
def State.neighbours (s : State) : State :=
  if s.away.toList.all (· == 0) then s
  else
    { s with away := .ofFn fun c => if s.away[c] != 0 && Config.neighbourReads s.tick c.val then s.away[c] - 1 else s.away[c] }

/-- A gang of which another core's member is pre-empted or reset dissolves without a count (R64), and writes of `mrd`s
land (R72). -/
def State.lapse (s : State) : State :=
  { s with ctxs := .ofFn fun i =>
      let c := s.at i
      { c with
        gang := if c.hasPeers s.core && Config.peersGone s.tick then none else c.gang
        landing := c.landing.filter fun d => !Config.landed s.tick d } }

/-- What another core of the cluster, one that runs, does that the debug module records (R391 to R393). -/
def Debug.noteStop (d : Debug) (own : Nat) (x : Option (Nat × Nat × Nat × Nat)) : Debug :=
  let runs (c : Nat) : Bool := c % 16 != own && !d.others.any fun o => o.1 == c % 16
  match x with
  | some (1, c, k, _) =>
    if runs c then { d.haltOther (c % 16) .instr with reason := 3, core := c % 16, ctx := k % 11, vcause := 0 } else d
  | some (2, c, k, v) =>
    if runs c then { d.haltOther (c % 16) .vector with reason := 6, core := c % 16, ctx := k % 11, vcause := v % 256 } else d
  | some (3, _, _, _) =>
    (match d.otherStep with
     | some (c, k) => { (Debug.haltOther { d with others := d.others.filter (·.1 != c) } c .step) with
         reason := 5, core := c, ctx := k, otherStep := none }
     | none => d)
  | _ => d

/-- The record with only the fields about other cores taken from another. -/
def Debug.takeOthers (d e : Debug) : Debug :=
  { d with others := e.others, otherStep := e.otherStep, core := e.core, ctx := e.ctx, vcause := e.vcause, reason := e.reason }

/-- Other cores of the cluster stop by themselves, or halt this cluster by `brk` under BRKH; the package cross-trigger reaches it
(R391, R392). (DESIGN CHOICE: log entry 94.) -/
def State.otherStops (s : State) : State :=
  let s : State := { s with dbg := s.dbg.takeOthers (s.dbg.noteStop (s.core % 16) (Config.otherStops s.tick)) }
  let s := if s.dbg.brkh then
      (match Config.otherStops s.tick with
       | some (0, c, k, _) => if c % 16 = s.core % 16 then s else s.haltCluster 2 (c % 16) (k % 11)
       | _ => s)
    else s
  if s.dbg.xin && Config.crossTrigger s.tick then s.haltCluster 4 0 0 else s

/-- One released entry of each hold buffer leaves (R309). -/
def State.drain (s : State) : State :=
  allCtx.foldl (fun s i => if (s.at i).live && (s.at i).released != 0 then s.drainOne i else s) s

/-- A terminated helper whose replies are in leaves (R330). -/
def State.departures (s : State) : State :=
  helpers.foldl (fun s i =>
    match (s.at i).live, (s.at i).block with
    | true, some ⟨.ending, _, _⟩ =>
      if s.quiet i && (s.at i).hold.isEmpty then
        let c := s.at i
        let s := if c.hobj.bit 40 then s.handlerExit (c.hobj.bits 0 12) else s
        (s.endTrace i 14).free i
      else s
    | _, _ => s) s

/-- An `mma` waits for the Bellows, or the unit is active (R235). (DESIGN CHOICE: log entry 68.) -/
def State.bellowsOpen (s : State) : Bool :=
  s.mx.active || (match s.mxReady with | some (_, c, _) => c.what.streams | none => false)

/-- The boundaries at which the unit neither starts nor stops pass (R234). -/
def State.skipBoundaries (s : State) : State :=
  s.withMx fun m => { m with boundary := max m.boundary (s.units.pcyc.toNat / 4 * 4) }

/-- The boundaries up to now, one after the other: what the die's other units do at each is free. An `mma` that comes to the head of
the queue as another starts is noted ready from the next cycle on. (DESIGN CHOICE: log entry 68.) -/
def State.runBoundaries : Nat → State → State
  | 0, s => s
  | f + 1, s =>
    if !s.bellowsOpen then s.skipBoundaries
    else
      let b := s.mx.boundary + 4
      let v := s.dieAt b
      State.runBoundaries f ((s.bellows v.1 v.2.1 v.2.2).noteReadyAt (BitVec.ofNat 64 (b + 1)))

/-- Every boundary up to now has passed, so that BELLADD and FILLCNT show every earlier cycle's updates (R234, R410). -/
def State.passBoundaries (s : State) : State :=
  if !s.bellowsOpen then s.skipBoundaries else s.runBoundaries ((s.units.pcyc.toNat - s.mx.boundary) / 4)

/-- The units of the cluster that move without a row of their own: a `gath.q` pushes its next element, and a remote command that
waits for room is accepted, unless the cluster is halted (R392). -/
def State.pump (s : State) : State := if s.dbg.clusterHalted then s.pumpGather else s.pumpGather.acceptWaiting

/-- NOW advances each time RATE nominal cycles have passed since the last advance, or since the `wrc` (R414). -/
def State.advanceNow : Nat → State → State
  | 0, s => s
  | f + 1, s =>
    let rate := s.regs.etcfg.bits 0 16
    if rate != 0 && rate ≤ s.drone.phase then State.advanceNow f s.nowOn else s

/-- `n` cycles of the front end's clock. -/
def State.passTime (s : State) (n : Nat) : State :=
  if s.regs.etcfg.bits 0 16 = 0 then s
  else
    let s := s.withDrone fun d => { d with phase := d.phase + n }
    s.advanceNow s.drone.phase

/-- A context could have a read performed early now (R192): it goes on, or waits for plain loads alone. -/
def Ctx.readsAhead (c : Ctx) : Bool :=
  let plain (k : After) : Bool := match k with
    | .load .. => true
    | .vload .. => true
    | _ => false
  c.live && match c.block with
    | none => true
    | some ⟨.reply _ _ k, _, _⟩ => plain k
    | some ⟨.outstanding _ _ _ k, _, _⟩ => (k.map plain).getD false
    | _ => false

/-- A home performs an early read of a context at once: of home or CXL space, where no earlier access of the context to that home
is unperformed, and the home would answer with data. -/
def State.mayReadEarly (s : State) (i : Fin 11) (ga : Nat) : Bool :=
  gaSpace ga < 2 && s.moved ga == ga && !s.mem.frozen.contains (granule ga) && !s.mem.poisoned ga 32 &&
    !s.cxlAbsent ga true && !s.lent ga && (s.deadHome ga).isNone && (s.closedAt (gaPkg ga) (gaCore ga)).isNone &&
    !(s.launch.acked && s.ownSlice ga) &&
    !s.net.any fun r => r.ctx == i && r.gen == (s.at i).gen && homeOf r.ga == homeOf ga && r.stage != .answered

/-- The reads performed early, with one that a step may add. (DESIGN CHOICE: log entry 11.) -/
def State.readEarly (s : State) : List Early :=
  if s.tick = 0 then s.early
  else
    match Config.earlyRead s.tick with
    | none => s.early
    | some (i, a) =>
      let ga := a / 32 * 32
      if (s.at i).readsAhead && s.mayReadEarly i ga then s.early ++ [⟨i, ga, s.mem.read ga 32, []⟩] else s.early

/-- None of these messages is still to be accepted. -/
def State.settledAll (s : State) (ids : List Nat) : Bool := !s.net.any fun q => ids.contains q.id

/-- An answer owed to another core leaves: of the Drone once the events it waits for are accepted (R237), of the queue controller
when every core of the package has acknowledged (R330). (DESIGN CHOICE: log entry 103.) -/
def State.pays (s : State) (o : Owed) : Bool := if o.ids.isEmpty then Config.packageAcked s.tick else s.settledAll o.ids

/-- The answers that are due leave. -/
def State.payOwed (s : State) : State :=
  { s with
    owed := s.owed.filter fun o => !s.pays o
    sent := s.sent ++ (s.owed.filter s.pays).map fun o => .reply o.core o.reply
    net := s.net.map fun q => match q.stage with
      | .owes ids r => if s.settledAll ids then { q with stage := .replied r } else q
      | _ => q }

/-- Reset clusters of other packages that have been reopened are closed no more (R382). -/
def State.reopenElsewhere (s : State) : State :=
  { s with guard := { s.guard with closedElsewhere := s.guard.closedElsewhere.filter fun c => !Config.reopened s.tick c } }

/-- Trace sessions on contexts of other cores end as their cores say (R397). (DESIGN CHOICE: log entry 107.) -/
def State.endElsewhere (s : State) : State :=
  if s.dbg.sessions.all (·.lcore == s.lcore) then s
  else
    { s with dbg := { s.dbg with sessions := (s.dbg.sessions.zipIdx.filter fun x =>
        x.1.lcore == s.lcore || !Config.sessionEnds s.tick x.2).map (·.1) } }

/-- `n` cycles pass: PCYC, counters, NOW, boundaries, and the tests of what was updated in the cycle before (R38, R254). -/
def State.passCycles (s : State) (n : Nat) : State :=
  let was := s.units.coreCycles
  let s : State := { s with units := { s.units with
    pcyc := s.units.pcyc + BitVec.ofNat 64 n, coreTime := s.units.coreTime + n * s.units.clkrate.toNat } }
  let s : State := s.countStarved (s.units.coreCycles - was)
  let s := (s.passTime n).passBoundaries
  match n with
  | 0 => s
  | _ + 1 => (match s.dueSems with
    | [] => s
    | _ => s.serveDue).testWaiting

/-- What a step's time does when it is `n` cycles: PCYC, ages, counters, and what leaves buffers. -/
def State.clockBy (s : State) (n : Nat) : State :=
  let s := if s.dbg.clusterHalted then s else s.noteReady
  let early := s.readEarly
  let s : State := { s.growOld with tick := s.tick + 1, stalled := false, early := early }
  (s.passCycles n).lapse.otherStops.neighbours.drain.departures.pump.pumpEvent.payOwed.retryHost.reopenElsewhere.endElsewhere.flushTrace

/-- What a step's time does. (DESIGN CHOICE: log entry 7.) -/
def State.clock (s : State) : State := s.clockBy (Config.cycles s.tick)

/-! ### The events that can happen -/

/-- The target of a message is this core's message interface. -/
def State.mine (s : State) (target : Word) : Bool := target.toNat == s.lcore.toNat

/-- How a request that may arrive is performed: the row of its kind where its target is this core or a unit of the model,
and `requestAtHome` for everything else. -/
noncomputable def State.arrivalOf (s : State) (q : Request) : Option Instr :=
  match q.msg with
  | .access (.tnew _) => some (.tnewAtHome (.own q.id))
  | .access .tdec => some (.taskDecrement (.own q.id))
  | .access _ => if s.moved q.ga != q.ga then some (.forwardedAccess (.own q.id)) else some (.requestAtHome (.own q.id))
  | .kick target n => if s.mine target then some (.kickNoticeArrival n (some q.id)) else some (.requestAtHome (.own q.id))
  | .mcmd target x r tail cap note =>
    if s.mine target then some (.mcmdAtTarget x r tail cap s.lcore note (some q.id))
    else some (.requestAtHome (.own q.id))
  | .queue _ _ => some (.queueRequestAtController (.own q.id))
  | .event target e => if s.mine target then some (.eventAccept e (some q.id)) else some (.requestAtHome (.own q.id))
  | .onew target index off cfg =>
    if s.mine target then some (.onewAtTarget index off cfg s.lcore (some q.id)) else some (.requestAtHome (.own q.id))
  | .odel target index => if s.mine target then some (.odelAtTarget index s.lcore (some q.id)) else some (.requestAtHome (.own q.id))
  | .esread target first count cut cur =>
    if s.mine target then some (.esreadAtTarget first count cut cur s.lcore (some q.id)) else some (.requestAtHome (.own q.id))
  | .migrate m => some (.migrationRequest m (some q.id))
  | .resync _ => some (.requestAtHome (.own q.id))
  | .shootdown base len _ => if s.quiesced q.id base.toNat len.toNat then some (.requestAtHome (.own q.id)) else none
  | .discard .. => some (.requestAtHome (.own q.id))
  | .patch .. => some (.requestAtHome (.own q.id))
  | .hcall .. => some (.requestAtHome (.own q.id))

/-- The next move of a request, if it has one. -/
noncomputable def State.requestMove (s : State) (q : Request) : Option Instr :=
  match q.stage with
  | .replied _ => some (.replyArrival q.id none)
  | .refused => some (.rnrRetry q.id)
  | .held _ => none
  | .owes _ _ => none
  | .after _ => none
  | .answered => none
  | .listed => if gaSpace q.ga = 1 && q.msg.op.isSome then some (.cxlDeviceReadComplete (BitVec.ofNat 64 (q.ga / 64 * 64))) else none
  | .sent => if s.mayArrive q then s.arrivalOf q else none

/-- A home has accepted a request that it once refused, and its notice is on its way (R420): not yet an event that has left for
another core. -/
def Request.accepted (q : Request) : Bool :=
  q.tries != 0 && match q.stage with
    | .sent => false | .refused => false | .after _ => false
    | .listed => !q.msg.mayBounce
    | _ => true

/-- The copy or gather queue's head can complete, or make its accesses. -/
def State.engineMoves (s : State) (gather : Bool) : Bool :=
  match s.eng.queueOf gather with
  | c :: _ =>
    c.started && (if s.dbg.clusterHalted then s.midBeat c && !c.what.pushes
      else if c.finished then (s.completeEngine gather).isSome else !c.what.pushes)
  | [] => false

/-- A started matrix command can make its writes, or complete. -/
def State.matrixMoves (s : State) (c : MxCmd) : Bool :=
  c.started && (match splitAt c.id [] s.mx.queue with
    | none => false
    | some (before, _, _) =>
      if c.ran.isSome then (s.completeMatrix c.id).isSome else !(c.what.streams && before.any (·.what.streams)))

/-- A queue's head waits on a semaphore: it starts when the tests of a cycle come to it (R38). -/
def headWaits (y : Option Sync) : Bool := match y with
  | some y => y.we
  | none => false

/-- The moves of the engines and the matrix unit. A head that waits on a semaphore starts by the tests of each cycle (R38). A halted
cluster starts nothing, and its copy and gather engines come to the end of their beat and stand (R392). -/
noncomputable def State.engineEvents (s : State) : List Instr :=
  ([false, true].filter s.engineMoves).map Instr.engineCommandComplete ++
  (if s.dbg.clusterHalted then [] else
    ([false, true].flatMap fun g =>
      (if !headWaits ((s.eng.queueOf g).head?.map (·.y)) && (s.startEngine g).isSome then [Instr.engineCommandStart g] else [])) ++
    (match s.mxReady with
     | some (_, c, _) => if !c.y.we && s.startMatrix.isSome then [Instr.matrixCommandStart c.id] else []
     | none => [])) ++
  (s.mx.queue.filter s.matrixMoves).map (fun c => Instr.matrixCommandComplete c.id) ++
  (if !headWaits (s.eng.event.head?.map (·.y)) && s.startEvent.isSome then [Instr.eventQueueCommandStart] else []) ++
  (if s.completeEvent.isSome then [Instr.eventQueueCommandComplete] else [])

/-- The moves of the Drone and of the starts. -/
noncomputable def State.droneEvents (s : State) : List Instr :=
  (if s.nextDue.isSome && !s.held && !s.dbg.clusterHalted then [Instr.eventDelivery] else []) ++

  (if s.startableTask.isSome then [Instr.runListStart] else []) ++
  (if s.startableHandler.isSome then [Instr.handlerStart] else []) ++
  (if s.writingBack then [Instr.droneWritebackDone] else [])

/-- A context's delay is over (R345). (DEDUCED: log entry 78.) -/
def State.delayOver (s : State) (i : Fin 11) : Bool :=
  (s.at i).live && (s.at i).dtime != 0 && (s.at i).dtime.toNat ≤ s.units.pcyc.toNat

/-- A sample of a session of this core is due (R396). -/
def State.sampleDue (s : State) (i : Fin 11) : Bool :=
  s.dbg.sessions.any fun x =>
    x.of s.lcore i (s.at i).gen && x.period != 0 && x.period ≤ s.units.coreCycles - x.last

/-- The moves of handles, barriers, groups, delays, quiet points and samples. -/
noncomputable def State.contextEvents (s : State) : List Instr :=
  (s.spad.transit.map fun h => Instr.handleArrival h.1 h.2) ++
  (if (s.barrier 1).signalled then [Instr.barrierRelease 1] else []) ++
  (s.groups.filter Group.complete).map (fun g => Instr.collectiveResult g.gid g.scope) ++
  (s.groups.filter s.timedOut).map (fun g => Instr.cbtimeo g.gid g.scope) ++
  (allCtx.filter s.delayOver).map (fun i => Instr.delayedExpiry i.val) ++
  (allCtx.filter fun i => s.stopped i && s.atQuiet i).map (fun i => Instr.quietPointReached i.val) ++
  (allCtx.filter s.sampleDue).map (fun i => Instr.traceSample i.val)

/-- The moves of migrations and sector buffers (R362, R183). -/
noncomputable def State.memoryEvents (s : State) : List Instr :=
  ((s.migrations.filter fun m => !m.forwarding || s.shotDown m.m.va).map fun m =>
    if m.forwarding then Instr.migrationComplete m.m.va
    else if m.frozen then Instr.migrationFinalCopy m.m.va else Instr.migrationRoundEnd m.m.va) ++
  (s.sectors.filter fun u => u.expires.toNat ≤ s.units.pcyc.toNat).map fun u =>
    Instr.sectorBufferExpiry (BitVec.ofNat 64 u.unit)

/-- Every event that this machine's own agents can make next. -/
noncomputable def State.enabled (s : State) : List Instr :=
  s.net.filterMap s.requestMove ++ (s.net.filter Request.accepted).map (fun q => Instr.acceptanceNotice q.id) ++ s.engineEvents ++ s.droneEvents ++ s.contextEvents ++ s.memoryEvents

/-! ### The context that issues (R58, R63, R393) -/

/-- A context would move now: it is ready, or an interrupt reaches it. A ganged context needs every member ready. (DEDUCED: log entry 12.) -/
def State.moves (s : State) (i : Fin 11) : Bool :=
  let c := s.at i
  c.live && !s.stopped i && (s.ready i || (s.interruptOf i).isSome) &&
    (!c.hasPeers s.core || Config.peersReady s.tick) &&
    (match s.dbg.halted with
     | none => true
     | some _ => s.dbg.step == some i)

/-- A context follows a leader on another core (R62, R63). -/
def State.follows (s : State) (i : Fin 11) : Bool :=
  match (s.at i).gang with
  | none => false
  | some g => (List.range (if g.clus then s.core % 16 else s.core % 4)).any g.mask.testBit

/-- A starving context (R58), with the ganged ones left out of the bound (R63). -/
def starvingAge : Nat := 20

/-- Of the contexts that `p` names, the oldest, and of equal ages the lowest. -/
def State.oldest (s : State) (p : Fin 11 → Bool) : Option (Fin 11) :=
  allCtx.foldl (fun best i => if p i then (match best with
    | some j => if (s.at j).age < (s.at i).age then some i else best
    | none => some i) else best) none

/-- The helpers in the order of turns after the one that issued last. -/
def turns (last : Nat) : List (Fin 11) := (helpers.filter fun i => last < i.val) ++ helpers.filter fun i => i.val ≤ last

/-- The helper whose turn it is in a priority, of those that `p` names. -/
def State.turn (s : State) (p : Fin 11 → Bool) (pri : Nat) : Option (Fin 11) :=
  (turns (nth s.lastOf pri 0)).find? fun i => p i && (s.at i).pri.toNat == pri

/-- The starving context whose turn it is. -/
def State.starving (s : State) (p : Fin 11 → Bool) : Option (Fin 11) :=
  s.oldest fun i => p i && starvingAge ≤ (s.at i).age && (s.at i).gang.isNone

/-- The choice among the contexts that `p` names (R58). -/
def State.choose (s : State) (p : Fin 11 → Bool) : Option (Fin 11) :=
  match s.starving p with
  | some i => some i
  | none => if p 0 then some 0 else priorities.findSome? (s.turn p)

/-- The context that issues, of those not passed over. A follower of a gang issues when its leader's core selects it, and no
control or starving context of this core is ready (R63). (DESIGN CHOICE: log entry 87.) -/
def State.chosenOf (s : State) (passed : List (Fin 11)) : Option (Fin 11) :=
  let p (i : Fin 11) : Bool := s.moves i && !passed.contains i
  if !s.running then none
  else
    match helpers.find? fun i => p i && s.follows i with
    | none => s.choose p
    | some f =>
      if Config.leaderSelects s.tick && !p 0 && (s.starving p).isNone then some f else s.choose fun i => p i && !s.follows i

/-- The context that issues. -/
def State.chosen (s : State) : Option (Fin 11) := s.chosenOf []

/-! ### Fetch (R29 to R34, R44) -/

/-- What fetching a context's next instruction comes to. -/
inductive Fetched where
  | instr (l : Line) (x : Option Xlate) (i : Instr)
  | trap (l : Option Line) (x : Option Xlate) (t : TrapInfo)

/-- FINFO of ILLFMT and of a `start` in a helper (R45, R66). -/
def helperStart : Nat := 0x10

/-- Decode head `i` of a well-formed line. -/
noncomputable def decodeAt (helper : Bool) (l : Line) (x : Option Xlate) (i : Nat) : Fetched :=
  let head := lineHead l.bytes i
  let op := head / 64 % 256
  if op = 0x10 && helper then .trap (some l) x ⟨1, 0, none, BitVec.ofNat 64 helperStart, none⟩
  else
    match decode head (lineTail l.bytes i) with
    | .ok c => .instr l x c
    | .error e => .trap (some l) x ⟨2, 0, none, BitVec.ofNat 64 (op * 256 + e.reason), none⟩

/-- Take the instruction at a context's PC out of a line. -/
noncomputable def decodeLine (helper : Bool) (pc : Word) (l : Line) (x : Option Xlate) : Fetched :=
  match lineFault l.bytes with
  | some r => .trap (some l) x ⟨5, 0, some l.va, BitVec.ofNat 64 r, none⟩
  | none =>
    if isHead pc l.heads then decodeAt helper l x ((pc.toNat % 64 - 2) / 2)
    else .trap (some l) x ⟨4, 0, some pc, 0, none⟩

/-- The line that a follower's leader executes (R63). -/
def State.leaderLine (s : State) (i : Fin 11) : Option Line :=
  if s.follows i then (Config.leaderLine s.tick).map fun bs => ⟨lineOf (s.at i).pc, 0, bs⟩ else none

/-- Fetch a context's next instruction: from its leader's line, from the line it is executing, or anew. -/
noncomputable def State.fetchNext (s : State) (i : Fin 11) : Fetched :=
  let c := s.at i
  match s.leaderLine i, c.line with
  | some l, _ => decodeLine (i.val != 0) c.pc l none
  | none, some l => decodeLine (i.val != 0) c.pc l none
  | none, none =>
    match s.fetchLine i c.pc with
    | .error t => .trap none none t
    | .ok (x, l) => decodeLine (i.val != 0) c.pc l (some x)

/-- A line has been fetched: the TLB and the core keep it, and after its first head the next line is fetched too. -/
def State.fetchedLine (s : State) (i : Fin 11) (l : Line) (x : Option Xlate) : State :=
  let s := match x with
    | some x => ((s.prefetch i l x).install x).keepLine l
    | none => s
  s.modifyAt i fun c => { c with line := some l }

/-- A step of the debug module for a context is used up, and the core halts again (R393). -/
def State.stepped (s : State) (i : Fin 11) : State :=
  if s.dbg.step == some i then
    { s with dbg := { s.dbg with step := none, halted := some .step, reason := 5, core := s.core % 16, ctx := i.val } }
  else s

/-- The context's turn: it is the one that issues, and its age starts afresh. A trap of another
member dissolves its gang (R64). A step of the debug module is used up and the
core halts again (R393). (DEDUCED: log entry 12.) -/
def State.turnOf (s : State) (i : Fin 11) : State :=
  let p := (s.at i).pri.toNat
  let s := { s with cur := i, lastOf := if i.val = 0 then s.lastOf else upd s.lastOf p i.val }
  let s := s.modifyAt i fun c => { c with age := 0 }
  (if (s.at i).hasPeers s.core && Config.peersTrap s.tick then s.dissolve i else s).stepped i

/-- An attempt that only blocks has issued nothing: the step of the debug module still stands (R393). -/
def State.unlessIssued (t : State) (i : Fin 11) (d : Debug) : State :=
  match (t.at i).block with
  | some b => if d.step == some i && !b.wait.issued then { t with dbg := d } else t
  | none => t

/-- A fault of the fetch. When it is that of a handler's first fetch (translation, poison, ILLLINE or ILLTGT; ILLOP and ILLFMT
are faults of the instruction), it cannot be delivered: the core halts (R342). (DEDUCED: log entry 82.) -/
def State.fetchTrap (s : State) (i : Fin 11) (l : Option Line) (x : Option Xlate) (t : TrapInfo) : State :=
  let s := match l with
    | some l => s.fetchedLine i l x
    | none => s
  if t.cause = noWalker then { s with cur := i }.blockOn .freeWalker []
  else if (s.at i).vectoring && t.cause != 1 && t.cause != 2 then s.haltCore .vector 6 ((s.at i).cause.bits 0 8) i else s.raise t

end Sys2Proof.Machine
end

