-- ==== Sys2Proof/Machine/Scalar.lean ====
section
/-!
DEFINITION. The integer instructions (R76 to R91).
-/

namespace Sys2Proof.Machine

open Sys2Proof

/-! ### What they compute -/

/-- The condition codes of `br`, `cmp` and `cmpi` (R79); a reserved code never decodes. -/
def condHolds (c : BitVec 4) (a b : Word) : Bool :=
  match c.toNat with
  | 0 => a == b
  | 1 => a != b
  | 2 => a.slt b
  | 3 => !a.slt b
  | 4 => a.ult b
  | 5 => !a.ult b
  | 6 => a &&& b == 0
  | _ => a &&& b != 0

/-- The high 64 bits of the signed product (R81). -/
def mulHigh (a b : Word) : Word := BitVec.ofInt 64 (a.toInt * b.toInt / 2 ^ 64)
/-- The high 64 bits of the unsigned product (R81). -/
def mulHighU (a b : Word) : Word := BitVec.ofNat 64 (a.toNat * b.toNat / 2 ^ 64)

/-- Quotients and remainders (R82): a zero divisor gives all ones and the dividend. -/
def quotS (a b : Word) : Word := if b = 0 then BitVec.allOnes 64 else BitVec.ofInt 64 (a.toInt.tdiv b.toInt)
def quotU (a b : Word) : Word := if b = 0 then BitVec.allOnes 64 else BitVec.ofNat 64 (a.toNat / b.toNat)
def remS (a b : Word) : Word := if b = 0 then a else BitVec.ofInt 64 (a.toInt.tmod b.toInt)
def remU (a b : Word) : Word := if b = 0 then a else BitVec.ofNat 64 (a.toNat % b.toNat)

/-- Shifts by the low six bits of an amount (R83). -/
def shiftL (a b : Word) : Word := a <<< (b.toNat % 64)
def shiftR (a b : Word) : Word := a >>> (b.toNat % 64)
def shiftRA (a b : Word) : Word := a.sshiftRight (b.toNat % 64)
def rotL (a b : Word) : Word := a.rotateLeft (b.toNat % 64)

/-- The position of the lowest one bit among the next `n` from `i`, or `i + n`. -/
def lowestOne (a : Word) : Nat → Nat → Nat
  | 0, i => i
  | n + 1, i => if a.getLsbD i then i else lowestOne a n (i + 1)

/-- Counts (R84). -/
def countLeading (a : Word) : Word := BitVec.ofNat 64 (64 - bitLen a.toNat)
def countTrailing (a : Word) : Word := BitVec.ofNat 64 (lowestOne a 64 0)
def onesOf (a : Word) : Nat := ((List.range 64).filter a.getLsbD).length
def countOnes (a : Word) : Word := BitVec.ofNat 64 (onesOf a)
def absolute (a : Word) : Word := if a.slt 0 then -a else a

/-- Minima and maxima (R85). -/
def minS (a b : Word) : Word := if b.slt a then b else a
def maxS (a b : Word) : Word := if a.slt b then b else a
def minU (a b : Word) : Word := if b.ult a then b else a
def maxU (a b : Word) : Word := if a.ult b then b else a

/-- SExt and ZExt of the low `n` bits (R6, R86). -/
def signExt (a : Word) (n : Nat) : Word := (BitVec.ofNat n a.toNat).signExtend 64
def zeroExt (a : Word) (n : Nat) : Word := BitVec.ofNat 64 (a.toNat % 2 ^ n)

/-- A deposited field (R87). -/
def deposit (d a : Word) (pos len : Nat) : Word :=
  let m : Word := BitVec.ofNat 64 ((2 ^ len - 1) * 2 ^ pos)
  (d &&& ~~~m) ||| ((a <<< pos) &&& m)

/-! ### Their forms -/

/-- A result of two scalar sources. -/
def scalar2 (op : Nat) (f : Word → Word → Word) (d a b : Field) (s : State) : Out :=
  s.issue op .free [.wG d, .rG 1 a, .rG 2 b] fun s => .done (s.writeG d (f (s.readG a) (s.readG b)))

/-- A result of one scalar source. -/
def scalar1 (op : Nat) (f : Word → Word) (d a : Field) (s : State) : Out :=
  s.issue op .free [.wG d, .rG 1 a] fun s => .done (s.writeG d (f (s.readG a)))

/-! ### The instructions -/

/-- `add` (R81). -/
def execAdd (d a b : Field) (s : State) : Out := scalar2 0x20 (· + ·) d a b s

/-- `sub` (R81). -/
def execSub (d a b : Field) (s : State) : Out := scalar2 0x20 (· - ·) d a b s

/-- `mul` (R81). -/
def execMul (d a b : Field) (s : State) : Out := scalar2 0x21 (· * ·) d a b s

/-- `mulh` (R81). -/
def execMulh (d a b : Field) (s : State) : Out := scalar2 0x21 mulHigh d a b s

/-- `mulhu` (R81). -/
def execMulhu (d a b : Field) (s : State) : Out := scalar2 0x21 mulHighU d a b s

/-- `div` (R82). -/
def execDiv (d a b : Field) (s : State) : Out := scalar2 0x22 quotS d a b s

/-- `divu` (R82). -/
def execDivu (d a b : Field) (s : State) : Out := scalar2 0x22 quotU d a b s

/-- `rem` (R82). -/
def execRem (d a b : Field) (s : State) : Out := scalar2 0x23 remS d a b s

/-- `remu` (R82). -/
def execRemu (d a b : Field) (s : State) : Out := scalar2 0x23 remU d a b s

/-- `and` (R83). -/
def execAnd (d a b : Field) (s : State) : Out := scalar2 0x24 (· &&& ·) d a b s

/-- `or` (R83). -/
def execOr (d a b : Field) (s : State) : Out := scalar2 0x24 (· ||| ·) d a b s

/-- `xor` (R83). -/
def execXor (d a b : Field) (s : State) : Out := scalar2 0x24 (· ^^^ ·) d a b s

/-- `andn` (R83). -/
def execAndn (d a b : Field) (s : State) : Out := scalar2 0x24 (fun a b => a &&& ~~~b) d a b s

/-- `orn` (R83). -/
def execOrn (d a b : Field) (s : State) : Out := scalar2 0x24 (fun a b => a ||| ~~~b) d a b s

/-- `shl` (R83). -/
def execShl (d a b : Field) (s : State) : Out := scalar2 0x25 shiftL d a b s

/-- `shr` (R83). -/
def execShr (d a b : Field) (s : State) : Out := scalar2 0x25 shiftR d a b s

/-- `sra` (R83). -/
def execSra (d a b : Field) (s : State) : Out := scalar2 0x25 shiftRA d a b s

/-- `rot` (R83). -/
def execRot (d a b : Field) (s : State) : Out := scalar2 0x25 rotL d a b s

/-- `clz` (R84). -/
def execClz (d a : Field) (s : State) : Out := scalar1 0x26 countLeading d a s

/-- `ctz` (R84). -/
def execCtz (d a : Field) (s : State) : Out := scalar1 0x26 countTrailing d a s

/-- `popc` (R84). -/
def execPopc (d a : Field) (s : State) : Out := scalar1 0x26 countOnes d a s

/-- `abs` (R84). -/
def execAbs (d a : Field) (s : State) : Out := scalar1 0x26 absolute d a s

/-- `min` (R85). -/
def execMin (d a b : Field) (s : State) : Out := scalar2 0x27 minS d a b s

/-- `max` (R85). -/
def execMax (d a b : Field) (s : State) : Out := scalar2 0x27 maxS d a b s

/-- `minu` (R85). -/
def execMinu (d a b : Field) (s : State) : Out := scalar2 0x27 minU d a b s

/-- `maxu` (R85). -/
def execMaxu (d a b : Field) (s : State) : Out := scalar2 0x27 maxU d a b s

/-- `sext` (R86). -/
def execSext (d a : Field) (n : BitVec 6) (s : State) : Out := scalar1 0x28 (fun x => signExt x (n.toNat + 1)) d a s

/-- `zext` (R86). -/
def execZext (d a : Field) (n : BitVec 6) (s : State) : Out := scalar1 0x29 (fun x => zeroExt x (n.toNat + 1)) d a s

/-- `bfx` (R87). -/
def execBfx (d a : Field) (pos len : BitVec 6) (s : State) : Out :=
  scalar1 0x2A (fun x => zeroExt (x >>> pos.toNat) (len.toNat + 1)) d a s

/-- `bfx.s` (R87). -/
def execBfxS (d a : Field) (pos len : BitVec 6) (s : State) : Out :=
  scalar1 0x2A (fun x => signExt (x >>> pos.toNat) (len.toNat + 1)) d a s

/-- `bfi` (R87): D is read, then written. -/
def execBfi (d a : Field) (pos len : BitVec 6) (s : State) : Out :=
  s.issue 0x2B .free [.rwG d, .rG 1 a] fun s =>
    .done (s.writeG d (deposit (s.readG d) (s.readG a) pos.toNat (len.toNat + 1)))

/-- `shadd` (R88). -/
def execShadd (d a b : Field) (n : BitVec 4) (s : State) : Out := scalar2 0x2C (fun x y => (x <<< n.toNat) + y) d a b s

/-- `mov` (R88). -/
def execMov (d a : Field) (s : State) : Out := scalar1 0x2D id d a s

/-- `sel` (R88): all three sources are read. -/
def execSel (d a b c : Field) (s : State) : Out :=
  s.issue 0x2E .free [.wG d, .rG 1 a, .rG 2 b, .rG 3 c] fun s =>
    .done (s.writeG d (if s.readG a = 0 then s.readG c else s.readG b))

/-- `cmp` (R89). -/
def execCmp (d a b : Field) (c : BitVec 4) (s : State) : Out := scalar2 0x2F (fun x y => Word.ofBool (condHolds c x y)) d a b s

/-- `addi` (R90). -/
def execAddi (d a : Field) (i : BitVec 10) (s : State) : Out := scalar1 0x30 (fun x => x + i.signExtend 64) d a s

/-- `andi` (R90). -/
def execAndi (d a : Field) (i : BitVec 10) (s : State) : Out := scalar1 0x31 (fun x => x &&& i.signExtend 64) d a s

/-- `ori` (R90). -/
def execOri (d a : Field) (i : BitVec 10) (s : State) : Out := scalar1 0x32 (fun x => x ||| i.signExtend 64) d a s

/-- `xori` (R90). -/
def execXori (d a : Field) (i : BitVec 10) (s : State) : Out := scalar1 0x33 (fun x => x ^^^ i.signExtend 64) d a s

/-- `shli` (R90). -/
def execShli (d a : Field) (i : BitVec 6) (s : State) : Out := scalar1 0x34 (fun x => shiftL x (i.zeroExtend 64)) d a s

/-- `shri` (R90). -/
def execShri (d a : Field) (i : BitVec 6) (s : State) : Out := scalar1 0x35 (fun x => shiftR x (i.zeroExtend 64)) d a s

/-- `srai` (R90). -/
def execSrai (d a : Field) (i : BitVec 6) (s : State) : Out := scalar1 0x36 (fun x => shiftRA x (i.zeroExtend 64)) d a s

/-- `roti` (R90). -/
def execRoti (d a : Field) (i : BitVec 6) (s : State) : Out := scalar1 0x37 (fun x => rotL x (i.zeroExtend 64)) d a s

/-- `cmpi` (R89). -/
def execCmpi (d a : Field) (c : BitVec 4) (i : BitVec 22) (s : State) : Out :=
  scalar1 0x38 (fun x => Word.ofBool (condHolds c x (i.signExtend 64))) d a s

/-- `ldi` of 26 bits (R91). -/
def execLdi26 (d : Field) (i : BitVec 26) (s : State) : Out :=
  s.issue 0x39 .free [.wG d] fun s => .done (s.writeG d (i.signExtend 64))

/-- `ldi` of 64 bits (R91). -/
def execLdi64 (d : Field) (i : BitVec 64) (s : State) : Out := s.issue 0x3A .free [.wG d] fun s => .done (s.writeG d i)

end Sys2Proof.Machine
end

