-- ==== Sys2Proof/Machine/Control.lean ====
section
/-!
DEFINITION. The control-flow instructions (R92 to R100).
-/

namespace Sys2Proof.Machine

open Sys2Proof

/-- The target of an offset in halfwords from the instruction's head (R34). -/
def State.target (s : State) (off : Word) : Word := s.ctx.pc + 2 * off

/-- In a gang whose other members come to another outcome or target, it dissolves (R64). (DEDUCED: log entry 12.) (DEDUCED: log entry 13.) -/
def State.diverge (s : State) : State :=
  if s.ctx.hasPeers s.core && !Config.peersAgree s.tick then s.dissolve s.cur else s

/-- A conditional branch: it transfers when taken. -/
def State.branch (s : State) (taken : Bool) (off : Word) : Effect :=
  if taken then s.diverge.transfer (s.target off) else .done s.diverge

/-- A transfer that writes the link, once its target is checked (R93). -/
def State.link (s : State) (d : Field) (t : Word) : Effect :=
  match s.checkTarget t with
  | some e => .trap e
  | none => .jump (s.writeG d s.ctx.next) t

/-- `br` (R94). -/
def execBr (d a : Field) (c : BitVec 4) (i : BitVec 22) (s : State) : Out :=
  s.issue 0x40 .free [.rG 0 d, .rG 1 a] fun s => s.branch (condHolds c (s.readG d) (s.readG a)) (i.signExtend 64)

/-- `bz` (R95). -/
def execBz (d : Field) (i : BitVec 26) (s : State) : Out :=
  s.issue 0x41 .free [.rG 0 d] fun s => s.branch (s.readG d == 0) (i.signExtend 64)

/-- `bnz` (R95). -/
def execBnz (d : Field) (i : BitVec 26) (s : State) : Out :=
  s.issue 0x42 .free [.rG 0 d] fun s => s.branch (s.readG d != 0) (i.signExtend 64)

/-- `j` (R96). -/
def execJ (i : BitVec 26) (s : State) : Out := s.issue 0x43 .free [] fun s => s.transfer (s.target (i.signExtend 64))

/-- `jal` (R96). -/
def execJal (d : Field) (i : BitVec 26) (s : State) : Out :=
  s.issue 0x44 .free [.wG d] fun s => s.link d (s.target (i.signExtend 64))

/-- `jr` (R97). -/
def execJr (a : Field) (s : State) : Out := s.issue 0x45 .free [.rG 1 a] fun s => s.diverge.transfer (s.readG a)

/-- `jalr` (R97): the target is read before the link is written. -/
def execJalr (d a : Field) (s : State) : Out := s.issue 0x46 .free [.wG d, .rG 1 a] fun s => s.diverge.link d (s.readG a)

/-- `jtab` (R98): a transfer of control, past which no read is performed early (R192); its own table read may be. (DEDUCED: log entry 13.) -/
def execJtab (d a b : Field) (s : State) : Out :=
  s.issue 0x47 .free [.rG 0 d, .rG 1 a, .rG 2 b] fun s =>
    if s.readG a ≤ s.readG d then .done (s.diverge.dropEarly s.cur)
    else
      s.diverge.loadBytes (addressFrom [b, d] []) 0x47 (alignDown (s.readG b) 4 + 4 * s.readG d) 4 fun _ laid => .table laid

/-- `loop` (R95). A destination channel that is written nothing, with the counter at 0, is still tested for room (R77).
(DESIGN CHOICE: log entry 92.) -/
def execLoop (d : Field) (i : BitVec 26) (s : State) : Out :=
  s.issue 0x48 .free [.rwG d] fun s =>
    let c := s.readG d
    if c = 0 then .done s.diverge
    else if c - 1 = 0 then .done (s.diverge.writeG d 0)
    else
      match s.checkTarget (s.target (i.signExtend 64)) with
      | some e => .trap e
      | none => .jump (s.diverge.writeG d (c - 1)) (s.target (i.signExtend 64))

/-- The other cores of the cluster that are members of a gang (R62). -/
def Gang.others (g : Gang) (core : Nat) : List Nat :=
  if g.clus then (List.range 16).filter fun c => g.mask.testBit c && c != core % 16
  else ((List.range 4).map fun c => core / 4 % 4 * 4 + c).filter fun c => g.mask.testBit (c % 4) && c != core % 16

/-- Every member's core of the context's gang halts by `halt` (R99). -/
def State.haltPeers (s : State) : State :=
  match s.ctx.gang with
  | none => s
  | some g => { s with dbg := (g.others s.core).foldl (fun d c => d.haltOther c .instr) s.dbg }

/-- `halt` (R99): the core stops behind it, and with it the cores of its gang. -/
def execHalt (s : State) : Out := s.issue 0x49 .stall [] fun s => .done (s.haltCore .instr 3 0 s.cur).haltPeers

/-- `brk` (R100). -/
def execBrk (code : BitVec 10) (s : State) : Out :=
  s.issue 0x4A .free [] fun _ => .trap ⟨10, 0, none, code.zeroExtend 64, none⟩

end Sys2Proof.Machine
end

