-- ==== Sys2Proof/Machine/Collective.lean ====
section
/-!
DEFINITION. The collective branch instructions and the events of their network (R297 to R317).
-/

namespace Sys2Proof.Machine

open Sys2Proof

/-- A broken group is formed anew (R303): its members of before have still to take their trap (R313). (DEDUCED: log entry 65.) -/
def Group.renew (g : Group) : Group :=
  { g with
    broken := none, last := g.broken, arrivals := [], early := [], result := none, seq := 0
    stale := g.members.map (·.val) ++ g.since.map fun x => imageKey x.1 }

/-- The issuing context takes a share of its group's entry, which is new unless it is known; the arrivals that came before a new
entry are counted (R300). -/
def State.takeShare (s : State) (known : Bool) : State :=
  let c := s.ctx
  if known then
    s.setGroup c.gid c.gscope fun g =>
      let g := if g.broken.isSome then g.renew else g
      { g with members := g.members ++ [s.cur] }
  else
    let l := s.strays.filter fun a => a.gid == c.gid && a.scope == c.gscope
    let s : State := { s.dropStrays c.gid c.gscope with
      groups := s.groups ++ [⟨c.gid, c.gscope, [s.cur], 0, [], none, none, [], 0, [], none, []⟩] }
    l.foldl (fun s a => s.arrive c.gid c.gscope a.seq a.count a.vote) s

/-- `cjoin` (R303). (DEDUCED: log entry 65.) -/
def execCjoin (d a b : Field) (s0 : BitVec 4) (s : State) : Out :=
  s.issue 0x96 .stall [.wG d, .rG 1 a, .rG 2 b] fun s =>
    let gid := BitVec.ofNat 12 ((s.readG a).bits 0 12)
    let n := (s.readG b).toNat
    let known := (s.group gid s0).isSome
    if s.ctx.inGroup || n = 0 || 2 ^ 33 ≤ n || (!known && Config.groupEntries ≤ s.groups.length) then .done (s.writeG d 0)
    else
      let word := BitVec.ofNat 64 (2 ^ 63 + gid.toNat * 2 ^ 44 + s0.toNat * 2 ^ 40 + n)
      .done (((s.put { s.ctx with cgrp := word, cseq := 0 }).takeShare known).writeG d 1)

/-- The trap of a broken group, at the instruction that finds it (R305, R306, R313). -/
def State.brokenTrap (s : State) : Effect :=
  let finfo := (((s.group s.ctx.gid s.ctx.gscope).bind (·.trapOf s.cur.val)).map (·.2)).getD 0
  .is (s.groupTrap s.cur (if s.ctx.brk = 1 then 20 else 21) finfo)

/-- The issuing context's arrival, once it is blocked for the result. -/
def State.arriveAndWait (s : State) (srcs : List Nat) (w : Wait) (v : Vote) : Effect :=
  .is ((s.blockOn w srcs).sendArrival s.cur v)

/-- The result that a restored member finds waiting is taken (R314). (DEDUCED: log entry 65.) -/
def State.takeWaiting (s : State) (gone : Nat) : State := s.put (s.ctx.took gone)

/-- `cleave` (R304). -/
def execCleave (d : Field) (s : State) : Out :=
  s.issue 0x97 .stall [.wG d] fun s =>
    if !s.ctx.inGroup then .done (s.writeG d 0)
    else if s.ctx.brk != 0 then .done ((s.leaveGroup s.cur).writeG d 1)
    else if s.ctx.voted then
      match s.waitingResult s.cur with
      | some _ => .done ((s.leaveGroup s.cur).writeG d 1)
      | none => .wait s (.cleave d)
    else s.arriveAndWait [] (.cleave d) .leave

/-! ### `cbr` (R305, R308, R310) -/

/-- The checkpoint that a `cbr` opens. -/
def Ctx.checkpoint (c : Ctx) (target : Word) (hint all vote sent : Bool) : Checkpoint where
  g := c.g
  v := c.v
  f := c.f
  k := c.k
  frm := c.frm
  srcount := c.srcount
  vstart := c.vstart
  pc := c.pc
  target := target
  next := c.next
  hint := hint
  all := all
  vote := vote
  sent := sent
  older := c.hold.length
  issued := 0

/-- The context goes on along the predicted path; the window opens, and the vote is sent unless an older `cbr` is
unresolved. -/
def State.speculate (s : State) (srcs : List Nat) (t : Word) (hint all p : Bool) : State :=
  let first := s.ctx.spec.isEmpty
  let k := s.ctx.checkpoint t hint all p first
  let s := s.consume srcs
  let s := if hint then (s.trace s.cur 1 t).put (s.ctx.goto t false) else s.put s.ctx.advance
  let s := s.put { s.ctx with spec := s.ctx.spec ++ [k] }
  if first then s.sendArrival s.cur (if all then .all p else .any p) else s

/-- A `cbr`. -/
def cbr (all : Bool) (d : Field) (hint : Bool) (i : BitVec 26) (s : State) : Out :=
  s.issue 0x98 .free [.rG 0 d] fun s => s.ordered fun s =>
    let p := s.readG d != 0
    let t := s.target (i.signExtend 64)
    match s.checkTarget t with
    | some e => .trap e
    | none =>
      if !s.ctx.inGroup then (if p then .jump s t else .done s)
      else if s.ctx.brk != 0 then s.brokenTrap
      else if s.ctx.spec.isEmpty && s.ctx.voted then
        match s.waitingResult s.cur with
        | some (r, gone) =>
          let yes := r.getD 0 != 0
          let u := (s.traceVote s.cur yes false).takeWaiting gone
          if yes then .jump u t else .done u
        | none => .wait s (.cbrAgain all t)
      else if 2 ≤ s.ctx.spec.length then .wait s .thirdCbr
      else .is (s.speculate (sources [.rG 0 d]) t hint all p)

/-- `cbr.any`. -/
def execCbrAny (d : Field) (hint : Bool) (i : BitVec 26) (s : State) : Out := cbr false d hint i s
/-- `cbr.all`. -/
def execCbrAll (d : Field) (hint : Bool) (i : BitVec 26) (s : State) : Out := cbr true d hint i s

/-! ### `cred` and `cstat` (R306, R307) -/

/-- A `cred`. -/
def cred (op : RedOp) (d a : Field) (s : State) : Out :=
  s.issue 0x99 .stall [.wG d, .rG 1 a] fun s => s.ordered fun s =>
    if !s.ctx.inGroup then .done (s.writeG d (s.readG a))
    else if s.ctx.brk != 0 then s.brokenTrap
    else if s.ctx.voted then
      match s.waitingResult s.cur with
      | some (r, gone) => .done ((s.takeWaiting gone).writeG d (r.getD 0))
      | none => .wait s (.cred d)
    else s.arriveAndWait (sources [.rG 1 a]) (.cred d) (.cred op (s.readG a))

/-- `cred.add`. -/
def execCredAdd (d a : Field) (s : State) : Out := cred .add d a s
/-- `cred.min`. -/
def execCredMin (d a : Field) (s : State) : Out := cred .min d a s
/-- `cred.max`. -/
def execCredMax (d a : Field) (s : State) : Out := cred .max d a s
/-- `cred.minu`. -/
def execCredMinu (d a : Field) (s : State) : Out := cred .minu d a s
/-- `cred.maxu`. -/
def execCredMaxu (d a : Field) (s : State) : Out := cred .maxu d a s

/-- `cstat.grp`. -/
def execCstatGrp (d : Field) (s : State) : Out := s.issue 0x9A .free [.wG d] fun s => .done (s.writeG d s.ctx.cgrp)
/-- `cstat.seq`. -/
def execCstatSeq (d : Field) (s : State) : Out := s.issue 0x9A .free [.wG d] fun s => .done (s.writeG d s.ctx.cseq)

/-- The speculation status word. -/
def Ctx.specWord (c : Ctx) : Word :=
  BitVec.ofNat 64 (c.squash.toNat * 2 ^ 32 + c.voted.toNat * 2 ^ 22 + c.spec.length * 2 ^ 20 +
    ((c.spec.head?.map (·.issued)).getD 0) * 2 ^ 8 + heldCount c.hold)

/-- `cstat.spec`. -/
def execCstatSpec (d : Field) (s : State) : Out := s.issue 0x9A .free [.wG d] fun s => .done (s.writeG d s.ctx.specWord)

/-! ### The network -/

/-- An arrival of another core's member (R300). (DEDUCED: log entry 65.) -/
def execCollectiveArrival (gid : BitVec 12) (scope : BitVec 4) (seq : BitVec 16) (count : BitVec 33) (vote : Vote) (s : State) :
    Out :=
  .next (s.arrive gid scope seq count vote)

/-- The result of a complete episode reaches the members (R301). -/
def execCollectiveResult (gid : BitVec 12) (scope : BitVec 4) (s : State) : Out := .next (s.groupResult gid scope)


/-- A group times out (R313): a member of this core has waited too long, or one of another core has. -/
def execCbtimeo (gid : BitVec 12) (scope : BitVec 4) (s : State) : Out :=
  match s.group gid scope with
  | none => .next (s.dropStrays gid scope)
  | some g =>
    let t : State := if s.timedOut g then { s with sent := s.sent ++ [.timeout gid scope] } else s
    .next (t.breakHere gid scope 1 20 (groupInfo 0 g.seq 0))

/-- The network's notice that a group is broken (R313). (DEDUCED: log entry 32.) -/
def execCbbroken (gid : BitVec 12) (scope : BitVec 4) (reason : BitVec 4) (info : BitVec 29) (s : State) : Out :=
  match s.group gid scope with
  | none => .next (s.dropStrays gid scope)
  | some g =>
    .next (s.breakHere gid scope 2 21 (groupInfo reason.toNat g.seq info.toNat))

end Sys2Proof.Machine
end

