-- ==== Sys2Proof/Machine/DebugPort.lean ====
section
/-!
DEFINITION. The management port (R390), the debug modules (R391 to R393), PATCH (R395), trace (R396, R397), unlocking and
attestation (R399 to R402), power (R398, R403, R405) and the lifetime counters (R406, R407).
-/

namespace Sys2Proof.Machine

open Sys2Proof

/-! ### The port -/


/-- A command that any debug state accepts; it wakes a sleeping package (R398). -/
def State.atPort (s : State) (f : State → State) : Out := .next (f s.woken)

/-- A command that needs the owner-unlocked or the vendor-unlocked state. -/
def State.unlocked (s : State) (f : State → State) : Out :=
  s.atPort fun s => if s.guard.debug = 0 then s.portAnswer 1 [] else f s

/-- The cluster of the followed core. -/
def State.ownCluster (s : State) (c : BitVec 7) : Bool := c.toNat == s.core / 16

/-- A cluster without power has nothing to debug (R401). -/
def State.unpowered (s : State) (c : BitVec 7) : Bool := s.guard.offClusters.contains c

/-! ### Debug modules (R391 to R393) -/

/-- DCTL as it reads: its actions read as zero. -/
def Debug.dctl (d : Debug) : Word :=
  BitVec.ofNat 64 (d.sctx * 2 ^ 16 + d.score * 2 ^ 12 + d.xout.toNat * 2 ^ 8 + d.xin.toNat * 2 ^ 7 + d.brkh.toNat * 2 ^ 6)

/-- DSTAT. -/
def State.dstat (s : State) : Word :=
  let d := s.dbg
  let all := (d.others.map (·.1)).foldl setIn (if d.halted.isSome then [s.core % 16] else [])
  BitVec.ofNat 64 (all.foldl (fun v c => v + 2 ^ (48 + c)) 0 + d.core * 2 ^ 44 + d.ctx * 2 ^ 40 + d.vcause * 2 ^ 32 +
    d.reason * 2 ^ 28)

/-- DBGRD. (DESIGN CHOICE: log entry 44.) -/
def execDbgrd (cluster : BitVec 7) (reg : DbgReg) (s : State) : Out :=
  s.unlocked fun s =>
    if s.unpowered cluster then s.portAnswer 1 [] else
    let w := if !s.ownCluster cluster then Config.debugWord (cluster.toNat * 2 + (if reg = .dstat then 1 else 0)) s.tick
      else match reg with
        | .dctl => s.dbg.dctl
        | .dstat => s.dstat
    s.portAnswer 0 (bytesOf w.toNat 8)

/-- The package cross-trigger reaches this cluster (R392). (DEDUCED: log entry 43.) -/
def State.crossed (s : State) : State := if s.dbg.xin && Config.crossTrigger s.tick then s.haltCluster 4 0 0 else s

/-- What HALT of a cluster does. (DEDUCED: log entry 43.) (DESIGN CHOICE: log entry 44.) -/
def State.haltNow (s : State) (cluster : BitVec 7) : State :=
  if s.ownCluster cluster then s.haltCluster 1 0 0 else s.crossed

/-- A pre-emption that the management core held goes on (R392). -/
def State.preemptNow (s : State) : State :=
  if s.launch.preemptHeld then
    ({ s with launch := { s.launch with preemptHeld := false } } : State).modifyAt 0 fun c => { c with status := putBit c.status 11 true }
  else s

/-- What RESUME releases (R393): every halted core; or, locked, the cores that are halted by `halt` alone. -/
def State.resumed (s : State) : State :=
  if s.guard.debug != 0 then
    State.preemptNow { s with dbg := { s.dbg with halted := none, others := [], clusterHalted := false, step := none, otherStep := none } }
  else if s.dbg.clusterHalted then s
  else
    let own := s.dbg.halted == some .instr
    { s with dbg := { s.dbg with
        halted := if own then none else s.dbg.halted
        others := s.dbg.others.filter fun c => c.2 != .instr
        step := if own then none else s.dbg.step } }

/-- What RESUME of a cluster does. -/
def State.resumeNow (s : State) (cluster : BitVec 7) : State := if s.ownCluster cluster then s.resumed else s

/-- What STEP of a cluster does: core SCORE issues one instruction of context SCTX when it is next ready; with 11 to 15 in SCTX it issues
none. (DESIGN CHOICE: log entry 109.) -/
def State.stepNow (s : State) (cluster : BitVec 7) : State :=
  if !s.ownCluster cluster then s
  else if s.dbg.score == s.core % 16 then { s with dbg := { s.dbg with step := ctxOf s.dbg.sctx } }
  else { s with dbg := { s.dbg with otherStep := some (s.dbg.score, s.dbg.sctx) } }

/-- The fields of DCTL that a write sets. -/
def State.setDctl (s : State) (cluster : BitVec 7) (v : Word) : State :=
  if s.ownCluster cluster then
    { s with dbg := { s.dbg with sctx := v.bits 16 4, score := v.bits 12 4, xout := v.bit 8, xin := v.bit 7, brkh := v.bit 6 } }
  else s

/-- DBGWR: DCTL's fields and then its actions, HALT, RESUME and STEP; DSTAT ignores writes. In the locked state a write that
carries RESUME resumes, and does nothing else. (DESIGN CHOICE: log entry 96.) -/
def execDbgwr (cluster : BitVec 7) (reg : DbgReg) (v : Word) (s : State) : Out :=
  s.atPort fun s =>
    if s.unpowered cluster then s.portAnswer (if reg == .dctl && v.bit 1 then 0 else 1) []
    else if s.guard.debug = 0 then
      (if reg == .dctl && v.bit 1 then (s.resumeNow cluster).portAnswer 0 [] else s.portAnswer 1 [])
    else if reg != .dctl then s.portAnswer 0 []
    else
      let s := s.setDctl cluster v
      let s := if v.bit 0 then s.haltNow cluster else s
      let s := if v.bit 1 then s.resumeNow cluster else s
      let s := if v.bit 2 then s.stepNow cluster else s
      s.portAnswer 0 []

/-- A command about a cluster with power. -/
def State.onCluster (s : State) (cluster : BitVec 7) (f : State → State) : State :=
  if s.unpowered cluster then s.portAnswer 1 [] else (f s).portAnswer 0 []

/-- DCTL.HALT. (DEDUCED: log entry 43.) (DESIGN CHOICE: log entry 44.) -/
def execDctlHalt (cluster : BitVec 7) (s : State) : Out := s.unlocked fun s => s.onCluster cluster (·.haltNow cluster)

/-- DCTL.RESUME: in any state, and never refused; a cluster without power has no halted core. -/
def execDctlResume (cluster : BitVec 7) (s : State) : Out :=
  s.atPort fun s => (if s.unpowered cluster then s else s.resumeNow cluster).portAnswer 0 []

/-- DCTL.STEP. -/
def execDctlStep (cluster : BitVec 7) (s : State) : Out := s.unlocked fun s => s.onCluster cluster (·.stepNow cluster)

/-! ### Contexts and memory (R390) -/

/-- A context that the halt of its core has stopped (R392): it is live and its own block, if it had one, has ended. (DEDUCED: log entry 41.) -/
def State.takesHalt (s : State) (i : Fin 11) : Bool :=
  (s.at i).live && match (s.at i).block with
    | none => true
    | some b => s.waitOver i b.wait

/-- A halted context of the core, whose cluster has power (R401). (DEDUCED: log entry 41.) -/
def State.haltedCtx (s : State) (ctx : BitVec 4) : Option (Fin 11) :=
  match ctxOf ctx.toNat with
  | some i => if !s.ownOff && s.dbg.halted.isSome && s.takesHalt i then some i else none
  | none => none

/-- A context of another core is refused: its cluster is off, or the core is not halted, as this machine knows of its own
cluster, or what stands elsewhere refuses it. -/
def State.refusedCtx (s : State) (core : BitVec 11) (ctx : BitVec 4) : Bool :=
  s.unpowered (BitVec.ofNat 7 (core.toNat / 16)) || (ctxOf ctx.toNat).isNone ||
    (core.toNat / 16 == s.core / 16 && !(s.dbg.others.any (·.1 == core.toNat % 16))) || Config.portRefuses s.tick

/-- CTXRD: 8 bytes of the image. (DEDUCED: log entry 41.) (DESIGN CHOICE: log entry 44.) -/
def execCtxrd (core : BitVec 11) (ctx : BitVec 4) (off : BitVec 12) (s : State) : Out :=
  s.unlocked fun s =>
    if off.toNat % 8 != 0 then s.portAnswer 1 []
    else if core.toNat != s.core then
      if s.refusedCtx core ctx then s.portAnswer 1 [] else
      s.portAnswer 0 (bytesOf (Config.debugWord (2 ^ 30 + core.toNat * 2 ^ 16 + ctx.toNat * 2 ^ 12 + off.toNat) s.tick).toNat 8)
    else
      match s.haltedCtx ctx with
      | none => s.portAnswer 1 []
      | some i => s.portAnswer 0 (bytesOf ((s.at i).recorded.imageWord i (off.toNat / 8)).toNat 8)

/-- A doubleword of a context's image is replaced. The allotment stays; a context whose PC is written fetches there. (DESIGN CHOICE: log entry 42.) -/
def Ctx.patched (c : Ctx) (i : Fin 11) (k : Nat) (v : Word) : Ctx :=
  let old := c
  let w (n : Nat) : Word := if n = k then v else c.imageWord i n
  let c := c.load w c.sn c.vn
  let c := { c with pending := if 0x3A ≤ k ∧ k ≤ 0x3C then c.pending else old.pending }
  if k = 0x3F then { c with line := none, block := none } else c

/-- CTXWR. (DEDUCED: log entry 41.) -/
def execCtxwr (core : BitVec 11) (ctx : BitVec 4) (off : BitVec 12) (v : Word) (s : State) : Out :=
  s.unlocked fun s =>
    if off.toNat % 8 != 0 then s.portAnswer 1 []
    else if core.toNat != s.core then s.portAnswer (if s.refusedCtx core ctx then 1 else 0) []
    else
      match s.haltedCtx ctx with
      | none => s.portAnswer 1 []
      | some i => (s.modifyAt i fun c => c.patched i (off.toNat / 8) v).portAnswer 0 []

/-- The lengths that MEMRD and MEMWR take. -/
def portLength (n : Nat) : Bool := 8 ≤ n && n ≤ 256

/-- MEMRD: 8 to 256 bytes. -/
def execMemrd (ga : Word) (len : Nat) (s : State) : Out :=
  s.unlocked fun s =>
    if !portLength len then s.portAnswer 1 [] else
    s.hostTake ⟨0, ga.toNat, .portRead len, 0⟩

/-- MEMWR: 8 to 256 bytes. -/
def execMemwr (ga : Word) (data : List Byte) (s : State) : Out :=
  s.unlocked fun s =>
    if !portLength data.length then s.portAnswer 1 [] else
    s.hostTake ⟨0, ga.toNat, .portWrite data, 0⟩

/-! ### PATCH (R395) -/

/-- The table root of core 0 of a cluster. -/
def State.clusterRoot (s : State) (cluster : BitVec 7) : Word :=
  if s.core = cluster.toNat * 16 then s.regs.ptb else Config.rootOf cluster.toNat s.tick

/-- The line's address and leaf, if the walk gives an executable page in home or CXL space. -/
def State.patchPlace (s : State) (cluster : BitVec 7) (va : Word) : Option (Nat × Nat) :=
  if !canonical va then none
  else
    match walk s.tableRead va.toNat walkLevels 0 ((s.clusterRoot cluster).toNat / 2 ^ 12 * 2 ^ 12) with
    | .error _ => none
    | .ok (e, level) =>
      let ga := leafFrame e + va.toNat % pageSize level
      if e.testBit 4 && gaSpace ga < 2 && s.jobPackage (gaPkg ga) then some (e, ga / 64 * 64) else none

/-- PATCH. (DEDUCED: log entry 40.) -/
def execPatch (cluster : BitVec 7) (va : Word) (line : List Byte) (scope : BitVec 4) (s : State) : Out :=
  s.unlocked fun s =>
    if s.unpowered cluster then s.portAnswer 1 [] else
    match s.patchPlace cluster va with
    | none => s.portAnswer 1 []
    | some (e, ga) => if e.testBit 6 then s.portAnswer 2 []
      else s.hostTake ⟨0, ga, .portPatch cluster va line scope.toNat, 0⟩

/-! ### Trace (R396, R397) -/

/-- A trace buffer that R396 allows. -/
def bufferOk (buf : Word) (log2 : Nat) : Bool :=
  12 ≤ log2 && log2 ≤ 30 && buf.toNat % 2 ^ log2 == 0 && gaSpace buf.toNat < 2

/-- The context of an incarnation, if it is one of this core's and live. -/
def State.incarnation (s : State) (ctx : BitVec 4) (gen : BitVec 8) : Option (Fin 11) :=
  match ctxOf ctx.toNat with
  | some i => if (s.at i).live && (s.at i).gen == gen then some i else none
  | none => none

/-- The cluster of the package that a logical core is in, if the core is one of the package's. -/
def State.traceCluster (s : State) (lcore : BitVec 29) : Option Nat :=
  let a := s.sliceOf lcore.toNat
  if gaPkg a == s.pkg then some (gaCore a / 16) else none

/-- A session on a context of this core, which is live with that GEN, or of another of the package, of which only its own core
knows. -/
def State.traceable (s : State) (lcore : BitVec 29) (ctx : BitVec 4) (gen : BitVec 8) : Bool :=
  if lcore == s.lcore then !s.ownOff && (s.incarnation ctx gen).isSome
  else match s.traceCluster lcore with
    | none => false
    | some c => (ctxOf ctx.toNat).isSome && !s.unpowered (BitVec.ofNat 7 c) && !Config.portRefuses s.tick

/-- A session opens: at most 16 in the cluster. Those of another cluster are its own debug module's. -/
def State.openTrace (s : State) (lcore : BitVec 29) (ctx : BitVec 4) (gen : BitVec 8) (buf : Word) (log2 : Nat) (mask : BitVec 16)
    (period : BitVec 20) : State :=
  if !s.traceable lcore ctx gen || !bufferOk buf log2 then s.portAnswer 1 []
  else if s.traceCluster lcore != some (s.core / 16) then s.portAnswer 0 []
  else if 16 ≤ s.dbg.sessions.length then s.portAnswer 1 []
  else
    let x : Session := ⟨lcore, ctx, gen, buf.toNat, log2, mask, period.toNat, 0, [], s.units.coreCycles⟩
    ({ s with dbg := { s.dbg with sessions := s.dbg.sessions ++ [x] } } : State).portAnswer 0 []

/-- A session closes with END. (DEDUCED: log entry 76.) -/
def State.closeTrace (s : State) (lcore : BitVec 29) (ctx : BitVec 4) (gen : BitVec 8) : State :=
  if lcore != s.lcore then
    let mine (x : Session) : Bool := x.lcore == lcore && x.ctx == ctx && x.gen == gen
    if s.traceCluster lcore != some (s.core / 16) then
      s.portAnswer (if (s.traceCluster lcore).isNone || Config.portRefuses s.tick then 1 else 0) []
    else if s.dbg.sessions.any mine then
      ({ s with dbg := { s.dbg with sessions := s.dbg.sessions.filter fun x => !mine x } } : State).portAnswer 0 []
    else s.portAnswer 1 []
  else
    match s.incarnation ctx gen with
    | none => s.portAnswer 1 []
    | some i => if s.dbg.sessions.any fun x => x.of s.lcore i gen then (s.endTrace i 13).portAnswer 0 [] else s.portAnswer 1 []

/-- TRACE. -/
def execTrace (t : TraceCmd) (s : State) : Out :=
  s.unlocked fun s => match t with
    | .openSession lcore ctx gen buf log2 mask period => s.openTrace lcore ctx gen buf log2 mask period
    | .closeSession lcore ctx gen => s.closeTrace lcore ctx gen

/-- A session after its context's turn to be sampled: a record with the PC, if its period is over. -/
def State.sampled (s : State) (i : Fin 11) (x : Session) : Session :=
  if x.of s.lcore i (s.at i).gen && x.period != 0 && x.period ≤ s.units.coreCycles - x.last then
    let more := if x.mask.getLsbD 4 then [s.record i 4 (s.at i).pc] else []
    { x with last := s.units.coreCycles, staged := x.staged ++ more }
  else x

/-- A sample period of the sessions of a context expires. -/
def execTraceSample (ctx : Nat) (s : State) : Out :=
  match ctxOf ctx with
  | none => .next s
  | some i => .next { s with dbg := { s.dbg with sessions := s.dbg.sessions.map (s.sampled i) } }

/-! ### Unlocking and attestation (R399 to R402) -/

/-- The bytes of a 256-bit number, lowest first. -/
def bytes32 (x : BitVec 256) : List Byte := bytesOf x.toNat 32

/-- CHAL. -/
def execChal (s : State) : Out :=
  s.atPort fun s =>
    let n := bytes32 (Config.nonce s.guard.challenges)
    ({ s with guard := { s.guard with nonce := some n, challenges := s.guard.challenges + 1 } } : State).portAnswer 0 n

/-- A token that names a state, the device and the latest nonce, and whose signature holds under the key of the state. (DEDUCED: log entry 47.) -/
def State.tokenOk (s : State) (token : List Byte) (key : List Byte) : Bool :=
  let part (a n : Nat) : List Byte := (token.drop a).take n
  token.length == 29864 && part 0 4 == [0x55, 0x4E, 0x4C, 0x4B] && part 5 3 == [0, 0, 0] &&
    part 8 32 == bytes32 Config.identityDigest && s.guard.nonce == some (part 40 32) &&
    Config.verifies key (part 0 72) (token.drop 72)

/-- A vendor unlock clears every home slice and scratchpad of the package first. (DEDUCED: log entry 47.) -/
def State.cleared (s : State) : State :=
  { s with
    mem := { s.mem with
      cells := s.mem.cells.filter fun c => !s.ownHome c.1
      poison := s.mem.poison.filter fun w => !s.ownHome (8 * w) }
    spad := { s.spad with cells := [], poison := [] } }

/-- The state that a token asks for, if it is granted. -/
def State.tokenGrants (s : State) (token : List Byte) : Option Nat :=
  match (token.drop 4).map (·.toNat) with
  | 1 :: _ => if s.guard.security = 0 && s.guard.ownerKey.length = 64 && s.tokenOk token s.guard.ownerKey then some 1 else none
  | 2 :: _ =>
    if (s.launch.state = 0 || 5 ≤ s.launch.state) && s.tokenOk token Config.debugKey then some 2 else none
  | _ => none

/-- UNLOCK: a nonce serves one. (DEDUCED: log entry 47.) -/
def execUnlock (token : List Byte) (s : State) : Out :=
  s.atPort fun s =>
    let used (s : State) : State := { s with guard := { s.guard with nonce := none } }
    match s.tokenGrants token with
    | none => (used s).portAnswer 1 []
    | some d =>
      let t := if d = 2 then s.cleared else s
      ({ used t with guard := { (used t).guard with debug := d } } : State).portAnswer 0 []

/-- RELOCK. -/
def execRelock (s : State) : Out :=
  s.atPort fun s => ({ s with guard := { s.guard with debug := 0 } } : State).portAnswer 0 []

/-- Bytes 0 to 183 of a report. -/
def State.report (s : State) (nonce : List Byte) : List Byte :=
  let images := s.guard.bootImages
  bytesOf 1 4 ++ nonce ++ [BitVec.ofNat 8 s.guard.security, BitVec.ofNat 8 s.guard.debug, BitVec.ofNat 8 s.powerState, 0] ++
    ((List.range 3).flatMap fun i => bytes32 (Config.firmwareDigest images i)) ++
    ((List.range 3).flatMap fun i => bytesOf (Config.securityVersion images i).toNat 2) ++ [0, 0] ++
    (if s.launch.record = 0 then List.replicate 32 0
     else bytes32 (Config.shake256 (bytesOf (s.mem.read (s.moved s.launch.record.toNat) 128) 128))) ++
    bytesOf s.units.pcyc.toNat 8

/-- ATTEST. -/
def execAttest (nonce : List Byte) (s : State) : Out :=
  s.atPort fun s =>
    if nonce.length != 32 then s.portAnswer 1 []
    else s.portAnswer 0 (s.report nonce ++ (List.range Config.signatureBytes).map (Config.signature (s.report nonce)))

/-- A firmware image is written to the boot flash, in the recovery state (R399). -/
def execBootFlashImageWrite (image : BitVec 2) (data : List Byte) (s : State) : Out :=
  s.atPort fun s =>
    if s.guard.security = 0 then s.portAnswer 1 []
    else
      ({ s with guard := { s.guard with
        bootImages := s.guard.bootImages.filter (fun p => p.1 != image) ++ [(image, data)] } } : State).portAnswer 0 []

/-- An ownership record sets the owner key (R400). -/
def execOwnershipRecord (record : List Byte) (s : State) : Out :=
  if Config.recordSigned record then
    .next { s with guard := { s.guard with ownerKey := bytesOf (Config.recordKey record).toNat 64 } }
  else .next s

/-! ### Power (R398, R403, R405) -/

/-- PWRLIM: 1,000 to 3,000 W. -/
def execPwrlim (watts : Nat) (s : State) : Out :=
  s.atPort fun s =>
    if 1000 ≤ watts && watts ≤ 3000 then ({ s with guard := { s.guard with pwrlim := watts } } : State).portAnswer 0 []
    else s.portAnswer 1 []

/-- The place of the forecasts of the cluster's other cores among the free counts. -/
def forecastPlace : Nat := 1000

/-- The manager reads the forecasts of the cluster and reserves its headroom; a forecast of zero gets none. In recovery the
management core does not run its firmware (R399). (DEDUCED: log entry 75.) -/
def execPowerManagerTick (s : State) : Out :=
  if s.guard.security != 0 then .next s else
  let f := s.regs.forecast
  let sum := f.bits 16 8 + f.bits 0 16 + (Config.elsewhere s.tick forecastPlace).toNat
  .next { s with guard := { s.guard with headroom := if sum = 0 then 0 else Config.headroomOf sum } }

/-- The measured power exceeds PWRLIM: every Bellows allowance is capped, and one intervention counted. -/
def execPowerCap (s : State) : Out :=
  if s.guard.capped then .next s
  else .next { s with guard := { s.guard with capped := true, interventions := saturate s.guard.interventions } }

/-- The cap is lifted. -/
def execPowerCapLift (s : State) : Out := .next { s with guard := { s.guard with capped := false } }

/-- A mesh router power-gates; the model gives its messages no time. -/
def execRouterPowerGate (router : BitVec 7) (s : State) : Out :=
  .next { s with guard := { s.guard with gatedRouters := s.guard.gatedRouters.filter (· != router) ++ [router] } }

/-- A gated router wakes. -/
def execRouterWake (router : BitVec 7) (s : State) : Out :=
  .next { s with guard := { s.guard with gatedRouters := s.guard.gatedRouters.filter (· != router) } }

/-- No job runs: the launch state is 0 or 5 (R398). -/
def State.jobless (s : State) : Bool := s.launch.state == 0 || s.launch.state == 5

/-- What becomes of this core's cluster without power: all of it stops, and it comes back with its reset values (R382 step 5, R398). -/
def State.withoutPower (s : State) : State := (s.unqueueAll.dropOwn).clusterValues

/-- A cluster enters PS2: without a job, or when it has failed: the management core gives up a cluster that was reset.
(DESIGN CHOICE: log entry 95.) -/
def execClusterPowerOff (cluster : BitVec 7) (s : State) : Out :=
  let off (g : Guard) : Guard := { g with offClusters := g.offClusters.filter (· != cluster) ++ [cluster] }
  let t := if s.ownCluster cluster then s.withoutPower else s
  if s.jobless then .next { t with guard := off t.guard }
  else if s.guard.closedClusters.contains cluster && Config.clusterFails s.tick then
    .next { t with guard := { off t.guard with failedClusters := s.guard.failedClusters.filter (· != cluster) ++ [cluster] } }
  else .next s

/-- A cluster leaves PS2 with its reset values. -/
def execClusterPowerOn (cluster : BitVec 7) (s : State) : Out :=
  if s.guard.asleep || s.guard.security != 0 || !s.guard.offClusters.contains cluster then .next s
  else
    let t : State := { s with guard := { s.guard with
      offClusters := s.guard.offClusters.filter (· != cluster), failedClusters := s.guard.failedClusters.filter (· != cluster) } }
    .next (if t.ownCluster cluster then t.withoutPower else t)

/-- The package sleeps: every cluster off, the links in standby, debug locked. -/
def execPackageSleep (s : State) : Out :=
  if s.jobless then
    .next { s.withoutPower with
      guard := { s.guard with asleep := true, debug := 0, offClusters := everyCluster }
      links := { s.links with standby := true } }
  else .next s

/-- A transaction wakes the package to PS2. -/
def execPackageWake (s : State) : Out := .next s.woken

/-! ### Lifetime counters (R406, R407) -/

/-- The lifetime block. -/
def execLife (s : State) : Out := s.atPort fun s => s.portAnswer 0 (wordBytes s.guard.lifetime)

/-- A doubleword of the block. (DEDUCED: log entry 36.) (DESIGN CHOICE: log entry 48.) -/
def State.lifeWord (s : State) (k : Nat) : Word := (s.guard.lifetime[k]?).getD 0

/-- A 4-byte counter of the block gains one and stops at its largest value. -/
def bumpBin (w : Word) (half : Nat) : Word :=
  let v := w.bits (32 * half) 32
  if v = 2 ^ 32 - 1 then w else w.setBits (32 * half) 32 (v + 1)

/-- The hours are written: the powered hours, and the hour's bin. -/
def execLifetimeHoursWrite (s : State) : Out :=
  let h := saturate s.guard.hours
  let b := Config.hourBin s.tick % 32
  .next { s with guard := { s.guard with
    hours := h
    lifetime := (s.guard.lifetime.set 1 h).set (2 + b / 2) (bumpBin (s.lifeWord (2 + b / 2)) (b % 2)) } }

/-- The doublewords of the other counters, from 0x090: the dies' errors, the retrains, and the last four. The filler steps are those
of every matrix unit of the package. -/
def State.counterWord (s : State) (k : Nat) : Word :=
  if 18 ≤ k ∧ k < 34 then
    (if (k - 18) / 2 = s.core / 256 then (if k % 2 = 0 then s.guard.corrected else s.guard.uncorrected)
     else Config.elsewhere s.tick (46 + k))
  else if 34 ≤ k ∧ k < 42 then nth s.links.retrains (k - 34) 0
  else
    match k with
    | 42 => saturateTo (s.guard.fillerSteps.toNat + (Config.elsewhere s.tick 42).toNat)
    | 43 => s.guard.interventions
    | 44 => s.guard.clusterResets
    | 45 => s.guard.packageFailures
    | _ => s.lifeWord k

/-- The other counters are written. -/
def execLifetimeCounterWrite (s : State) : Out :=
  .next { s with guard := { s.guard with lifetime := (List.range 64).map s.counterWord } }

/-- The package loses power: it comes back with what the block holds of its counts (R407), and its reset values. (DEDUCED: log entry 36.) -/
def execLossOfPower (s : State) : Out :=
  let t := s.packageValues
  let die := s.core / 256
  .next { t with
    links := { t.links with retrains := .ofFn fun i => s.lifeWord (34 + i.val) }
    guard := { t.guard with
      corrected := s.lifeWord (18 + 2 * die), uncorrected := s.lifeWord (19 + 2 * die), hours := s.lifeWord 1
      fillerSteps := s.lifeWord 42, interventions := s.lifeWord 43, clusterResets := s.lifeWord 44
      packageFailures := s.lifeWord 45 } }

/-! ### Opcodes that are no instruction (R43, R45) -/

/-- The guard opcode, or an unassigned one, issues: ILLOP. -/
def execIllop (op : BitVec 8) (s : State) : Out := .next (s.raise ⟨1, 0, none, op.zeroExtend 64, none⟩)

end Sys2Proof.Machine
end

