-- ==== Sys2Proof/Machine/MemoryAccess.lean ====
section
/-!
DEFINITION. The memory instructions (R168 to R182, R187): loads, stores, full-empty accesses, atomics, hints, seals and the
scratchpad.
-/

namespace Sys2Proof.Machine

open Sys2Proof

/-- The effective address (R169). -/
def State.ea (s : State) (a : Field) (disp : BitVec 23) : Word := s.readG a + disp.signExtend 64

/-- The bytes of a size code. -/
def sizeBytes (sz : BitVec 2) : Nat := 2 ^ sz.toNat

/-! ### Loads and stores -/

/-- `ld` (R169). -/
def execLd (d a : Field) (sz : BitVec 2) (sx : Bool) (disp : BitVec 23) (s : State) : Out :=
  s.issue 0x80 .free [.wG d, .rG 1 a] fun s =>
    s.loadBytes (addressFrom [a] []) 0x80 (s.ea a disp) (sizeBytes sz) fun sizes laid => .load d (sizeBytes sz) sx sizes laid

/-- `st` (R169). -/
def execSt (d a : Field) (sz : BitVec 2) (disp : BitVec 23) (s : State) : Out :=
  s.issue 0x81 .free [.rG 0 d, .rG 1 a] fun s => s.storeBytes 0x81 (s.ea a disp) (sizeBytes sz) (s.readG d) false

/-- `st.a` (R169). -/
def execStA (d a : Field) (sz : BitVec 2) (disp : BitVec 23) (s : State) : Out :=
  s.issue 0x81 .free [.rG 0 d, .rG 1 a] fun s => s.storeBytes 0x81 (s.ea a disp) (sizeBytes sz) (s.readG d) true

/-! ### Full-empty accesses (R163, R170) -/

/-- `ldfe`. -/
def execLdfe (d a : Field) (disp : BitVec 23) (s : State) : Out :=
  s.issue 0x82 .ordered [.wG d, .rG 1 a] fun s =>
    s.wordAccess 0x82 (s.ea a disp) 8 .load .home fun s p => s.awaitFull [p.ask .ldfe false false] (.write d)

/-- `ldfe.e`. -/
def execLdfeE (d a : Field) (disp : BitVec 23) (s : State) : Out :=
  s.issue 0x82 .ordered [.wG d, .rG 1 a] fun s =>
    s.wordAccess 0x82 (s.ea a disp) 8 .load .home fun s p => s.awaitFull [p.ask .ldfeE false false] (.write d)

/-- `stfe`. -/
def execStfe (d a : Field) (disp : BitVec 23) (s : State) : Out :=
  s.issue 0x83 .ordered [.rG 0 d, .rG 1 a] fun s =>
    let v := s.readG d
    s.wordAccess 0x83 (s.ea a disp) 8 .store .home fun s p => s.awaitFull [p.ask (.stfe v) false false] .nothing

/-- `feset`. -/
def execFeset (a : Field) (s : State) : Out :=
  s.issue 0x84 .ordered [.rG 1 a] fun s =>
    s.wordAccess 0x84 (s.readG a) 8 .store .home fun s p => s.postEffect [p.ask .feset true false]

/-- `feclr`. -/
def execFeclr (a : Field) (s : State) : Out :=
  s.issue 0x84 .ordered [.rG 1 a] fun s =>
    s.wordAccess 0x84 (s.readG a) 8 .store .home fun s p => s.postEffect [p.ask .feclr true false]

/-! ### Atomics (R173 to R176) -/

/-- An `amo`; `minu` and `maxu` give the old value zero-extended. -/
def amo (op : AmoOp) (zero : Bool) (d a b : Field) (sz : BitVec 2) (p : Bool) (s : State) : Out :=
  s.issue 0x85 .ordered ((if p then [] else [.wG d]) ++ [.rG 1 a, .rG 2 b]) fun s =>
    s.atomic 0x85 (s.readG a) (sizeBytes sz) (.amo op (sizeBytes sz) (s.readG b)) p (.old d (sizeBytes sz) zero)

/-- An `amof`. -/
def amof (op : AmofOp) (d a b : Field) (fmt : BitVec 2) (p : Bool) (s : State) : Out :=
  s.issue 0x86 .ordered ((if p then [] else [.wF d]) ++ [.rG 1 a, .rF 2 b]) fun s =>
    s.atomic 0x86 (s.readG a) (if fmt = 0 then 4 else 2) (.amof op fmt.toNat (s.readF b)) p (.oldF d)

/-- `amo.add`. -/
def execAmoAdd (d a b : Field) (sz : BitVec 2) (p : Bool) (s : State) : Out := amo .add false d a b sz p s
/-- `amo.and`. -/
def execAmoAnd (d a b : Field) (sz : BitVec 2) (p : Bool) (s : State) : Out := amo .and false d a b sz p s
/-- `amo.or`. -/
def execAmoOr (d a b : Field) (sz : BitVec 2) (p : Bool) (s : State) : Out := amo .or false d a b sz p s
/-- `amo.xor`. -/
def execAmoXor (d a b : Field) (sz : BitVec 2) (p : Bool) (s : State) : Out := amo .xor false d a b sz p s
/-- `amo.swap`. -/
def execAmoSwap (d a b : Field) (sz : BitVec 2) (p : Bool) (s : State) : Out := amo .swap false d a b sz p s
/-- `amo.min`. -/
def execAmoMin (d a b : Field) (sz : BitVec 2) (p : Bool) (s : State) : Out := amo .min false d a b sz p s
/-- `amo.max`. -/
def execAmoMax (d a b : Field) (sz : BitVec 2) (p : Bool) (s : State) : Out := amo .max false d a b sz p s
/-- `amo.minu`. -/
def execAmoMinu (d a b : Field) (sz : BitVec 2) (p : Bool) (s : State) : Out := amo .minu true d a b sz p s
/-- `amo.maxu`. -/
def execAmoMaxu (d a b : Field) (sz : BitVec 2) (p : Bool) (s : State) : Out := amo .maxu true d a b sz p s
/-- `amof.add`. -/
def execAmofAdd (d a b : Field) (fmt : BitVec 2) (p : Bool) (s : State) : Out := amof .add d a b fmt p s
/-- `amof.min`. -/
def execAmofMin (d a b : Field) (fmt : BitVec 2) (p : Bool) (s : State) : Out := amof .min d a b fmt p s
/-- `amof.max`. -/
def execAmofMax (d a b : Field) (fmt : BitVec 2) (p : Bool) (s : State) : Out := amof .max d a b fmt p s

/-- `cas` (R176). -/
def execCas (d a b c : Field) (sz : BitVec 2) (s : State) : Out :=
  s.issue 0x87 .ordered [.wG d, .rG 1 a, .rG 2 b, .rG 3 c] fun s =>
    s.atomic 0x87 (s.readG a) (sizeBytes sz) (.cas (sizeBytes sz) (s.readG b) (s.readG c)) false (.old d (sizeBytes sz) false)

/-! ### Hints and addresses (R171, R172) -/

/-- A hint: its translation traps nothing. -/
def State.hint (s : State) (a : Field) (disp : BitVec 23) (f : State → Nat → State) : Effect :=
  match s.translate s.cur (s.ea a disp) 1 .load 0x88 0 with
  | .error _ => .done s
  | .ok t => .done (f (s.install t.x) t.ga)

/-- `pref.c` fills a line of the own slice (R411), or a sealed one, when an outstanding access is free (R160). -/
def execPrefC (a : Field) (disp : BitVec 23) (s : State) : Out :=
  s.issue 0x88 .free [.rG 1 a] fun s => s.hint a disp fun s ga => if s.ownSlice ga || s.room 1 then s.fill ga else s

/-- `pref.t`. -/
def execPrefT (a : Field) (disp : BitVec 23) (s : State) : Out :=
  s.issue 0x88 .free [.rG 1 a] fun s => s.hint a disp fun s _ => s

/-- `pref.x`: dropped when no outstanding access is free (R160), and where nothing lies behind the address (R184). -/
def execPrefX (a : Field) (disp : BitVec 23) (s : State) : Out :=
  s.issue 0x88 .free [.rG 1 a] fun s => s.hint a disp fun s ga =>
    if gaSpace ga = 1 && s.room 1 && !s.cxlAbsent ga true then s.touchSector ga else s

/-- `lea`. -/
def execLea (d a : Field) (disp : BitVec 23) (s : State) : Out :=
  s.issue 0x8F .free [.wG d, .rG 1 a] fun s => .done (s.writeG d (s.ea a disp))

/-- `lea.g` and `lea.gs`: the global address that an access of a kind would have. -/
def State.leaOf (s : State) (d a : Field) (disp : BitVec 23) (k : Access) : Effect :=
  match s.translate s.cur (s.ea a disp) 1 k 0x8F 0 with
  | .error e => .trap e
  | .ok t => .done ((s.install t.x).writeG d (BitVec.ofNat 64 t.ga))

/-- `lea.g`. -/
def execLeaG (d a : Field) (disp : BitVec 23) (s : State) : Out :=
  s.issue 0x8F .free [.wG d, .rG 1 a] fun s => s.leaOf d a disp .load

/-- `lea.gs`. -/
def execLeaGs (d a : Field) (disp : BitVec 23) (s : State) : Out :=
  s.issue 0x8F .free [.wG d, .rG 1 a] fun s => s.leaOf d a disp .store

/-! ### Seals (R178, R179) -/

/-- The pages that overlap the region from `va` to `last`, in ascending order, translated with kind store. `sealedToo`: a
sealed page is no failure (`unseal`, and a `seal` that goes on after a wait). -/
def State.sealPages (s : State) (op : Nat) (sealedToo : Bool) : Nat → Nat → Nat → Except TrapInfo (List Piece)
  | 0, _, _ => .ok []
  | n + 1, va, last =>
    if last < va then .ok []
    else
      match s.lookup s.ctx.root va with
      | .error _ =>
        (match s.translateBy s.ctx.root s.ctx.pl (BitVec.ofNat 64 (va / 65536 * 65536)) 1 .store op 0 with
         | .error e => .error e
         | .ok _ => .ok [])
      | .ok x =>
        let first := va / x.size * x.size
        let next (ga : Nat) (x : Xlate) : Except TrapInfo (List Piece) :=
          match s.sealPages op sealedToo n (first + x.size) last with
          | .error e => .error e
          | .ok ps => .ok (⟨BitVec.ofNat 64 first, x.size, ga, x⟩ :: ps)
        match s.translateBy s.ctx.root s.ctx.pl (BitVec.ofNat 64 first) 1 .store op 0 with
        | .ok t => next t.ga t.x
        | .error e => if e.cause = 9 && sealedToo then next (leafFrame x.leaf) x else .error e

/-- A region's granules, each as a piece. -/
def granulesOf (ps : List Piece) : List Piece :=
  ps.flatMap fun p => (List.range (p.n / 65536)).map fun i =>
    { p with va := p.va + BitVec.ofNat 64 (65536 * i), n := 65536, ga := p.ga + 65536 * i }

/-- Send a message once these requests are acknowledged; with none of them left, now. -/
def State.sendBehind (s : State) (ids : List Nat) (m : Msg) : State × Option Reply :=
  if ids.isEmpty then let a := s.send m; (a.1, a.2.2)
  else
    ({ s with
      seqNo := s.seqNo + 1
      net := s.net ++ [⟨s.seqNo, s.cur, s.ctx.gen, m.ga, m.va, s.ctx.pc, m.msg, m.posted, m.adaptive, 0, [], .after ids, 0⟩] }, none)

/-- What a granule's request comes to at once: a seal that the own slice has performed is acknowledged, and the error of a home that
does not answer is reported by R162. -/
def State.sealAnswer (s : State) (op : MemOp) (id : Nat) (va : Word) (r : Option Reply) : State :=
  match r with
  | some (.data _) => if op == MemOp.seal then s.sealDone s.ctx.root va else s
  | some (.fail c sub _ _) => s.addFault s.cur s.ctx.gen (postedFault id s.ctx.pc va c sub)
  | none => s

/-- The granules' requests, behind those given, as far as there is room. (DEDUCED: log entry 73.) -/
def State.sealGranules (s : State) (op : MemOp) (scope : Nat) (behind : List Nat) : Nat → List Piece → State × Option Nat
  | _, [] => (s, none)
  | n, p :: t =>
    let m := p.ask op true false
    if !s.roomFor [m] then (s, some n)
    else
      let a := s.sendBehind behind m
      let s := (a.1.changeRequest s.seqNo fun r => { r with scope := max 1 scope }).sealAnswer op s.seqNo p.va a.2
      s.sealGranules op scope behind (n + 1) t

/-- The requests of the issuing context that seal granules of these pages and are unacknowledged. (DEDUCED: log entry 73.) -/
def State.sealIds (s : State) (ps : List Piece) : List Nat :=
  (s.net.filter fun q => q.ctx == s.cur && q.gen == s.ctx.gen && q.stage != .answered && q.msg == .access .seal &&
    ps.any fun p => p.va.toNat ≤ q.va.toNat && q.va.toNat < p.va.toNat + p.n).map (·.id)

/-- Its multicast for a region that is unacknowledged. -/
def State.multicastIds (s : State) (base len : Word) : List Nat :=
  (s.net.filter fun q => q.ctx == s.cur && q.gen == s.ctx.gen && q.posted && q.stage != .answered && match q.msg with
    | .shootdown b l _ => b == base && l == len
    | _ => false).map (·.id)

/-- The multicast of a `seal` or `unseal` whose scope is wider than the core, behind the requests given. -/
def State.sealMulticast (s : State) (behind : List Nat) (base len : Word) (scope : Nat) : State :=
  if scope ≤ 1 then s else (s.sendBehind behind ⟨base, multicastHome, .shootdown base len scope, true, false⟩).1

/-- The granules that are still to be sent, after the first `n`. -/
def unsentGranules (l : List Piece) (n : Nat) : Option After :=
  match l[n]?, l.getLast? with
  | some a, some b => some (.sealing a.va.toNat b.va.toNat)
  | _, _ => none

/-- The granules of a region that are still to be sent, with a wait for room when it is lacking. -/
def State.sealOn (s : State) (ps : List Piece) (op : MemOp) (scope : Nat) (behind : List Nat) (f : State → State) : Effect :=
  let done := s.ctx.sentBefore
  match s.sealGranules op scope behind done ((granulesOf ps).drop done) with
  | (s, some n) => .wait s (.outstanding [] [] n (unsentGranules (granulesOf ps) n))
  | (s, none) => .done (f s)

/-- The translated pages of a region; none when its length is 0. (DEDUCED: log entry 73.) -/
def State.sealRegion (s : State) (op : Nat) (sealedToo : Bool) (base len : Word) (f : State → List Piece → Effect) : Effect :=
  if len = 0 then .done s
  else if s.ctx.sentBefore = 0 && s.walkWaits base then .trap walkBusy
  else
    match s.sealPages op sealedToo (len.toNat / 65536 + 2) base.toNat (min (base.toNat + len.toNat - 1) (2 ^ 64 - 1)) with
    | .error e => .trap e
    | .ok ps => f (s.installAll ps) ps

/-- `seal` (R178). -/
def execSeal (a b : Field) (scope : BitVec 4) (s : State) : Out :=
  s.issue 0x89 .ordered [.rG 1 a, .rG 2 b] fun s =>
    s.sealRegion 0x89 (s.ctx.sentBefore != 0) (s.readG a) (s.readG b) fun s ps =>
      s.sealOn ps .seal scope.toNat [] fun s => s.sealMulticast (s.sealIds ps) (s.readG a) (s.readG b) scope.toNat

/-- `unseal` (R178): the page entries, and the sealed lines and translations of the core, go first, then those of the scope, and the
homes clear the seal last. -/
def execUnseal (a b : Field) (scope : BitVec 4) (s : State) : Out :=
  s.issue 0x8A .ordered [.rG 1 a, .rG 2 b] fun s =>
    s.sealRegion 0x8A true (s.readG a) (s.readG b) fun s ps =>
      let root := s.ctx.root
      let s := ps.foldl (fun s p => (s.sealLeaf root p.va false).dropTranslations p.va.toNat p.n) s
      if s.ctx.sentBefore != 0 then s.sealOn ps .unseal scope.toNat (s.multicastIds (s.readG a) (s.readG b)) id
      else if !s.room 1 then .wait s (.outstanding [] [] 0 none)
      else
        let s := s.sealMulticast [] (s.readG a) (s.readG b) scope.toNat
        s.sealOn ps .unseal scope.toNat (s.multicastIds (s.readG a) (s.readG b)) id

/-- A seal or unseal of this core over an address is not acknowledged yet: a granule of its page, sent or still to be sent, or its
multicast. (DEDUCED: log entry 73.) -/
def State.sealPending (s : State) (x : Trans) (va : Word) : Bool :=
  let first := va.toNat / x.x.size * x.x.size
  (s.net.any fun q => q.stage != .answered && match q.msg with
    | .access .seal => first ≤ q.va.toNat && q.va.toNat < first + x.x.size
    | .access .unseal => first ≤ q.va.toNat && q.va.toNat < first + x.x.size
    | .shootdown base len scope => q.posted && scope != 0 && scope != migrationScope && first < base.toNat + len.toNat &&
        base.toNat < first + x.x.size
    | _ => false) ||
  allCtx.any fun i => match (s.at i).live, (s.at i).block with
    | true, some ⟨.outstanding _ _ _ (some (.sealing a b)), _, _⟩ => first < b + 65536 && a < first + x.x.size
    | _, _ => false

/-- `sealq` (R179). -/
def execSealq (d a : Field) (s : State) : Out :=
  s.issue 0x8B .free [.wG d, .rG 1 a] fun s =>
    match s.translate s.cur (s.readG a) 1 .load 0x8B 0 with
    | .error e => .trap e
    | .ok t =>
      .done ((s.install t.x).writeG d (if s.sealPending t (s.readG a) then 2 else if t.x.seal then 1 else 0))

/-! ### The scratchpad (R180 to R182) -/

/-- The handle of a buffer in a register. -/
def handleOf (w : Word) : Nat := w.bits 0 10

/-- `hgive` (R182). -/
def execHgive (a b : Field) (s : State) : Out :=
  s.issue 0x8C .ordered [.rG 1 a, .rG 2 b] fun s =>
    let buf := handleOf (s.readG a)
    let dest : BitVec 4 := (s.readG b).truncate 4
    if !s.holdsBuf buf then .trap ⟨16, 0, none, 0, none⟩
    else if dest.toNat = s.core % 16 then .done s
    else
      .done { s with
        spad := { s.spad with
          held := (buf, none) :: s.spad.held.filter (·.1 != buf), transit := s.spad.transit ++ [(BitVec.ofNat 10 buf, dest)] }
        sent := s.sent ++ [.handle (BitVec.ofNat 10 buf) dest] }

/-- `htake` (R182). -/
def execHtake (d a : Field) (s : State) : Out :=
  s.issue 0x8C .free [.wG d, .rG 1 a] fun s => .done (s.writeG d (Word.ofBool (s.holdsBuf (handleOf (s.readG a)))))

/-- A handle arrives (R182): its target holds the buffer from then on. A buffer that this core holds is in nobody's hands to
give. -/
def execHandleArrival (buf : BitVec 10) (core : BitVec 4) (s : State) : Out :=
  if s.holdsBuf buf.toNat then .next s
  else
    let others := s.spad.held.filter (·.1 != buf.toNat)
    .next { s with spad := { s.spad with
      held := if buf.toNat / 64 = core.toNat then others else (buf.toNat, some core) :: others
      transit := s.spad.transit.filter (·.1 != buf) } }

/-- The held bytes over a scratchpad access (R187). -/
def State.heldSpad (s : State) (a n : Nat) : List (Nat × Byte) := overlay true s.ctx.hold 0 a n

/-- `spld` (R181). (DESIGN CHOICE: log entry 114.) -/
def execSpld (d a : Field) (sz : BitVec 2) (sx : Bool) (disp : BitVec 23) (s : State) : Out :=
  s.issue 0x8D .free [.wG d, .rG 1 a] fun s =>
    match s.spadFault (s.ea a disp) with
    | some e => .trap e
    | none =>
      let n := sizeBytes sz
      let at_ := (alignDown (s.ea a disp) n).toNat
      if s.spadBad at_ n then .trap ⟨17, 0, none, 0, none⟩
      else .done (s.writeG d (extend sx n (ofBytes (layOver (bytesOf (s.spadRead at_ n) n) (s.heldSpad at_ n)))))

/-- A scratchpad word of an access is poisoned, and no held store of the context covers it before (R167, R309). -/
def State.spadBadHere (s : State) (a n : Nat) : Bool :=
  s.spadBad a n && !((List.range 4).all fun i => (heldByte true (a / 4 * 4 + i) s.ctx.hold).isSome)

/-- `spst` (R181). A fault of the scratchpad is precise (R167). -/
def execSpst (d a : Field) (sz : BitVec 2) (disp : BitVec 23) (s : State) : Out :=
  s.issue 0x8E .free [.rG 0 d, .rG 1 a] fun s =>
    match s.spadFault (s.ea a disp) with
    | some e => .trap e
    | none =>
      let n := sizeBytes sz
      let at_ := alignDown (s.ea a disp) n
      let v := (s.readG d).toNat
      if s.ctx.holds then
        if n < 4 && s.spadBadHere at_.toNat n then .trap ⟨17, 0, none, 0, none⟩
        else if s.holdFull 1 then .wait s (.holdRoom 1)
        else .done (s.hold [⟨true, at_.toNat, at_, s.ctx.pc, listed v n, false, true⟩])
      else
        match s.spadStore at_.toNat n v with
        | .ok t => .done t
        | .error c => .trap ⟨c, 0, none, 0, none⟩

end Sys2Proof.Machine
end

