-- ==== Sys2Proof/Machine/VectorMemory.lean ====
section
/-!
DEFINITION. The vector memory instructions (R147 to R153): elements, messages, faults inside an access.
-/

namespace Sys2Proof.Machine

open Sys2Proof

/-! ### Elements and messages (R147, R148, R150) -/

/-- An element of an access, with its translated pieces. -/
abbrev Elem := Nat × List Piece

/-- The elements that a vector memory instruction processes: active, and at or above VSTART (R152). -/
def State.elements (s : State) (k : BitVec 3) (w : BitVec 2) : List Nat :=
  (List.range (viewCount w)).filter fun i => s.ctx.vstart.bits 0 6 ≤ i && s.active k i

/-- Translate the elements' bytes in ascending order, up to the first that traps (R151). -/
def State.translateElems (s : State) (op n : Nat) (kind : Access) (addr : Nat → Word) :
    List Nat → List Elem × Option TrapInfo
  | [] => ([], none)
  | i :: t =>
    match s.translateAllBy s.ctx.root s.ctx.pl kind op i .memory (pieces 2 (addr i) n) with
    | .error e => ([], some { e with vstart := some i })
    | .ok ps => let r := s.translateElems op n kind addr t; ((i, ps) :: r.1, r.2)

/-- A message of a vector access: the sector with the address that its lowest element sees it at, and its parts: element,
byte in the element, byte in the sector, number of bytes. -/
structure SectorMsg where
  first : Piece
  parts : List (Nat × Nat × Nat × Nat)
  deriving DecidableEq, Repr

/-- Add a piece of an element to the messages. -/
def addPart (p : Piece) (x : Nat × Nat × Nat × Nat) : List SectorMsg → List SectorMsg
  | [] => [⟨{ p with va := p.va - BitVec.ofNat 64 (p.ga % 32), ga := p.ga / 32 * 32, n := 32 }, [x]⟩]
  | m :: t => if m.first.ga = p.ga / 32 * 32 then { m with parts := m.parts ++ [x] } :: t else m :: addPart p x t

/-- Add the pieces of one element; `b` bytes of it are placed. -/
def addElem (i : Nat) : Nat → List Piece → List SectorMsg → List SectorMsg
  | _, [], l => l
  | b, p :: t, l => addElem i (b + p.n) t (addPart p (i, b, p.ga % 32, p.n) l)

/-- The messages of an access, one for each home and sector, in ascending order of their lowest element (R148, R150). -/
def messagesOf (l : List Elem) : List SectorMsg := l.foldl (fun ms e => addElem e.1 0 e.2 ms) []

/-- The lowest element of a message. -/
def SectorMsg.lowest (m : SectorMsg) : Nat := m.parts.foldl (fun a x => min a x.1) 63

/-- The bytes of a sector that a message touches. -/
def SectorMsg.mask (m : SectorMsg) : BitVec 32 :=
  m.parts.foldl (fun w x => (List.range x.2.2.2).foldl (fun w i => w ||| BitVec.ofNat 32 (2 ^ (x.2.2.1 + i))) w) 0

/-- The bytes a store message writes, by their distance from the lowest: of two elements at one byte the higher's. -/
def SectorMsg.bytes (m : SectorMsg) (v : VWord) (w : Nat) : List (Nat × Byte) :=
  let all := m.parts.flatMap fun x => (List.range x.2.2.2).map fun i =>
    (x.2.2.1 + i, (BitVec.ofNat 8 (vecElem v w x.1 / 256 ^ (x.2.1 + i)) : Byte))
  (List.range 32).filterMap fun o => (all.reverse.find? (·.1 == o))

/-- How many of these messages there are outstanding accesses for (R148, R160). -/
def State.sendable (s : State) : Nat → List SectorMsg → Nat
  | _, [] => 0
  | free, m :: t =>
    if s.ownSlice m.first.ga then s.sendable free t + 1
    else if free = 0 then 0 else s.sendable (free - 1) t + 1

/-- What messages carry, to be kept with a wait. -/
abbrev Parts := List (List (Nat × Nat × Nat × Nat))

/-- The elements that messages carry, of those of a list. -/
def Parts.elements (p : Parts) (l : List Nat) : List Nat := l.filter fun i => p.any fun m => m.any fun x => x.1 == i

/-- The messages of elements, cut down to what the unsent messages of an access carried, when it had sent some. -/
def unsentOf (unsent : Option Parts) (es : List Elem) : List SectorMsg :=
  match unsent with
  | none => messagesOf es
  | some p =>
    ((messagesOf es).map fun m => { m with parts := m.parts.filter fun x => p.any fun l => l.any fun y => y.1 == x.1 && y.2.1 == x.2.1 })
      |>.filter fun m => !m.parts.isEmpty

/-- The free outstanding accesses. -/
def State.freeSlots (s : State) : Nat := Config.outstanding - s.inFlight

/-- VSTART lies beyond the last element: the instruction does nothing (R152). -/
def State.beyond (s : State) (w : BitVec 2) : Bool := viewCount w ≤ s.ctx.vstart.bits 0 6

/-! ### Loads (R149, R151) -/

/-- The messages of a load. -/
def SectorMsg.loads (l : List SectorMsg) : List (Piece × Msg) :=
  l.map fun m => (m.first, m.first.ask (.sector m.mask) false false)

/-- What an access that waited for outstanding accesses has sent and received. -/
def Ctx.sentLoads (c : Ctx) : List Nat × List (Nat × Reply) × Nat × Option After :=
  match c.block with
  | some ⟨.outstanding ids got first k, _, _⟩ => (ids, got, first, if first = 0 then none else k)
  | _ => ([], [], 0, none)

/-- The bytes held over an access's elements (R187). -/
def heldElems (l : List Held) (es : List Elem) : List (Nat × Nat × Byte) :=
  es.flatMap fun e => (heldOver l 0 e.2).map fun b => (e.1, b.1, b.2)

/-- A translation of a vector access that has sent nothing yet waits for a walker (R357). -/
def State.elementsWait (s : State) (k : BitVec 3) (w : BitVec 2) (addr : Nat → Word) : Bool :=
  s.ctx.sentLoads.2.2.1 == 0 && ((s.elements k w).flatMap fun i => pieces 2 (addr i) (2 ^ w.toNat)).any fun p => s.walkWaits p.1

/-- What the messages of a load that it has sent carry, and the unsent ones, when it has sent some. -/
def loadParts (first : Nat) : Option After → Parts × Option Parts
  | some (.vload _ _ parts _ _) => (parts.take first, some (parts.drop first))
  | _ => ([], none)

/-- The trap of the element that a load stopped at before, and the bytes held at its issue. -/
def loadStop : Option After → Option TrapInfo
  | some (.vload _ _ _ _ t) => t
  | _ => none
def loadLaid (k : Option After) (now : List (Nat × Nat × Byte)) : List (Nat × Nat × Byte) :=
  match k with
  | some (.vload _ _ _ laid _) => laid
  | _ => now

/-- A vector load from element addresses, which these registers give. One that waited for outstanding accesses goes on with the
elements of its unsent messages, which it translates anew. (DEDUCED: log entry 22.) -/
def State.vload (s : State) (regs : Option (List Nat)) (op : Nat) (d : Field) (k : BitVec 3) (w : BitVec 2) (addr : Nat → Word) :
    Effect :=
  if s.beyond w then s.endV
  else if s.elementsWait k w addr then .trap walkBusy else
  let (ids, got, first, k0) := s.ctx.sentLoads
  let (sent, unsent) := loadParts first k0
  let all := s.elements k w
  let (es, trap) := s.translateElems op (2 ^ w.toNat) .load addr ((unsent.map fun p => p.elements all).getD all)
  let s := s.installAll (es.flatMap (·.2))
  let rest := unsentOf unsent es
  if s.overtakes (rest.map fun m => (m.first.ga, 32)) then .is s.stall
  else
    let stop := match trap with | some t => some t | none => loadStop k0
    let k : After := .vload d w (sent ++ rest.map (·.parts)) (loadLaid k0 (heldElems s.ctx.hold es)) stop
    let n := s.sendable s.freeSlots rest
    let a := s.askAll regs (SectorMsg.loads (rest.take n))
    let ids := ids ++ a.2.1
    let got := got ++ a.2.2
    if n < rest.length then .wait a.1 (.outstanding ids got (first + n) (some k))
    else
      match gather ids got with
      | some rs => a.1.settle k rs
      | none => .wait a.1 (.reply ids got k)

/-! ### Stores (R149 to R151, R153) -/

/-- Why the own slice would refuse a message of a store now, or, to be held, later (R167): a cause, a sub-code, FINFO and the failing
byte. -/
def State.wouldFail (s : State) (ga : Nat) (bytes : List (Nat × Byte)) : Option (Nat × Nat × Word × Nat) :=
  if s.ctx.holds then (s.heldFailure ga bytes).map fun b => (17, 0, 0, b)
  else if s.ownSlice ga && !s.behindRefused then
    match (s.takeUp (.own s.seqNo) ga (.write bytes)).2 with
    | .now (.fail c sub info b) => some (c, sub, info, b)
    | _ => none
  else none

/-- The lowest element of the first message that the own slice would refuse to perform, with its trap. (DEDUCED: log entry 22.) -/
def State.ownFailure (s : State) (v : VWord) (w : Nat) : List SectorMsg → Option TrapInfo
  | [] => none
  | m :: t =>
    match s.wouldFail m.first.ga (m.bytes v w) with
    | some (c, sub, info, b) =>
      some ⟨c, sub, some (m.first.va + BitVec.ofNat 64 b), info.setBits 0 6 m.lowest, some m.lowest⟩
    | none => s.ownFailure v w t

/-- The elements that are sent: those below every element that traps (R151). -/
def State.storable (s : State) (v : VWord) (w : Nat) (unsent : Option Parts) :
    Nat → List Elem × Option TrapInfo → List Elem × Option TrapInfo
  | 0, x => x
  | f + 1, (es, trap) =>
    match s.ownFailure v w (unsentOf unsent es) with
    | none => (es, trap)
    | some t => s.storable v w unsent f (es.filter (·.1 < t.vstart.getD 0), some t)

/-- What a vector store that waited for outstanding accesses had sent and the own slice had not performed, by the lowest elements of
its messages; what it had not sent; and the element it stopped at. -/
def sentLows : Option After → List Nat
  | some (.vstore lows _ _) => lows
  | _ => []
def storeParts : Option After → Option Parts
  | some (.vstore _ _ p) => some p
  | _ => none
def storeStop : Option After → Option TrapInfo
  | some (.vstore _ t _) => t
  | _ => none

/-- A vector store is over: it traps at the element it stopped at, or completes. -/
def State.endStore (s : State) (trap : Option TrapInfo) : Effect :=
  match trap with
  | some t => .is (s.raise t)
  | none => s.endV

/-- A vector store to element addresses: its messages are sent, or each takes an entry of the hold buffer. One that waited for
outstanding accesses goes on with the elements of its unsent messages, which it translates anew. (DEDUCED: log entry 22.) -/
def State.vstore (s : State) (op : Nat) (v : VWord) (k : BitVec 3) (w : BitVec 2) (addr : Nat → Word) : Effect :=
  if s.beyond w then s.endV
  else if s.elementsWait k w addr then .trap walkBusy else
  let (ids0, got, first, k0) := s.ctx.sentLoads
  let unsent := storeParts k0
  let all := s.elements k w
  let found := s.translateElems op (2 ^ w.toNat) .store addr ((unsent.map fun p => p.elements all).getD all)
  let s := s.installAll (found.1.flatMap (·.2))
  let (es, stop) := s.storable v (viewBits w) unsent 65 found
  let trap := match stop with | some t => some t | none => storeStop k0
  let rest := unsentOf unsent es
  if s.ctx.holds then
    if s.holdFull rest.length then .wait s (.holdRoom rest.length)
    else
      (s.hold (rest.map fun m =>
        ⟨false, m.first.ga, m.first.va, s.ctx.pc, m.bytes v (viewBits w), false, true⟩)).endStore trap
  else if s.overtakes (rest.map fun m => (m.first.ga, 32)) then .is s.stall
  else
    let n := s.sendable s.freeSlots rest
    let a := s.postAll ((rest.take n).map fun m => m.first.ask (.write (m.bytes v (viewBits w))) true false)
    let ids := ids0 ++ a.2.1
    let lows := sentLows k0 ++ a.2.1.map fun id => ((rest[id - s.seqNo]?).map SectorMsg.lowest).getD 0
    let k : After := .vstore lows trap ((rest.drop n).map (·.parts))
    if n < rest.length then .wait a.1 (.outstanding ids got (first + n) (some k))
    else
      match gather ids got with
      | some rs => a.1.settle k rs
      | none => .wait a.1 (.reply ids got k)

/-! ### The instructions (R147) -/

/-- The address of element `i` from a base, a whole number of elements on. -/
def unitStride (base : Word) (w : BitVec 2) (i : Nat) : Word := base + BitVec.ofNat 64 (i * 2 ^ w.toNat)

/-- The address of element `i` under an index vector. -/
def indexed (base : Word) (x : VWord) (w sc : BitVec 2) (i : Nat) : Word :=
  base + extend true (2 ^ w.toNat) (vecElem x (viewBits w) i) <<< sc.toNat

/-- `vld`. -/
def execVld (d a : Field) (k : BitVec 3) (w : BitVec 2) (disp : BitVec 21) (s : State) : Out :=
  s.issue 0xE0 .free [.wV d, .rG 1 a] fun s =>
    s.vload (addressFrom [a] []) 0xE0 d k w (unitStride (s.readG a + disp.signExtend 64) w)

/-- `vst`. -/
def execVst (d a : Field) (k : BitVec 3) (w : BitVec 2) (disp : BitVec 21) (s : State) : Out :=
  s.issue 0xE1 .free [.rV 0 d, .rG 1 a] fun s =>
    s.vstore 0xE1 (s.readV d) k w (unitStride (s.readG a + disp.signExtend 64) w)

/-- `vlds`. -/
def execVlds (d a b : Field) (k : BitVec 3) (w : BitVec 2) (s : State) : Out :=
  s.issue 0xE2 .free [.wV d, .rG 1 a, .rG 2 b] fun s =>
    s.vload (addressFrom [a, b] []) 0xE2 d k w fun i => s.readG a + BitVec.ofNat 64 i * s.readG b

/-- `vldx`. -/
def execVldx (d a b : Field) (sc : BitVec 2) (k : BitVec 3) (w : BitVec 2) (s : State) : Out :=
  s.issue 0xE3 .free [.wV d, .rG 1 a, .rV 2 b] fun s =>
    s.vload (addressFrom [a] [b]) 0xE3 d k w (indexed (s.readG a) (s.readV b) w sc)

/-- `vstx`. -/
def execVstx (d a b : Field) (sc : BitVec 2) (k : BitVec 3) (w : BitVec 2) (s : State) : Out :=
  s.issue 0xE4 .free [.rV 0 d, .rG 1 a, .rV 2 b] fun s =>
    s.vstore 0xE4 (s.readV d) k w (indexed (s.readG a) (s.readV b) w sc)

end Sys2Proof.Machine
end

