-- ==== Sys2Proof/Machine/Dispatch.lean ====
section
/-!
DEFINITION. The dispatch of every instruction and event to its meaning, one arm for each constructor.
-/

namespace Sys2Proof.Machine

open Sys2Proof

def exec (i : Instr) (s : State) : Host.Outcome State Fault Refusal :=
  match i with
  | .nop => Sys2Proof.Machine.execNop s
  | .trap a code => Sys2Proof.Machine.execTrap a code s
  | .sysc code => Sys2Proof.Machine.execSysc code s
  | .rte => Sys2Proof.Machine.execRte s
  | .rdc d n => Sys2Proof.Machine.execRdc d n s
  | .wrc a n => Sys2Proof.Machine.execWrc a n s
  | .wrcStatus a => Sys2Proof.Machine.execWrcStatus a s
  | .wrcFrm a => Sys2Proof.Machine.execWrcFrm a s
  | .wrcDtime a => Sys2Proof.Machine.execWrcDtime a s
  | .wrcChmode a => Sys2Proof.Machine.execWrcChmode a s
  | .wrcBarcfg a => Sys2Proof.Machine.execWrcBarcfg a s
  | .wrcSemstat a => Sys2Proof.Machine.execWrcSemstat a s
  | .wrcTshape a t => Sys2Proof.Machine.execWrcTshape a t s
  | .wrcAcfg a k => Sys2Proof.Machine.execWrcAcfg a k s
  | .wrcEtcfg a => Sys2Proof.Machine.execWrcEtcfg a s
  | .wrcForecast a => Sys2Proof.Machine.execWrcForecast a s
  | .wrcRampup a => Sys2Proof.Machine.execWrcRampup a s
  | .wrcRampdn a => Sys2Proof.Machine.execWrcRampdn a s
  | .tlbinv a b s0 => Sys2Proof.Machine.execTlbinv a b s0 s
  | .tlbinvAll s0 => Sys2Proof.Machine.execTlbinvAll s0 s
  | .wfi => Sys2Proof.Machine.execWfi s
  | .hcall d a b => Sys2Proof.Machine.execHcall d a b s
  | .migr d a b se x => Sys2Proof.Machine.execMigr d a b se x s
  | .ssave d a b => Sys2Proof.Machine.execSsave d a b s
  | .ssaveCore d b => Sys2Proof.Machine.execSsaveCore d b s
  | .ssaveAck d => Sys2Proof.Machine.execSsaveAck d s
  | .srest d a b => Sys2Proof.Machine.execSrest d a b s
  | .srestCore d b => Sys2Proof.Machine.execSrestCore d b s
  | .resync d a => Sys2Proof.Machine.execResync d a s
  | .start d a b n v p => Sys2Proof.Machine.execStart d a b n v p s
  | .startNb d a b n v p => Sys2Proof.Machine.execStartNb d a b n v p s
  | .startAt d a b c n v p => Sys2Proof.Machine.execStartAt d a b c n v p s
  | .startAtNb d a b c n v p => Sys2Proof.Machine.execStartAtNb d a b c n v p s
  | .exit => Sys2Proof.Machine.execExit s
  | .cwait d a => Sys2Proof.Machine.execCwait d a s
  | .yield => Sys2Proof.Machine.execYield s
  | .park => Sys2Proof.Machine.execPark s
  | .wake a => Sys2Proof.Machine.execWake a s
  | .grow d n v => Sys2Proof.Machine.execGrow d n v s
  | .growNb d n v => Sys2Proof.Machine.execGrowNb d n v s
  | .shrink n v => Sys2Proof.Machine.execShrink n v s
  | .allot d a => Sys2Proof.Machine.execAllot d a s
  | .gangQuad d a => Sys2Proof.Machine.execGangQuad d a s
  | .gangClus d a => Sys2Proof.Machine.execGangClus d a s
  | .gangFormed => Sys2Proof.Machine.execGangFormed s
  | .split => Sys2Proof.Machine.execSplit s
  | .prio d a => Sys2Proof.Machine.execPrio d a s
  | .add d a b => Sys2Proof.Machine.execAdd d a b s
  | .sub d a b => Sys2Proof.Machine.execSub d a b s
  | .mul d a b => Sys2Proof.Machine.execMul d a b s
  | .mulh d a b => Sys2Proof.Machine.execMulh d a b s
  | .mulhu d a b => Sys2Proof.Machine.execMulhu d a b s
  | .div d a b => Sys2Proof.Machine.execDiv d a b s
  | .divu d a b => Sys2Proof.Machine.execDivu d a b s
  | .rem d a b => Sys2Proof.Machine.execRem d a b s
  | .remu d a b => Sys2Proof.Machine.execRemu d a b s
  | .and d a b => Sys2Proof.Machine.execAnd d a b s
  | .or d a b => Sys2Proof.Machine.execOr d a b s
  | .xor d a b => Sys2Proof.Machine.execXor d a b s
  | .andn d a b => Sys2Proof.Machine.execAndn d a b s
  | .orn d a b => Sys2Proof.Machine.execOrn d a b s
  | .shl d a b => Sys2Proof.Machine.execShl d a b s
  | .shr d a b => Sys2Proof.Machine.execShr d a b s
  | .sra d a b => Sys2Proof.Machine.execSra d a b s
  | .rot d a b => Sys2Proof.Machine.execRot d a b s
  | .clz d a => Sys2Proof.Machine.execClz d a s
  | .ctz d a => Sys2Proof.Machine.execCtz d a s
  | .popc d a => Sys2Proof.Machine.execPopc d a s
  | .abs d a => Sys2Proof.Machine.execAbs d a s
  | .min d a b => Sys2Proof.Machine.execMin d a b s
  | .max d a b => Sys2Proof.Machine.execMax d a b s
  | .minu d a b => Sys2Proof.Machine.execMinu d a b s
  | .maxu d a b => Sys2Proof.Machine.execMaxu d a b s
  | .sext d a n => Sys2Proof.Machine.execSext d a n s
  | .zext d a n => Sys2Proof.Machine.execZext d a n s
  | .bfx d a pos len => Sys2Proof.Machine.execBfx d a pos len s
  | .bfxS d a pos len => Sys2Proof.Machine.execBfxS d a pos len s
  | .bfi d a pos len => Sys2Proof.Machine.execBfi d a pos len s
  | .shadd d a b s0 => Sys2Proof.Machine.execShadd d a b s0 s
  | .mov d a => Sys2Proof.Machine.execMov d a s
  | .sel d a b c => Sys2Proof.Machine.execSel d a b c s
  | .cmp d a b c => Sys2Proof.Machine.execCmp d a b c s
  | .addi d a im => Sys2Proof.Machine.execAddi d a im s
  | .andi d a im => Sys2Proof.Machine.execAndi d a im s
  | .ori d a im => Sys2Proof.Machine.execOri d a im s
  | .xori d a im => Sys2Proof.Machine.execXori d a im s
  | .shli d a s0 => Sys2Proof.Machine.execShli d a s0 s
  | .shri d a s0 => Sys2Proof.Machine.execShri d a s0 s
  | .srai d a s0 => Sys2Proof.Machine.execSrai d a s0 s
  | .roti d a s0 => Sys2Proof.Machine.execRoti d a s0 s
  | .cmpi d a c im => Sys2Proof.Machine.execCmpi d a c im s
  | .ldi26 d im => Sys2Proof.Machine.execLdi26 d im s
  | .ldi64 d im => Sys2Proof.Machine.execLdi64 d im s
  | .br d a c im => Sys2Proof.Machine.execBr d a c im s
  | .bz d im => Sys2Proof.Machine.execBz d im s
  | .bnz d im => Sys2Proof.Machine.execBnz d im s
  | .j im => Sys2Proof.Machine.execJ im s
  | .jal d im => Sys2Proof.Machine.execJal d im s
  | .jr a => Sys2Proof.Machine.execJr a s
  | .jalr d a => Sys2Proof.Machine.execJalr d a s
  | .jtab d a b => Sys2Proof.Machine.execJtab d a b s
  | .loop d im => Sys2Proof.Machine.execLoop d im s
  | .halt => Sys2Proof.Machine.execHalt s
  | .brk code => Sys2Proof.Machine.execBrk code s
  | .fadd d a b m => Sys2Proof.Machine.execFadd d a b m s
  | .fsub d a b m => Sys2Proof.Machine.execFsub d a b m s
  | .fmul d a b m => Sys2Proof.Machine.execFmul d a b m s
  | .fma d a b c m => Sys2Proof.Machine.execFma d a b c m s
  | .fnma d a b c m => Sys2Proof.Machine.execFnma d a b c m s
  | .fdiv d a b m => Sys2Proof.Machine.execFdiv d a b m s
  | .fsqrt d a m => Sys2Proof.Machine.execFsqrt d a m s
  | .fmin d a b => Sys2Proof.Machine.execFmin d a b s
  | .fmax d a b => Sys2Proof.Machine.execFmax d a b s
  | .fsgnCp d a b => Sys2Proof.Machine.execFsgnCp d a b s
  | .fsgnNeg d a b => Sys2Proof.Machine.execFsgnNeg d a b s
  | .fsgnXor d a b => Sys2Proof.Machine.execFsgnXor d a b s
  | .fcmp d a b c => Sys2Proof.Machine.execFcmp d a b c s
  | .fclass d a f => Sys2Proof.Machine.execFclass d a f s
  | .fcvt d a m dst src => Sys2Proof.Machine.execFcvt d a m dst src s
  | .fmovFF d a => Sys2Proof.Machine.execFmovFF d a s
  | .fmovFG d a => Sys2Proof.Machine.execFmovFG d a s
  | .fmovGF d a => Sys2Proof.Machine.execFmovGF d a s
  | .fldi d im => Sys2Proof.Machine.execFldi d im s
  | .fsr d a b dst src => Sys2Proof.Machine.execFsr d a b dst src s
  | .fsrDraw d => Sys2Proof.Machine.execFsrDraw d s
  | .fscl d a byte fmt => Sys2Proof.Machine.execFscl d a byte fmt s
  | .vadd v sat => Sys2Proof.Machine.execVadd v sat s
  | .vsub v sat => Sys2Proof.Machine.execVsub v sat s
  | .vmul v => Sys2Proof.Machine.execVmul v s
  | .vmulh v => Sys2Proof.Machine.execVmulh v s
  | .vmulhU v => Sys2Proof.Machine.execVmulhU v s
  | .vmacc v sat => Sys2Proof.Machine.execVmacc v sat s
  | .vmin v u => Sys2Proof.Machine.execVmin v u s
  | .vmax v u => Sys2Proof.Machine.execVmax v u s
  | .vabs v sat => Sys2Proof.Machine.execVabs v sat s
  | .vand v => Sys2Proof.Machine.execVand v s
  | .vor v => Sys2Proof.Machine.execVor v s
  | .vxor v => Sys2Proof.Machine.execVxor v s
  | .vandn v => Sys2Proof.Machine.execVandn v s
  | .vshl v => Sys2Proof.Machine.execVshl v s
  | .vshr v => Sys2Proof.Machine.execVshr v s
  | .vsra v => Sys2Proof.Machine.execVsra v s
  | .vrshr v range ev => Sys2Proof.Machine.execVrshr v range ev s
  | .vdot v f => Sys2Proof.Machine.execVdot v f s
  | .vcmp v fp c => Sys2Proof.Machine.execVcmp v fp c s
  | .vsel d a b k w => Sys2Proof.Machine.execVsel d a b k w s
  | .vsplat v fp => Sys2Proof.Machine.execVsplat v fp s
  | .vmov v => Sys2Proof.Machine.execVmov v s
  | .vmovX d a c sx w => Sys2Proof.Machine.execVmovX d a c sx w s
  | .vmovI d a c w => Sys2Proof.Machine.execVmovI d a c w s
  | .vperm v => Sys2Proof.Machine.execVperm v s
  | .vperm2 v c => Sys2Proof.Machine.execVperm2 v c s
  | .vslideDn v c => Sys2Proof.Machine.execVslideDn v c s
  | .vslideUp v c => Sys2Proof.Machine.execVslideUp v c s
  | .vzipLo v => Sys2Proof.Machine.execVzipLo v s
  | .vzipHi v => Sys2Proof.Machine.execVzipHi v s
  | .vunzipEv v => Sys2Proof.Machine.execVunzipEv v s
  | .vunzipOd v => Sys2Proof.Machine.execVunzipOd v s
  | .vredadd d a k w u fp => Sys2Proof.Machine.execVredadd d a k w u fp s
  | .vredmin d a k w u fp => Sys2Proof.Machine.execVredmin d a k w u fp s
  | .vredmax d a k w u fp => Sys2Proof.Machine.execVredmax d a k w u fp s
  | .vfadd v m => Sys2Proof.Machine.execVfadd v m s
  | .vfsub v m => Sys2Proof.Machine.execVfsub v m s
  | .vfmul v m => Sys2Proof.Machine.execVfmul v m s
  | .vfma v c m => Sys2Proof.Machine.execVfma v c m s
  | .vfnma v c m => Sys2Proof.Machine.execVfnma v c m s
  | .vfmin v => Sys2Proof.Machine.execVfmin v s
  | .vfmax v => Sys2Proof.Machine.execVfmax v s
  | .vcvt d a k z m p dst src => Sys2Proof.Machine.execVcvt d a k z m p dst src s
  | .vpack v sat => Sys2Proof.Machine.execVpack v sat s
  | .vunpack v sx hi => Sys2Proof.Machine.execVunpack v sx hi s
  | .kopAnd d a b => Sys2Proof.Machine.execKopAnd d a b s
  | .kopOr d a b => Sys2Proof.Machine.execKopOr d a b s
  | .kopXor d a b => Sys2Proof.Machine.execKopXor d a b s
  | .kopAndn d a b => Sys2Proof.Machine.execKopAndn d a b s
  | .kopNot d a => Sys2Proof.Machine.execKopNot d a s
  | .kopFromg d a => Sys2Proof.Machine.execKopFromg d a s
  | .kopTog d a => Sys2Proof.Machine.execKopTog d a s
  | .kopLo d a => Sys2Proof.Machine.execKopLo d a s
  | .kpop d a w => Sys2Proof.Machine.execKpop d a w s
  | .kfirst d a w => Sys2Proof.Machine.execKfirst d a w s
  | .vld d a k w disp => Sys2Proof.Machine.execVld d a k w disp s
  | .vst d a k w disp => Sys2Proof.Machine.execVst d a k w disp s
  | .vlds d a b k w => Sys2Proof.Machine.execVlds d a b k w s
  | .vldx d a b sc k w => Sys2Proof.Machine.execVldx d a b sc k w s
  | .vstx d a b sc k w => Sys2Proof.Machine.execVstx d a b sc k w s
  | .ld d a sz sx disp => Sys2Proof.Machine.execLd d a sz sx disp s
  | .st d a sz disp => Sys2Proof.Machine.execSt d a sz disp s
  | .stA d a sz disp => Sys2Proof.Machine.execStA d a sz disp s
  | .ldfe d a disp => Sys2Proof.Machine.execLdfe d a disp s
  | .ldfeE d a disp => Sys2Proof.Machine.execLdfeE d a disp s
  | .stfe d a disp => Sys2Proof.Machine.execStfe d a disp s
  | .feset a => Sys2Proof.Machine.execFeset a s
  | .feclr a => Sys2Proof.Machine.execFeclr a s
  | .amoAdd d a b sz p => Sys2Proof.Machine.execAmoAdd d a b sz p s
  | .amoAnd d a b sz p => Sys2Proof.Machine.execAmoAnd d a b sz p s
  | .amoOr d a b sz p => Sys2Proof.Machine.execAmoOr d a b sz p s
  | .amoXor d a b sz p => Sys2Proof.Machine.execAmoXor d a b sz p s
  | .amoSwap d a b sz p => Sys2Proof.Machine.execAmoSwap d a b sz p s
  | .amoMin d a b sz p => Sys2Proof.Machine.execAmoMin d a b sz p s
  | .amoMax d a b sz p => Sys2Proof.Machine.execAmoMax d a b sz p s
  | .amoMinu d a b sz p => Sys2Proof.Machine.execAmoMinu d a b sz p s
  | .amoMaxu d a b sz p => Sys2Proof.Machine.execAmoMaxu d a b sz p s
  | .amofAdd d a b fmt p => Sys2Proof.Machine.execAmofAdd d a b fmt p s
  | .amofMin d a b fmt p => Sys2Proof.Machine.execAmofMin d a b fmt p s
  | .amofMax d a b fmt p => Sys2Proof.Machine.execAmofMax d a b fmt p s
  | .cas d a b c sz => Sys2Proof.Machine.execCas d a b c sz s
  | .prefC a disp => Sys2Proof.Machine.execPrefC a disp s
  | .prefT a disp => Sys2Proof.Machine.execPrefT a disp s
  | .prefX a disp => Sys2Proof.Machine.execPrefX a disp s
  | .seal a b s0 => Sys2Proof.Machine.execSeal a b s0 s
  | .unseal a b s0 => Sys2Proof.Machine.execUnseal a b s0 s
  | .sealq d a => Sys2Proof.Machine.execSealq d a s
  | .hgive a b => Sys2Proof.Machine.execHgive a b s
  | .htake d a => Sys2Proof.Machine.execHtake d a s
  | .handleArrival buf core => Sys2Proof.Machine.execHandleArrival buf core s
  | .spld d a sz sx disp => Sys2Proof.Machine.execSpld d a sz sx disp s
  | .spst d a sz disp => Sys2Proof.Machine.execSpst d a sz disp s
  | .lea d a disp => Sys2Proof.Machine.execLea d a disp s
  | .leaG d a disp => Sys2Proof.Machine.execLeaG d a disp s
  | .leaGs d a disp => Sys2Proof.Machine.execLeaGs d a disp s
  | .fenceLd s0 => Sys2Proof.Machine.execFenceLd s0 s
  | .fenceSt s0 => Sys2Proof.Machine.execFenceSt s0 s
  | .fence s0 => Sys2Proof.Machine.execFence s0 s
  | .fenceEng s0 => Sys2Proof.Machine.execFenceEng s0 s
  | .bar s0 => Sys2Proof.Machine.execBar s0 s
  | .barvAdd d a s0 => Sys2Proof.Machine.execBarvAdd d a s0 s
  | .barvMin d a s0 => Sys2Proof.Machine.execBarvMin d a s0 s
  | .barvMax d a s0 => Sys2Proof.Machine.execBarvMax d a s0 s
  | .barvMinu d a s0 => Sys2Proof.Machine.execBarvMinu d a s0 s
  | .barvMaxu d a s0 => Sys2Proof.Machine.execBarvMaxu d a s0 s
  | .barvAnd d a s0 => Sys2Proof.Machine.execBarvAnd d a s0 s
  | .barvOr d a s0 => Sys2Proof.Machine.execBarvOr d a s0 s
  | .barvXor d a s0 => Sys2Proof.Machine.execBarvXor d a s0 s
  | .barrierArrival scope core vals => Sys2Proof.Machine.execBarrierArrival scope core vals s
  | .barrierRelease scope => Sys2Proof.Machine.execBarrierRelease scope s
  | .icinv a b s0 => Sys2Proof.Machine.execIcinv a b s0 s
  | .icinvDiscard base len => Sys2Proof.Machine.execIcinvDiscard base len s
  | .dsync => Sys2Proof.Machine.execDsync s
  | .tsync => Sys2Proof.Machine.execTsync s
  | .cjoin d a b s0 => Sys2Proof.Machine.execCjoin d a b s0 s
  | .cleave d => Sys2Proof.Machine.execCleave d s
  | .cbrAny d hint im => Sys2Proof.Machine.execCbrAny d hint im s
  | .cbrAll d hint im => Sys2Proof.Machine.execCbrAll d hint im s
  | .credAdd d a => Sys2Proof.Machine.execCredAdd d a s
  | .credMin d a => Sys2Proof.Machine.execCredMin d a s
  | .credMax d a => Sys2Proof.Machine.execCredMax d a s
  | .credMinu d a => Sys2Proof.Machine.execCredMinu d a s
  | .credMaxu d a => Sys2Proof.Machine.execCredMaxu d a s
  | .cstatGrp d => Sys2Proof.Machine.execCstatGrp d s
  | .cstatSeq d => Sys2Proof.Machine.execCstatSeq d s
  | .cstatSpec d => Sys2Proof.Machine.execCstatSpec d s
  | .collectiveArrival gid scope seq count vote => Sys2Proof.Machine.execCollectiveArrival gid scope seq count vote s
  | .collectiveResult gid scope => Sys2Proof.Machine.execCollectiveResult gid scope s
  | .cbtimeo gid scope => Sys2Proof.Machine.execCbtimeo gid scope s
  | .cbbroken gid scope reason info => Sys2Proof.Machine.execCbbroken gid scope reason info s
  | .tld d c1 c0 lt dir y => Sys2Proof.Machine.execTld d c1 c0 lt dir y s
  | .tst d c1 c0 lt dir y => Sys2Proof.Machine.execTst d c1 c0 lt dir y s
  | .tzero d y => Sys2Proof.Machine.execTzero d y s
  | .mzero d y => Sys2Proof.Machine.execMzero d y s
  | .mmaBf16 m y => Sys2Proof.Machine.execMmaBf16 m y s
  | .mmaF16 m y => Sys2Proof.Machine.execMmaF16 m y s
  | .mmaE4m3 m y => Sys2Proof.Machine.execMmaE4m3 m y s
  | .mmaE5e4 m y => Sys2Proof.Machine.execMmaE5e4 m y s
  | .mmaE4e5 m y => Sys2Proof.Machine.execMmaE4e5 m y s
  | .mmaI8 m y => Sys2Proof.Machine.execMmaI8 m y s
  | .mmaUi8i8 m y => Sys2Proof.Machine.execMmaUi8i8 m y s
  | .mmaE2m1 m y => Sys2Proof.Machine.execMmaE2m1 m y s
  | .mmaTw8i8 m y => Sys2Proof.Machine.execMmaTw8i8 m y s
  | .mmaTw8e4 m y => Sys2Proof.Machine.execMmaTw8e4 m y s
  | .mmaTw8bf m y => Sys2Proof.Machine.execMmaTw8bf m y s
  | .mmaStream op m y => Sys2Proof.Machine.execMmaStream op m y s
  | .mrd m y => Sys2Proof.Machine.execMrd m y s
  | .mst d fmt rm lt dir rpt y => Sys2Proof.Machine.execMst d fmt rm lt dir rpt y s
  | .mstIn d fmt rm lt dir rpt y => Sys2Proof.Machine.execMstIn d fmt rm lt dir rpt y s
  | .mwait => Sys2Proof.Machine.execMwait s
  | .mwaitAcc a => Sys2Proof.Machine.execMwaitAcc a s
  | .mstat d a => Sys2Proof.Machine.execMstat d a s
  | .mstatC d a => Sys2Proof.Machine.execMstatC d a s
  | .mcmd d a b c r x => Sys2Proof.Machine.execMcmd d a b c r x s
  | .mcap a => Sys2Proof.Machine.execMcap a s
  | .mcmdAtTarget x r tail cap sender note req => Sys2Proof.Machine.execMcmdAtTarget x r tail cap sender note req s
  | .matrixCommandStart id => Sys2Proof.Machine.execMatrixCommandStart id s
  | .bellowsBoundary active requestsBelow stopsBelow => Sys2Proof.Machine.execBellowsBoundary active requestsBelow stopsBelow s
  | .matrixCommandComplete id => Sys2Proof.Machine.execMatrixCommandComplete id s
  | .cpy slt dlt rank res rpt y => Sys2Proof.Machine.execCpy slt dlt rank res rpt y s
  | .cpyr slt dlt rank res op fmt rpt y => Sys2Proof.Machine.execCpyr slt dlt rank res op fmt rpt y s
  | .gath slt ilt dlt res rpt y => Sys2Proof.Machine.execGath slt ilt dlt res rpt y s
  | .gathQ slt ilt res rpt y => Sys2Proof.Machine.execGathQ slt ilt res rpt y s
  | .pack slt mlt dlt rpt y => Sys2Proof.Machine.execPack slt mlt dlt rpt y s
  | .pull c1 c0 lt rpt y => Sys2Proof.Machine.execPull c1 c0 lt rpt y s
  | .kick d a b c => Sys2Proof.Machine.execKick d a b c s
  | .kickNoticeArrival n req => Sys2Proof.Machine.execKickNoticeArrival n req s
  | .pullAckArrival sem => Sys2Proof.Machine.execPullAckArrival sem s
  | .engineCommandStart gather => Sys2Proof.Machine.execEngineCommandStart gather s
  | .engineCommandComplete gather => Sys2Proof.Machine.execEngineCommandComplete gather s
  | .qfence m => Sys2Proof.Machine.execQfence m s
  | .sinc s0 n => Sys2Proof.Machine.execSinc s0 n s
  | .swait s0 n => Sys2Proof.Machine.execSwait s0 n s
  | .swaitNb d s0 n => Sys2Proof.Machine.execSwaitNb d s0 n s
  | .sget d s0 => Sys2Proof.Machine.execSget d s0 s
  | .sset s0 n => Sys2Proof.Machine.execSset s0 n s
  | .ssetReg a s0 => Sys2Proof.Machine.execSsetReg a s0 s
  | .lyt a lt => Sys2Proof.Machine.execLyt a lt s
  | .lytq d lt w => Sys2Proof.Machine.execLytq d lt w s
  | .onew d b c rpt y => Sys2Proof.Machine.execOnew d b c rpt y s
  | .onewAtTarget index off cfg sender req => Sys2Proof.Machine.execOnewAtTarget index off cfg sender req s
  | .odel d rpt y => Sys2Proof.Machine.execOdel d rpt y s
  | .odelAtTarget index sender req => Sys2Proof.Machine.execOdelAtTarget index sender req s
  | .ocfgLeak a b => Sys2Proof.Machine.execOcfgLeak a b s
  | .ocfgTheta a b => Sys2Proof.Machine.execOcfgTheta a b s
  | .ocfgUser a b => Sys2Proof.Machine.execOcfgUser a b s
  | .ocfgType a b => Sys2Proof.Machine.execOcfgType a b s
  | .oget d a => Sys2Proof.Machine.execOget d a s
  | .ogetRef d a => Sys2Proof.Machine.execOgetRef d a s
  | .ogetSh d a => Sys2Proof.Machine.execOgetSh d a s
  | .ogetW d a w => Sys2Proof.Machine.execOgetW d a w s
  | .ogetHd d a n => Sys2Proof.Machine.execOgetHd d a n s
  | .oput d a => Sys2Proof.Machine.execOput d a s
  | .oputW d a w => Sys2Proof.Machine.execOputW d a w s
  | .eslot d a b => Sys2Proof.Machine.execEslot d a b s
  | .eslotTag d a b => Sys2Proof.Machine.execEslotTag d a b s
  | .eslotFree a b => Sys2Proof.Machine.execEslotFree a b s
  | .esend d b c y => Sys2Proof.Machine.execEsend d b c y s
  | .esendv d b c n y => Sys2Proof.Machine.execEsendv d b c n y s
  | .edamp d a b c fc z k => Sys2Proof.Machine.execEdamp d a b c fc z k s
  | .efan d b c y => Sys2Proof.Machine.execEfan d b c y s
  | .etick d a => Sys2Proof.Machine.execEtick d a s
  | .etickSet d a => Sys2Proof.Machine.execEtickSet d a s
  | .enow d => Sys2Proof.Machine.execEnow d s
  | .esnap d a b => Sys2Proof.Machine.execEsnap d a b s
  | .esnapClose d => Sys2Proof.Machine.execEsnapClose d s
  | .esread d b cut cur y => Sys2Proof.Machine.execEsread d b cut cur y s
  | .esreadAtTarget first count cut cur sender req => Sys2Proof.Machine.execEsreadAtTarget first count cut cur sender req s
  | .cvqUn d => Sys2Proof.Machine.execCvqUn d s
  | .cvqRes d => Sys2Proof.Machine.execCvqRes d s
  | .cvqLate d => Sys2Proof.Machine.execCvqLate d s
  | .cvqStale d => Sys2Proof.Machine.execCvqStale d s
  | .cvqDrop d => Sys2Proof.Machine.execCvqDrop d s
  | .cvqPend d => Sys2Proof.Machine.execCvqPend d s
  | .cvqSent d => Sys2Proof.Machine.execCvqSent d s
  | .cvqRecv d => Sys2Proof.Machine.execCvqRecv d s
  | .cvqSlate d => Sys2Proof.Machine.execCvqSlate d s
  | .cvqLateC d => Sys2Proof.Machine.execCvqLateC d s
  | .cvqStaleC d => Sys2Proof.Machine.execCvqStaleC d s
  | .cvqDropC d => Sys2Proof.Machine.execCvqDropC d s
  | .cvqSlateC d => Sys2Proof.Machine.execCvqSlateC d s
  | .hnd a b c t => Sys2Proof.Machine.execHnd a b c t s
  | .ehold d => Sys2Proof.Machine.execEhold d s
  | .eholdRel d => Sys2Proof.Machine.execEholdRel d s
  | .eholdQ d => Sys2Proof.Machine.execEholdQ d s
  | .droneWritebackDone => Sys2Proof.Machine.execDroneWritebackDone s
  | .eventAccept e req => Sys2Proof.Machine.execEventAccept e req s
  | .nowAdvance => Sys2Proof.Machine.execNowAdvance s
  | .eventDelivery => Sys2Proof.Machine.execEventDelivery s
  | .handlerStart => Sys2Proof.Machine.execHandlerStart s
  | .tnew d a b => Sys2Proof.Machine.execTnew d a b s
  | .tnewAtHome r => Sys2Proof.Machine.execTnewAtHome r s
  | .tdec a => Sys2Proof.Machine.execTdec a s
  | .taskDecrement r => Sys2Proof.Machine.execTaskDecrement r s
  | .runListStart => Sys2Proof.Machine.execRunListStart s
  | .qclaim d a => Sys2Proof.Machine.execQclaim d a s
  | .qpub d a b => Sys2Proof.Machine.execQpub d a b s
  | .qsteal d a => Sys2Proof.Machine.execQsteal d a s
  | .qlen d a => Sys2Proof.Machine.execQlen d a s
  | .qlenClaims d a => Sys2Proof.Machine.execQlenClaims d a s
  | .qlenSteals d a => Sys2Proof.Machine.execQlenSteals d a s
  | .qlenFail d a => Sys2Proof.Machine.execQlenFail d a s
  | .qreset d a => Sys2Proof.Machine.execQreset d a s
  | .qresetBind d a b => Sys2Proof.Machine.execQresetBind d a b s
  | .qresetUnbind d a => Sys2Proof.Machine.execQresetUnbind d a s
  | .queueRequestAtController r => Sys2Proof.Machine.execQueueRequestAtController r s
  | .terminationNotice qid => Sys2Proof.Machine.execTerminationNotice qid s
  | .fcast d a => Sys2Proof.Machine.execFcast d a s
  | .fcastQ d a => Sys2Proof.Machine.execFcastQ d a s
  | .tstamp => Sys2Proof.Machine.execTstamp s
  | .tstampNow d => Sys2Proof.Machine.execTstampNow d s
  | .tstampQ d => Sys2Proof.Machine.execTstampQ d s
  | .channelEntryArrival ch v => Sys2Proof.Machine.execChannelEntryArrival ch v s
  | .requestAtHome r => Sys2Proof.Machine.execRequestAtHome r s
  | .replyArrival id ext => Sys2Proof.Machine.execReplyArrival id ext s
  | .rnrRetry id => Sys2Proof.Machine.execRnrRetry id s
  | .acceptanceNotice id => Sys2Proof.Machine.execAcceptanceNotice id s
  | .cxlDeviceReadComplete unit => Sys2Proof.Machine.execCxlDeviceReadComplete unit s
  | .sectorBufferExpiry unit => Sys2Proof.Machine.execSectorBufferExpiry unit s
  | .deviceSemaphoreAdd sem v => Sys2Proof.Machine.execDeviceSemaphoreAdd sem v s
  | .doorbell v => Sys2Proof.Machine.execDoorbell v s
  | .translationWalk va kind => Sys2Proof.Machine.execTranslationWalk va kind s
  | .tlbInvalidation base len all => Sys2Proof.Machine.execTlbInvalidation base len all s
  | .migrationRequest m req => Sys2Proof.Machine.execMigrationRequest m req s
  | .migrationRoundEnd page => Sys2Proof.Machine.execMigrationRoundEnd page s
  | .migrationFinalCopy page => Sys2Proof.Machine.execMigrationFinalCopy page s
  | .forwardedAccess r => Sys2Proof.Machine.execForwardedAccess r s
  | .migrationComplete page => Sys2Proof.Machine.execMigrationComplete page s
  | .preemptInterrupt => Sys2Proof.Machine.execPreemptInterrupt s
  | .delayedExpiry ctx => Sys2Proof.Machine.execDelayedExpiry ctx s
  | .quietPointReached ctx => Sys2Proof.Machine.execQuietPointReached ctx s
  | .clusterDump => Sys2Proof.Machine.execClusterDump s
  | .clusterReset cluster pkg => Sys2Proof.Machine.execClusterReset cluster pkg s
  | .boundaryReopen cluster => Sys2Proof.Machine.execBoundaryReopen cluster s
  | .packageReset => Sys2Proof.Machine.execPackageReset s
  | .flitReplay link => Sys2Proof.Machine.execFlitReplay link s
  | .linkRetrain link ok => Sys2Proof.Machine.execLinkRetrain link ok s
  | .linkFailure pkg link unreachable => Sys2Proof.Machine.execLinkFailure pkg link unreachable s
  | .failureAnnouncement pkg => Sys2Proof.Machine.execFailureAnnouncement pkg s
  | .inDoubtTimeout pkg => Sys2Proof.Machine.execInDoubtTimeout pkg s
  | .hostRead seq ga len => Sys2Proof.Machine.execHostRead seq ga len s
  | .hostWrite seq ga data => Sys2Proof.Machine.execHostWrite seq ga data s
  | .hostLaunch rec => Sys2Proof.Machine.execHostLaunch rec s
  | .hostResync addr => Sys2Proof.Machine.execHostResync addr s
  | .hcallAnswer core ctx gen ticket value => Sys2Proof.Machine.execHcallAnswer core ctx gen ticket value s
  | .dbgrd cluster reg => Sys2Proof.Machine.execDbgrd cluster reg s
  | .dbgwr cluster reg v => Sys2Proof.Machine.execDbgwr cluster reg v s
  | .dctlHalt cluster => Sys2Proof.Machine.execDctlHalt cluster s
  | .dctlResume cluster => Sys2Proof.Machine.execDctlResume cluster s
  | .dctlStep cluster => Sys2Proof.Machine.execDctlStep cluster s
  | .ctxrd core ctx off => Sys2Proof.Machine.execCtxrd core ctx off s
  | .ctxwr core ctx off v => Sys2Proof.Machine.execCtxwr core ctx off v s
  | .memrd ga len => Sys2Proof.Machine.execMemrd ga len s
  | .memwr ga data => Sys2Proof.Machine.execMemwr ga data s
  | .patch cluster va line scope => Sys2Proof.Machine.execPatch cluster va line scope s
  | .trace t => Sys2Proof.Machine.execTrace t s
  | .traceSample ctx => Sys2Proof.Machine.execTraceSample ctx s
  | .chal => Sys2Proof.Machine.execChal s
  | .unlock token => Sys2Proof.Machine.execUnlock token s
  | .relock => Sys2Proof.Machine.execRelock s
  | .attest nonce => Sys2Proof.Machine.execAttest nonce s
  | .pwrlim watts => Sys2Proof.Machine.execPwrlim watts s
  | .life => Sys2Proof.Machine.execLife s
  | .powerManagerTick => Sys2Proof.Machine.execPowerManagerTick s
  | .powerCap => Sys2Proof.Machine.execPowerCap s
  | .powerCapLift => Sys2Proof.Machine.execPowerCapLift s
  | .routerPowerGate router => Sys2Proof.Machine.execRouterPowerGate router s
  | .routerWake router => Sys2Proof.Machine.execRouterWake router s
  | .clusterPowerOff cluster => Sys2Proof.Machine.execClusterPowerOff cluster s
  | .clusterPowerOn cluster => Sys2Proof.Machine.execClusterPowerOn cluster s
  | .packageSleep => Sys2Proof.Machine.execPackageSleep s
  | .packageWake => Sys2Proof.Machine.execPackageWake s
  | .lifetimeHoursWrite => Sys2Proof.Machine.execLifetimeHoursWrite s
  | .lifetimeCounterWrite => Sys2Proof.Machine.execLifetimeCounterWrite s
  | .illop op => Sys2Proof.Machine.execIllop op s
  | .eventQueueCommandStart => Sys2Proof.Machine.execEventQueueCommandStart s
  | .eventQueueCommandComplete => Sys2Proof.Machine.execEventQueueCommandComplete s
  | .allowanceReturn port cls => Sys2Proof.Machine.execAllowanceReturn port cls s
  | .hostAcknowledgement id data => Sys2Proof.Machine.execHostAcknowledgement id data s
  | .jobRestore => Sys2Proof.Machine.execJobRestore s
  | .jobEnded => Sys2Proof.Machine.execJobEnded s
  | .scrub scratch ga bits => Sys2Proof.Machine.execScrub scratch ga bits s
  | .poolRegionAssignment port base size owner => Sys2Proof.Machine.execPoolRegionAssignment port base size owner s
  | .bootFlashImageWrite image data => Sys2Proof.Machine.execBootFlashImageWrite image data s
  | .ownershipRecord record => Sys2Proof.Machine.execOwnershipRecord record s
  | .lossOfPower => Sys2Proof.Machine.execLossOfPower s

end Sys2Proof.Machine
end

