-- ==== Sys2Proof/Machine/Moves.lean ====
section
/-!
DEFINITION. The moves of a step: an event from outside, an event of a unit, or a context's issue; which can be made, which is
made, and what it does.
-/

namespace Sys2Proof.Machine

open Sys2Proof

/-- A move. -/
inductive Move where
  /-- The oldest event from outside. -/
  | outside
  /-- An event of a unit of the machine. -/
  | unit (i : Instr)
  /-- The context issues, or takes an interrupt. -/
  | issue (i : Fin 11)

/-- Every move inside the machine that can be made now. (DESIGN CHOICE: log entry 6.) -/
noncomputable def State.options (s : State) : List Move :=
  s.enabled.map Move.unit ++
    (match s.chosen with
     | some i => [Move.issue i]
     | none => [])

/-- The move that is made of those that can be: with one choice, that one. (DESIGN CHOICE: log entry 6.) -/
noncomputable def State.pick (s : State) (l : List Move) : Option Move :=
  match l with
  | [] => none
  | [m] => some m
  | m :: l => some (((m :: l)[Config.schedule s.tick % (l.length + 1)]?).getD m)

/-- The opcodes after whose issue no read performed before it serves (R192): `trap`, `sysc` and `rte`, the transfers of control but
`jtab`, whose own read comes first, full-empty accesses, atomics, barriers, `icinv`, `dsync`, `tsync`, the collective branches and
reductions, and the task and queue instructions (R333). -/
def endsEarly (op : Nat) : Bool :=
  (2 ≤ op && op ≤ 4) || (0x40 ≤ op && op ≤ 0x4A && op != 0x47) || (0xD0 ≤ op && op ≤ 0xD8) || (0x82 ≤ op && op ≤ 0x87) || (0x91 ≤ op && op ≤ 0x95) || op == 0x98 || op == 0x99

/-- A task or queue instruction that sends nothing: `fcast`, and the forms of `tstamp` that only read; or whose own reads come first:
`qreset.bind`. -/
def asksNothing : Instr → Bool
  | .fcast .. => true
  | .qresetBind .. => true
  | .tstampNow _ => true
  | .tstampQ _ => true
  | _ => false

/-- Whether an early read of the issuing context serves no more once this instruction issues: it is its handler's first one, or
one of those, or a fence of kind loads, all or engines whose scope includes the read's home. -/
def State.spendsEarly (s : State) (i : Instr) (op : Nat) (e : Early) : Bool :=
  e.ctx == s.cur && (s.ctx.vectoring || (endsEarly op && !asksNothing i) || match i with
    | .fenceLd n => s.inScope e.ga n.toNat
    | .fence n => s.inScope e.ga n.toNat
    | .fenceEng n => s.inScope e.ga n.toNat
    | _ => false)

/-- The early reads that the issue of an instruction leaves. -/
def State.keepEarly (s : State) (i : Instr) (op : Nat) : State :=
  { s with early := s.early.filter fun e => !s.spendsEarly i op e }

/-- The opcode at a head. -/
def Line.opcode (l : Line) (pc : Word) : Nat := lineHead l.bytes ((pc.toNat % 64 - 2) / 2) / 64 % 256

/-- A context's issue. An interrupt that reaches it comes first (R344), and uses up a step of the debug module (R393); else its
next instruction is fetched and executed. While tests of a cycle's semaphores are due, the issue is of the next cycle, once they are
made (R38, R58). (DESIGN CHOICE: log entry 94.) -/
noncomputable def State.issueAt (s : State) (i : Fin 11) : Host.Outcome State Fault Refusal :=
  let s := match s.dueSems with
    | [] => s
    | _ => s.passCycles 1
  match s.interruptOf i with
  | some cause => .next ((s.takeInterrupt i cause).stepped i)
  | none =>
    let dbg := s.dbg
    let s := s.turnOf i
    match s.fetchNext i with
    | .instr l x c =>
      match exec c (((s.fetchedLine i l x).keepEarly c (l.opcode (s.at i).pc)).modifyAt i fun c => { c with vectoring := false }) with
      | .next t => .next (t.unlessIssued i dbg)
      | o => o
    | .trap l x t => .next ((s.fetchTrap i l x t).unlessIssued i dbg)

/-- A context is passed over when a stall holds its instruction: the choice goes on among the others in the same cycle (R58). -/
noncomputable def State.issueFrom (s : State) : Nat → List (Fin 11) → Host.Outcome State Fault Refusal
  | 0, _ => .next s
  | f + 1, passed =>
    match s.chosenOf passed with
    | none => .next s
    | some i =>
      match s.issueAt i with
      | .next t => if t.stalled then s.issueFrom f (i :: passed) else .next t
      | o => o

/-- What a move does. -/
noncomputable def State.make (s : State) (m : Option Move) : Host.Outcome State Fault Refusal :=
  match m with
  | none => .next s
  | some .outside =>
    (match s.inbox with
     | [] => .next s
     | i :: l => exec i { s with inbox := l })
  | some (.unit i) => exec i s
  | some (.issue _) => s.issueFrom 11 []

end Sys2Proof.Machine
end

