-- ==== Sys2Proof/Machine/Step.lean ====
section
/-!
DEFINITION. One step of the machine: time passes, and then one agent moves: an event from outside, an event of a unit, or the
context that issues. Which of them moves, when several can, is free.
-/

namespace Sys2Proof.Machine

open Sys2Proof

/-- One step: time passes, and one move is made. The oldest event from outside is one that can be made. -/
noncomputable def step (s : State) : Host.Outcome State Fault Refusal :=
  match s.inbox with
  | [] => s.clock.make (s.clock.pick s.clock.options)
  | _ :: _ => s.clock.make (s.clock.pick (.outside :: s.clock.options))

/-! ### A program of one instruction -/

/-- The 64 bytes of a line with one head and its tail (R29 to R31). -/
def oneLine (head tail n : Nat) : List Byte :=
  bytesOf (2048 + 32 * n) 2 ++ bytesOf head 2 ++ List.replicate (60 - n) 0 ++ bytesOf tail n

/-- Write bytes one after the other. -/
def Memory.lay (m : Memory) (a : Nat) : List Byte → Memory
  | [] => m
  | b :: t => Memory.lay { m with cells := cellsSet m.cells a b } (a + 1) t

/-- Where `withFetchWord` puts the line, and the four tables of a walk that maps the slice's first 2 MiB to itself. -/
def fetchPlace : Nat := 0x10000

/-- The state with one instruction of `nbits` bits laid out as a line where the control context fetches next, its page mapped
and its job running: what a loader and a launch do (R387, R388). (DEDUCED: log entry 9.) -/
def State.withFetchWord (s : State) (nbits w : Nat) : State :=
  let head := w / 2 ^ (nbits - 16)
  let base := s.ownBase
  let n := tailBytes (head / 16384 % 4)
  let m := s.mem.lay (base + fetchPlace) (oneLine head (w % 2 ^ (nbits - 16)) n)
  let m := m.write (base + 0x1000) 8 (base + 0x2001)
  let m := m.write (base + 0x2000) 8 (base + 0x3001)
  let m := m.write (base + 0x3000) 8 (base + 0x4001)
  let m := m.write (base + 0x4000) 8 (base + 0x3F)
  let c := s.at 0
  let s : State := { s with
    mem := m, launch := { s.launch with state := 2 }, guard := { s.guard with security := 0, offClusters := [] } }
  s.putAt 0 { c with pc := BitVec.ofNat 64 (fetchPlace + 2), line := none, block := none, root := BitVec.ofNat 64 (base + 0x1000) }

end Sys2Proof.Machine
end

