-- ==== Sys2Proof/Safety.lean ====
section
/-!
DEFINITION. The terms that claims are stated in: what a safe run is, when an instruction issues, and the state in which it has
completed.
-/

namespace Sys2Proof

open Sys2Proof.Machine

/-- A step goes on: no fault, no refusal. -/
def goesOn (s : State) : Prop := ∃ t, Machine.step s = .next t

/-- The states that `n` steps reach. -/
def Reaches : Nat → State → State → Prop
  | 0, s, t => s = t
  | n + 1, s, t => ∃ u, Machine.step s = .next u ∧ Reaches n u t

/-- A run is safe when every state it reaches goes on to another and holds its memory in canonical form. -/
def SafeFrom (s : State) : Prop := ∀ n t, Reaches n s t → goesOn t ∧ t.mem.wf = true

/-! ### When an instruction issues, and what it comes to -/

namespace Machine

/-- The instruction issues now: every register operand passes its checks (R44), the context has the privilege (R346), a
window does not hold it back (R308), a pending store does not (R309), every queue and channel it reads has an entry for it,
and every one it writes has room (R60, R238, R239). -/
def State.canIssue (s : State) (cls : Class) (uses : List Use) (priv : Bool) : Bool :=
  uses.all (fun u => (s.useFault u).isNone) && (!priv || s.ctx.pl) &&
    (s.ctx.spec.isEmpty || (cls == .free && !uses.any Use.special)) && !s.ctx.windowFull &&
    (cls != .ordered || s.ctx.hold.isEmpty) && (sources uses).all (fun q => (s.entry q).isSome) &&
    (s.fullDest uses).isNone

/-- The instruction has completed with effect `t`: the entries it read are taken (R77), its context stands at the next head (R32),
and what every issue leaves is noted (R60, R192). -/
def State.completed (t : State) (uses : List Use) : State :=
  ((t.consume (sources uses)).put (t.consume (sources uses)).ctx.advance).issued t.cur uses

/-- Whenever the instruction issues in a state of which `when` holds, it completes with effect `f`. -/
def CompletesIf (i : Instr) (cls : Class) (uses : List Use) (priv : Bool) (when : State → Prop) (f : State → State) : Prop :=
  ∀ s, s.canIssue cls uses priv = true → when s → exec i s = .next ((f s).completed uses)

/-- Whenever the instruction issues, it completes with effect `f`. -/
def Completes (i : Instr) (cls : Class) (uses : List Use) (priv : Bool) (f : State → State) : Prop :=
  ∀ s, s.canIssue cls uses priv = true → exec i s = .next ((f s).completed uses)

/-- Whenever it issues in such a state, it takes a trap (or defers it, in a window: R312), with no other effect. -/
def TrapsIf (i : Instr) (cls : Class) (uses : List Use) (priv : Bool) (when : State → Prop) (t : State → TrapInfo) : Prop :=
  ∀ s, s.canIssue cls uses priv = true → when s → exec i s = .next ((s.raise (t s)).issued s.cur uses)

/-- Whenever it issues in such a state, it has effect `f` and control goes to the target. -/
def GoesIf (i : Instr) (cls : Class) (uses : List Use) (priv : Bool) (when : State → Prop) (f : State → State)
    (target : State → Word) : Prop :=
  ∀ s, s.canIssue cls uses priv = true → when s → exec i s = .next ((s.finish (sources uses) (.jump (f s) (target s))).issued s.cur uses)

/-- Whenever it issues in such a state, its context waits, with what it has done so far. -/
def WaitsIf (i : Instr) (cls : Class) (uses : List Use) (priv : Bool) (when : State → Prop) (f : State → State) (w : State → Wait) :
    Prop :=
  ∀ s, s.canIssue cls uses priv = true → when s → exec i s = .next (((f s).blockOn (w s) (sources uses)).issued s.cur uses)

/-- A message leaves for its home (R160): it is numbered and has no reply yet, and the reads performed early for later instructions of
its context at the same home are void (R192). -/
def State.asked (s : State) (m : Msg) : State :=
  { s.noEarly m.ga with
    seqNo := s.seqNo + 1
    net := s.net ++ [⟨s.seqNo, s.cur, s.ctx.gen, m.ga, m.va, s.ctx.pc, m.msg, m.posted, m.adaptive, 0, [], .sent, 0⟩] }

/-- Whenever it issues in such a state, it sends one message, and its context waits for the reply. -/
def AsksIf (i : Instr) (cls : Class) (uses : List Use) (priv : Bool) (when : State → Prop) (f : State → State) (m : State → Msg)
    (k : State → After) : Prop :=
  ∀ s, s.canIssue cls uses priv = true → when s →
    exec i s = .next ((((f s).asked (m s)).blockOn (.reply [(f s).seqNo] [] (k s)) (sources uses)).issued s.cur uses)

/-- An instruction of one scalar source and a scalar destination computes a function. -/
def Unary (i : Field → Field → Instr) (f : Word → Word) : Prop :=
  ∀ d a, Completes (i d a) .free [.wG d, .rG 1 a] false fun s => s.writeG d (f (s.readG a))

/-- An instruction of two scalar sources and a scalar destination computes a function. -/
def Binary (i : Field → Field → Field → Instr) (f : Word → Word → Word) : Prop :=
  ∀ d a b, Completes (i d a b) .free [.wG d, .rG 1 a, .rG 2 b] false fun s => s.writeG d (f (s.readG a) (s.readG b))

/-! ### What an instruction leaves as it was -/

/-- From `s` to `t` nothing outside the issuing context has changed, but what any issue may touch: queues, channels and what
leaves through them (R60, R77), the reads made early (R192), whether the choice of a context passes on (R58), the debug module and
trace (R392, R396), the order of blocks, and the two counters of R56 and R239. Every other context is as it was. -/
def State.onlyContext (s t : State) : Prop :=
  { t with
    ctxs := s.ctxs, dbg := s.dbg, sent := s.sent, seqNo := s.seqNo, chans := s.chans, away := s.away
    slots := s.slots, early := s.early, stalled := s.stalled
    eng := { t.eng with ret := s.eng.ret }
    regs := { t.regs with lodcnt := s.regs.lodcnt, gdivcnt := s.regs.gdivcnt } } = s ∧
  ∀ j, j ≠ s.cur → t.at j = s.at j

/-- The exception registers, STATUS, FRM and VSTART of the issuing context, which only a trap or an instruction that names
one changes. -/
def Ctx.sameStatus (c d : Ctx) : Prop :=
  d.status = c.status ∧ d.cause = c.cause ∧ d.epc = c.epc ∧ d.faddr = c.faddr ∧ d.finfo = c.finfo ∧ d.vstart = c.vstart ∧
    d.frm = c.frm ∧ d.srcount = c.srcount

/-- The registers of an issuing context other than general register `d`. -/
def Ctx.sameRegs (c d : Ctx) (n : Nat) : Prop :=
  (∀ m, m ≠ n → nth d.g m 0 = nth c.g m 0) ∧ d.v = c.v ∧ d.f = c.f ∧ d.k = c.k ∧ d.root = c.root ∧ d.sn = c.sn ∧ d.vn = c.vn ∧
    d.pri = c.pri ∧ d.live = c.live ∧ d.gen = c.gen ∧ d.hold = c.hold ∧ d.cgrp = c.cgrp ∧ d.cseq = c.cseq ∧ d.ctimeo = c.ctimeo ∧
    d.hobj = c.hobj ∧ d.task = c.task ∧ d.qlast = c.qlast ∧ d.dtime = c.dtime ∧ d.hres = c.hres ∧ d.hscr = c.hscr

/-- The frame of an instruction whose one destination is general register `d`: whatever comes of it, memory's every byte,
everything outside the context, and the context's other registers are as they were; and unless it trapped, so are the
exception and status registers. -/
def ScalarFrame (i : Instr) (d : Field) : Prop :=
  ∀ s t, exec i s = .next t →
    (∀ a, t.mem.byte a = s.mem.byte a) ∧ s.onlyContext t ∧ s.ctx.sameRegs t.ctx d.toNat ∧
      (t.ctx.vectoring = false → s.ctx.sameStatus t.ctx)

end Machine

end Sys2Proof
end

