-- ==== Sys2Proof/Certificates/Slice0/Obligations.lean ====
section
/-!
DEFINITION. The statements, family by family, each with the rules of the specification it says.
-/

open Sys2Proof Sys2Proof.Machine

/-! ### Integer instructions -/

namespace Sys2Proof.Claims

/-- R79: the condition that a code names holds of two values. -/
def holds (c : BitVec 4) (a b : Word) : Bool :=
  match c.toNat with
  | 0 => a = b
  | 1 => a ≠ b
  | 2 => a.toInt < b.toInt
  | 3 => b.toInt ≤ a.toInt
  | 4 => a.toNat < b.toNat
  | 5 => b.toNat ≤ a.toNat
  | 6 => a &&& b = 0
  | _ => a &&& b ≠ 0

/-- R82: quotients and remainders. -/
def quotient (signed : Bool) (a b : Word) : Word :=
  if b = 0 then BitVec.allOnes 64
  else if signed && a == BitVec.intMin 64 && b == BitVec.allOnes 64 then BitVec.intMin 64
  else if signed then BitVec.ofInt 64 (a.toInt.tdiv b.toInt) else BitVec.ofNat 64 (a.toNat / b.toNat)

def remainder (signed : Bool) (a b : Word) : Word :=
  if b = 0 then a
  else if signed && a == BitVec.intMin 64 && b == BitVec.allOnes 64 then 0
  else if signed then BitVec.ofInt 64 (a.toInt.tmod b.toInt) else BitVec.ofNat 64 (a.toNat % b.toNat)

/-- R84: `n` zero bits stand above the highest one bit. -/
def LeadingZeros (x : Word) (n : Nat) : Prop :=
  n ≤ 64 ∧ (∀ i, 64 - n ≤ i → x.getLsbD i = false) ∧ (n < 64 → x.getLsbD (63 - n) = true)

/-- R84: `n` zero bits stand below the lowest one bit. -/
def TrailingZeros (x : Word) (n : Nat) : Prop :=
  n ≤ 64 ∧ (∀ i, i < n → x.getLsbD i = false) ∧ (n < 64 → x.getLsbD n = true)

end Sys2Proof.Claims

/-- R81, R82: addition, subtraction, multiplication, and division and remainder with their corners; and that q × b + m = a for
every b but 0. -/
def Obligations.IntegerArithmetic : Prop :=
  Binary .add (fun x y => x + y) ∧ Binary .sub (fun x y => x - y) ∧ Binary .mul (fun x y => x * y) ∧
  Binary .mulh (fun x y => BitVec.ofInt 64 (x.toInt * y.toInt / 2 ^ 64)) ∧
  Binary .mulhu (fun x y => BitVec.ofNat 64 (x.toNat * y.toNat / 2 ^ 64)) ∧
  Binary .div (Claims.quotient true) ∧ Binary .divu (Claims.quotient false) ∧
  Binary .rem (Claims.remainder true) ∧ Binary .remu (Claims.remainder false) ∧
  ∀ signed a b, b ≠ 0 → Claims.quotient signed a b * b + Claims.remainder signed a b = a

/-- R83: logic, and the shifts by the low six bits of an amount, in both forms. -/
def Obligations.IntegerLogic : Prop :=
  Binary .and (fun x y => x &&& y) ∧ Binary .or (fun x y => x ||| y) ∧ Binary .xor (fun x y => x ^^^ y) ∧
  Binary .andn (fun x y => x &&& ~~~y) ∧ Binary .orn (fun x y => x ||| ~~~y) ∧
  Binary .shl (fun x y => x <<< (y.toNat % 64)) ∧ Binary .shr (fun x y => x >>> (y.toNat % 64)) ∧
  Binary .sra (fun x y => x.sshiftRight (y.toNat % 64)) ∧
  Binary .rot (fun x y => (x <<< (y.toNat % 64)) ||| (x >>> (64 - y.toNat % 64))) ∧
  ∀ n : BitVec 6, Unary (.shli · · n) (fun x => x <<< n.toNat) ∧ Unary (.shri · · n) (fun x => x >>> n.toNat) ∧
    Unary (.srai · · n) (fun x => x.sshiftRight n.toNat) ∧
    Unary (.roti · · n) (fun x => (x <<< n.toNat) ||| (x >>> (64 - n.toNat)))

/-- R84 to R88: counts, magnitude, minima and maxima; extension, bit fields (`bfi` reads D and writes it), address arithmetic, moves and selection. -/
def Obligations.IntegerFields : Prop :=
  (∃ f : Word → Nat, (∀ x, Claims.LeadingZeros x (f x)) ∧ Unary .clz (fun x => BitVec.ofNat 64 (f x))) ∧
  (∃ f : Word → Nat, (∀ x, Claims.TrailingZeros x (f x)) ∧ Unary .ctz (fun x => BitVec.ofNat 64 (f x))) ∧
  Unary .popc (fun x => BitVec.ofNat 64 ((List.range 64).countP x.getLsbD)) ∧
  Unary .abs (fun x => if x.toInt < 0 then -x else x) ∧
  Binary .min (fun x y => if x.toInt ≤ y.toInt then x else y) ∧ Binary .max (fun x y => if x.toInt ≤ y.toInt then y else x) ∧
  Binary .minu (fun x y => if x.toNat ≤ y.toNat then x else y) ∧ Binary .maxu (fun x y => if x.toNat ≤ y.toNat then y else x) ∧
  (∀ n : BitVec 6, Unary (.sext · · n) (fun x => (x.setWidth (n.toNat + 1)).signExtend 64) ∧
    Unary (.zext · · n) (fun x => (x.setWidth (n.toNat + 1)).setWidth 64)) ∧
  (∀ pos len : BitVec 6, Unary (.bfx · · pos len) (fun x => (x.extractLsb' pos.toNat (len.toNat + 1)).setWidth 64) ∧
    Unary (.bfxS · · pos len) (fun x => (x.extractLsb' pos.toNat (len.toNat + 1)).signExtend 64) ∧
    ∀ d a, Completes (.bfi d a pos len) .free [.rwG d, .rG 1 a] false fun s =>
      let m : Word := ((1 : Word) <<< (len.toNat + 1) - 1) <<< pos.toNat
      s.writeG d ((s.readG d &&& ~~~m) ||| ((s.readG a <<< pos.toNat) &&& m))) ∧
  (∀ n : BitVec 4, Binary (.shadd · · · n) (fun x y => (x <<< n.toNat) + y)) ∧ Unary .mov (fun x => x) ∧
  ∀ d a b c, Completes (.sel d a b c) .free [.wG d, .rG 1 a, .rG 2 b, .rG 3 c] false fun s =>
    s.writeG d (if s.readG a ≠ 0 then s.readG b else s.readG c)

/-- R79, R89 to R91: comparisons and immediates. -/
def Obligations.IntegerImmediates : Prop :=
  (∀ c : BitVec 4, c.toNat < 8 → Binary (.cmp · · · c) (fun x y => if Claims.holds c x y then 1 else 0) ∧
    ∀ i : BitVec 22, Unary (.cmpi · · c i) (fun x => if Claims.holds c x (i.signExtend 64) then 1 else 0)) ∧
  (∀ i : BitVec 10, Unary (.addi · · i) (fun x => x + i.signExtend 64) ∧ Unary (.andi · · i) (fun x => x &&& i.signExtend 64) ∧
    Unary (.ori · · i) (fun x => x ||| i.signExtend 64) ∧ Unary (.xori · · i) (fun x => x ^^^ i.signExtend 64)) ∧
  (∀ d (i : BitVec 26), Completes (.ldi26 d i) .free [.wG d] false fun s => s.writeG d (i.signExtend 64)) ∧
  ∀ d (i : BitVec 64), Completes (.ldi64 d i) .free [.wG d] false fun s => s.writeG d i

/-- R76 and the frame of the integer instructions: whatever comes of one, every byte of memory, everything outside its context
and every register but its destination are as they were, and unless it trapped so are STATUS, FRM and the exception
registers. -/
def Obligations.IntegerFrame : Prop :=
  (∀ d a b, ScalarFrame (.add d a b) d ∧ ScalarFrame (.sub d a b) d ∧ ScalarFrame (.mul d a b) d ∧
    ScalarFrame (.mulh d a b) d ∧ ScalarFrame (.mulhu d a b) d ∧ ScalarFrame (.div d a b) d ∧ ScalarFrame (.divu d a b) d ∧
    ScalarFrame (.rem d a b) d ∧ ScalarFrame (.remu d a b) d ∧ ScalarFrame (.and d a b) d ∧ ScalarFrame (.or d a b) d ∧
    ScalarFrame (.xor d a b) d ∧ ScalarFrame (.andn d a b) d ∧ ScalarFrame (.orn d a b) d ∧ ScalarFrame (.shl d a b) d ∧
    ScalarFrame (.shr d a b) d ∧ ScalarFrame (.sra d a b) d ∧ ScalarFrame (.rot d a b) d ∧ ScalarFrame (.min d a b) d ∧
    ScalarFrame (.max d a b) d ∧ ScalarFrame (.minu d a b) d ∧ ScalarFrame (.maxu d a b) d) ∧
  (∀ d a, ScalarFrame (.clz d a) d ∧ ScalarFrame (.ctz d a) d ∧ ScalarFrame (.popc d a) d ∧ ScalarFrame (.abs d a) d ∧
    ScalarFrame (.mov d a) d) ∧
  (∀ d a n m, ScalarFrame (.sext d a n) d ∧ ScalarFrame (.zext d a n) d ∧ ScalarFrame (.bfx d a n m) d ∧
    ScalarFrame (.bfxS d a n m) d ∧ ScalarFrame (.bfi d a n m) d ∧ ScalarFrame (.shli d a n) d ∧ ScalarFrame (.shri d a n) d ∧
    ScalarFrame (.srai d a n) d ∧ ScalarFrame (.roti d a n) d) ∧
  (∀ d a b c n, ScalarFrame (.shadd d a b n) d ∧ ScalarFrame (.sel d a b c) d ∧ ScalarFrame (.cmp d a b n) d) ∧
  (∀ d a i, ScalarFrame (.addi d a i) d ∧ ScalarFrame (.andi d a i) d ∧ ScalarFrame (.ori d a i) d ∧ ScalarFrame (.xori d a i) d) ∧
  (∀ d a c i, ScalarFrame (.cmpi d a c i) d) ∧ (∀ d i, ScalarFrame (.ldi26 d i) d) ∧ ∀ d i, ScalarFrame (.ldi64 d i) d

/-! ### Control flow -/

namespace Sys2Proof.Claims

/-- R94 to R96: the target at a signed count of halfwords from the instruction. -/
def target {n : Nat} (i : BitVec n) (s : State) : Word := s.ctx.pc + 2 * i.signExtend 64

/-- R93: the checks of a transfer to this target pass. -/
def reachable (s : State) (t : Word) : Prop := s.checkTarget t = none

end Sys2Proof.Claims

/-- R94 to R97: branches and jumps complete: not taken, at the next head; taken, at a target that passes R93's checks, with
the link written where there is one. `diverge` is R64's rule for a gang. -/
def Obligations.TransfersComplete : Prop :=
  (∀ d a (c : BitVec 4) (i : BitVec 22), c.toNat < 8 →
    CompletesIf (.br d a c i) .free [.rG 0 d, .rG 1 a] false (fun s => Claims.holds c (s.readG d) (s.readG a) = false) State.diverge ∧
    GoesIf (.br d a c i) .free [.rG 0 d, .rG 1 a] false
      (fun s => Claims.holds c (s.readG d) (s.readG a) = true ∧ Claims.reachable s.diverge (Claims.target i s))
      State.diverge (Claims.target i)) ∧
  (∀ d (i : BitVec 26),
    CompletesIf (.bz d i) .free [.rG 0 d] false (fun s => s.readG d ≠ 0) State.diverge ∧
    GoesIf (.bz d i) .free [.rG 0 d] false (fun s => s.readG d = 0 ∧ Claims.reachable s.diverge (Claims.target i s))
      State.diverge (Claims.target i) ∧
    CompletesIf (.bnz d i) .free [.rG 0 d] false (fun s => s.readG d = 0) State.diverge ∧
    GoesIf (.bnz d i) .free [.rG 0 d] false (fun s => s.readG d ≠ 0 ∧ Claims.reachable s.diverge (Claims.target i s))
      State.diverge (Claims.target i) ∧
    GoesIf (.j i) .free [] false (fun s => Claims.reachable s (Claims.target i s)) id (Claims.target i) ∧
    GoesIf (.jal d i) .free [.wG d] false (fun s => Claims.reachable s (Claims.target i s))
      (fun s => s.writeG d s.ctx.next) (Claims.target i)) ∧
  ∀ d a,
    GoesIf (.jr a) .free [.rG 1 a] false (fun s => Claims.reachable s.diverge (s.readG a)) State.diverge (fun s => s.readG a) ∧
    GoesIf (.jalr d a) .free [.wG d, .rG 1 a] false (fun s => Claims.reachable s.diverge (s.readG a))
      (fun s => s.diverge.writeG d s.diverge.ctx.next) (fun s => s.readG a)

/-- R95: `loop` counts down and transfers while the counter is not zero; a counter of 0 stays 0; where the transfer traps, the
counter is not written. R93: any taken transfer whose target fails the fetch translation or the head check takes that trap,
with no other effect (`noWalker` stands for a walk that finds every walker busy, which waits). -/
def Obligations.LoopCountsDown : Prop :=
  (∀ d (i : BitVec 26),
    CompletesIf (.loop d i) .free [.rwG d] false (fun s => s.readG d = 0) State.diverge ∧
    CompletesIf (.loop d i) .free [.rwG d] false (fun s => s.readG d = 1) (fun s => s.diverge.writeG d 0) ∧
    GoesIf (.loop d i) .free [.rwG d] false
      (fun s => 1 < (s.readG d).toNat ∧ Claims.reachable s (Claims.target i s))
      (fun s => s.diverge.writeG d (s.readG d - 1)) (Claims.target i) ∧
    ∀ e, e.cause ≠ noWalker → TrapsIf (.loop d i) .free [.rwG d] false
      (fun s => 1 < (s.readG d).toNat ∧ s.checkTarget (Claims.target i s) = some e) (fun _ => e)) ∧
  ∀ d a (c : BitVec 4) (i : BitVec 22) (j : BitVec 26) e, c.toNat < 8 → e.cause ≠ noWalker →
    TrapsIf (.br d a c i) .free [.rG 0 d, .rG 1 a] false
      (fun s => Claims.holds c (s.readG d) (s.readG a) = true ∧ s.diverge.checkTarget (Claims.target i s) = some e) (fun _ => e) ∧
    TrapsIf (.bz d j) .free [.rG 0 d] false
      (fun s => s.readG d = 0 ∧ s.diverge.checkTarget (Claims.target j s) = some e) (fun _ => e) ∧
    TrapsIf (.bnz d j) .free [.rG 0 d] false
      (fun s => s.readG d ≠ 0 ∧ s.diverge.checkTarget (Claims.target j s) = some e) (fun _ => e) ∧
    TrapsIf (.j j) .free [] false (fun s => s.checkTarget (Claims.target j s) = some e) (fun _ => e) ∧
    TrapsIf (.jal d j) .free [.wG d] false (fun s => s.checkTarget (Claims.target j s) = some e) (fun _ => e) ∧
    TrapsIf (.jr a) .free [.rG 1 a] false (fun s => s.diverge.checkTarget (s.readG a) = some e) (fun _ => e) ∧
    TrapsIf (.jalr d a) .free [.wG d, .rG 1 a] false (fun s => s.diverge.checkTarget (s.readG a) = some e) (fun _ => e)

/-! ### Traps -/

/-- R342: what a trap's entry does to its context: EPC, FADDR, FINFO and CAUSE are saved, NEST marks a nested entry, PPL and
PIE take PL and IE, PL becomes 1, IE 0 and TH 1, and control goes to the vector; a vector of 0 halts the core with DSTAT.REASON
6 and the cause. -/
def Obligations.TrapEntry : Prop :=
  ∀ (s : State) (i : Fin 11) (t : TrapInfo) (intr imp eng : Bool) (epc : Word),
    let u := (s.takeTrap i t intr imp eng epc).at i
    u.epc = epc ∧ u.finfo = t.finfo ∧ (∀ a, t.faddr = some a → u.faddr = a) ∧
    u.cause.bits 0 8 = t.cause % 256 ∧ u.cause.bits 8 8 = t.sub % 256 ∧
    u.cause.bit 63 = intr ∧ u.cause.bit 62 = imp ∧ u.cause.bit 61 = eng ∧
    u.status.bit 0 = true ∧ u.status.bit 1 = (s.at i).status.bit 0 ∧ u.status.bit 2 = false ∧
    u.status.bit 3 = (s.at i).status.bit 2 ∧ u.status.bit 4 = true ∧
    u.status.bit 7 = ((s.at i).status.bit 7 || (s.at i).status.bit 4) ∧
    (∀ b, b ≠ 0 → b ≠ 1 → b ≠ 2 → b ≠ 3 → b ≠ 4 → b ≠ 7 → u.status.bit b = (s.at i).status.bit b) ∧
    u.pc = s.regs.tvec ∧ u.block = none ∧ u.gang = none ∧
    (s.regs.tvec = 0 → (s.takeTrap i t intr imp eng epc).dbg.halted = some .vector ∧
      (s.takeTrap i t intr imp eng epc).dbg.reason = 6 ∧ (s.takeTrap i t intr imp eng epc).dbg.vcause = t.cause) ∧
    ∀ a, (s.takeTrap i t intr imp eng epc).mem.byte a = s.mem.byte a

/-- R99, R100, R347: `brk`, `trap` of a value that is not zero, and `sysc` take their traps: `brk` with EPC at itself, the others
with FADDR at themselves and EPC at the next instruction; the code is in FINFO. `trap` of zero, and `nop`, complete. Under
DCTL.BRKH a `brk` halts the cluster instead. `halt` stops the core behind itself, and the cores of its gang, and the debug module
records it. -/
def Obligations.TrapInstructions : Prop :=
  (∀ (code : BitVec 10) s, s.canIssue .free [] false = true → s.ctx.spec = [] →
    (s.dbg.brkh = false → exec (.brk code) s =
      .next (s.takeTrap s.cur ⟨10, 0, none, code.setWidth 64, none⟩ false false false s.ctx.pc)) ∧
    (s.dbg.brkh = true → exec (.brk code) s =
      .next ((s.put { s.ctx with block := none, line := none }).haltCluster 2 (s.core % 16) s.cur.val)) ∧
    exec (.sysc code) s =
      .next (s.takeTrap s.cur ⟨12, 0, some s.ctx.pc, code.setWidth 64, none⟩ false false false s.ctx.next)) ∧
  (∀ a (code : BitVec 10), CompletesIf (.trap a code) .free [.rG 1 a] false (fun s => s.readG a = 0) id ∧
    ∀ s, s.canIssue .free [.rG 1 a] false = true → s.ctx.spec = [] → s.readG a ≠ 0 → exec (.trap a code) s =
      .next ((s.takeTrap s.cur ⟨11, 0, some s.ctx.pc, code.setWidth 64, none⟩ false false false s.ctx.next).issued s.cur [.rG 1 a])) ∧
  Completes .nop .free [] false id ∧
  (Completes .halt .stall [] false fun s => State.haltPeers
    { s with dbg := { s.dbg with halted := some .instr, reason := 3, core := s.core % 16, ctx := s.cur.val, vcause := 0 } }) ∧
  (∀ s : State, s.ctx.gang = none → s.haltPeers = s) ∧
  ∀ (s : State) g c, s.ctx.gang = some g → c ∈ g.others s.core → ∃ why, (c, why) ∈ s.haltPeers.dbg.others

/-- R348: `rte` returns: PC takes EPC, PL takes PPL, IE takes PIE and TH clears; an EPC that fails the checks of a transfer
traps instead, with no effect. -/
def Obligations.ReturnFromTrap : Prop :=
  ∀ s : State, s.canIssue .stall [] true = true → s.ctx.report = none →
    (Claims.reachable s s.ctx.epc → ∃ t, exec .rte s = .next t ∧ s.onlyContext t ∧ t.ctx.pc = s.ctx.epc ∧
      t.ctx.status.bit 0 = s.ctx.status.bit 1 ∧ t.ctx.status.bit 2 = s.ctx.status.bit 3 ∧ t.ctx.status.bit 4 = false ∧
      (∀ b, b ≠ 0 → b ≠ 2 → b ≠ 4 → t.ctx.status.bit b = s.ctx.status.bit b) ∧
      t.ctx.epc = s.ctx.epc ∧ t.ctx.cause = s.ctx.cause ∧ t.ctx.faddr = s.ctx.faddr ∧ t.ctx.finfo = s.ctx.finfo ∧
      s.ctx.sameRegs t.ctx 0 ∧ t.ctx.block = none) ∧
    ∀ e, e.cause ≠ noWalker → s.checkTarget s.ctx.epc = some e → exec .rte s = .next (s.raise e)

namespace Sys2Proof.Claims

/-- R59: a channel has a neighbour to send to, or one to receive from. -/
def channelThere (s : State) (c : Nat) (write : Bool) : Prop :=
  let quad : Bool := s.regs.chmode.bits 0 2 == 0
  let row := if quad then s.core % 4 / 2 else 2 * (s.core / 4 % 4 / 2) + s.core % 4 / 2
  let last := if quad then 1 else 3
  c % 4 < 2 ∨ (if (c % 4 = 2 ↔ write = true) then row ≠ 0 else row ≠ last)

/-- R39 to R41, R45, R59: which register operands are refused, and of which kind: 0 a reserved number or an absent channel, 1 outside
the allotment, 2 the wrong direction. -/
def operandsRefused : Prop :=
  ∀ (s : State) (u : Use),
    let n := u.num
    let absent (c : Nat) : Prop := (u.rd = true ∧ ¬ channelThere s c false) ∨ (u.wr = true ∧ ¬ channelThere s c true)
    (u.space = .g →
      (n < 32 → (8 ≤ n ∧ 8 * s.ctx.sn ≤ n → s.useFault u = some 1) ∧ (¬ (8 ≤ n ∧ 8 * s.ctx.sn ≤ n) → s.useFault u = none)) ∧
      (32 ≤ n → n < 36 → s.useFault u = if u.rd then some 2 else none) ∧
      (36 ≤ n → n < 40 → s.useFault u = if u.wr then some 2 else none) ∧
      (40 ≤ n → n < 44 → (absent (n - 40) → s.useFault u = some 0) ∧ (¬ absent (n - 40) → s.useFault u = none)) ∧
      (44 ≤ n → s.useFault u = some 0)) ∧
    (u.space = .v →
      (n < 32 → s.useFault u = if 8 * s.ctx.vn ≤ n then some 1 else none) ∧
      (32 ≤ n → n < 36 → (absent (n - 28) → s.useFault u = some 0) ∧ (¬ absent (n - 28) → s.useFault u = none)) ∧
      (36 ≤ n → s.useFault u = some 0)) ∧
    (u.space = .f → s.useFault u = if 16 ≤ n then some 0 else none) ∧ (u.space = .k → s.useFault u = if 8 ≤ n then some 0 else none) ∧
    (u.space = .t → s.useFault u = if 8 ≤ n then some 0 else none) ∧ (u.space = .a → s.useFault u = if 4 ≤ n then some 0 else none)

/-- R6, R39, R60, R77, R132, R238, R239: what a register operand reads and writes. g0 reads zero and discards, k0 reads ones and
discards; a written register reads back and the others are as they were; q0 to q3 stage a word; a channel sends an entry; a return
queue or a channel gives its first entry, which one reader takes, however many operands name it. -/
def operandsMove : Prop :=
  (∀ (s : State) (n : Field) (v : Word), s.readG 0 = 0 ∧ s.writeG 0 v = s ∧ s.readK 0 = BitVec.allOnes 64 ∧ s.writeK 0 v = s ∧
    (n ≠ 0 → n.toNat < 32 → s.readG n = nth s.ctx.g n.toNat 0 ∧ (s.writeG n v).readG n = v ∧
      ∀ m : Field, m ≠ n → m.toNat < 32 → (s.writeG n v).readG m = s.readG m) ∧
    (32 ≤ n.toNat → n.toNat < 36 → ∀ q < 4, nth (s.writeG n v).ctx.stage q [] =
      nth s.ctx.stage q [] ++ if q = n.toNat - 32 then [v] else []) ∧
    (n.toNat < 16 → (s.writeF n v).readF n = v ∧ ∀ m : Field, m ≠ n → (s.writeF n v).readF m = s.readF m) ∧
    (n ≠ 0 → n.toNat < 8 → (s.writeK n v).readK n.toNat = v ∧ ∀ m, m ≠ n.toNat → (s.writeK n v).readK m = s.readK m)) ∧
  (∀ (s : State) (n : Field) (x : VWord), n.toNat < 32 → (s.writeV n x).readV n = x ∧
    ∀ m : Field, m ≠ n → m.toNat < 32 → (s.writeV n x).readV m = s.readV m) ∧
  (∀ (s : State) (n : Field) (v : Word) (x : VWord) (c : Nat) (y : VWord),
    (40 ≤ n.toNat ∧ n.toNat < 44 ∧ c = n.toNat - 40 ∧ y = v.zeroExtend 512) ∨ (32 ≤ n.toNat ∧ n.toNat < 36 ∧ c = n.toNat - 28 ∧ y = x) →
    nth s.slots c [] = [] →
    let t := if c < 4 then s.writeG n v else s.writeV n x
    t.sent = s.sent ++ [.channel c (neighbour s.quadMode s.core c) y] ∧ nth t.away c 0 = nth s.away c 0 + 1 ∧ t.ctxs = s.ctxs) ∧
  (∀ s : State, (∀ j, j ≠ s.cur → (s.at j).block = none) →
    (∀ (q : Nat) (n : Field) x l, q < 4 → n.toNat = 36 + q → nth s.eng.ret q [] = x :: l →
      s.readG n = x ∧ nth (s.consume [4 + q]).eng.ret q [] = l ∧ ∀ p, p ≠ q → nth (s.consume [4 + q]).eng.ret p [] = nth s.eng.ret p []) ∧
    ∀ (c : Nat) (n : Field) x l, nth s.chans c [] = x :: l →
      (c < 4 → n.toNat = 40 + c → s.readG n = x.truncate 64) ∧ (4 ≤ c → c < 8 → n.toNat = 28 + c → s.readV n = x) ∧
      (c < 8 → nth (s.consume [8 + c]).chans c [] = l ∧ ∀ b, b ≠ c → nth (s.consume [8 + c]).chans b [] = nth s.chans b [])) ∧
  ∀ a b : Field, sources [.rG 1 a, .rG 2 a] = sources [.rG 1 a] ∧ (a.toNat < 36 → sources [.rG 1 a, .rG 2 b] = sources [.rG 2 b]) ∧
    ∀ q < 8, a.toNat = 36 + q → sources [.rG 1 a] = [4 + q]

/-- R54, R60, R77, R238, R239, R308: what holds an instruction at its issue, its operands and its privilege in order: the window of a
collective branch, an empty queue or channel, a full staging buffer or channel. -/
def issueHeld : Prop :=
  (∀ (s : State) op cls uses priv body, (∀ u ∈ uses, s.useFault u = none) → (priv = true → s.ctx.pl = true) →
    let r := s.run op cls uses priv body
    (s.ctx.spec ≠ [] → cls ≠ .free ∨ (∃ u ∈ uses, u.special = true) → r = s.blockOn .window []) ∧
    (∀ p l, s.ctx.spec = p :: l → cls = .free → (∀ u ∈ uses, u.special = false) → Config.windowLength ≤ p.issued →
      r = s.blockOn .windowFull []) ∧
    (s.ctx.spec = [] → cls = .ordered → s.ctx.hold ≠ [] → r = s.stall) ∧
    (s.ctx.spec = [] → (cls = .ordered → s.ctx.hold = []) →
      (∀ q, sources uses = [q] → s.entry q = none → r = s.blockOn (if q < 8 then .queue q else .chanIn (q - 8)) [q]) ∧
      ((∀ q ∈ sources uses, s.entry q ≠ none) → ∀ d post, (∀ u ∈ post, u.wr = false) →
        (uses = .wG d :: post → 32 ≤ d.toNat → d.toNat < 36 → Config.stageDepth ≤ (nth s.ctx.stage (d.toNat - 32) []).length →
          r = s.blockOn (.stage (d.toNat - 32)) (sources uses)) ∧
        (uses = .wG d :: post → 40 ≤ d.toNat → Config.channelDepth ≤ s.chanLoad s.cur (d.toNat - 40) →
          r = s.blockOn (.chanOut (d.toNat - 40)) (sources uses)) ∧
        (uses = .wV d :: post → 32 ≤ d.toNat → Config.channelDepth ≤ s.chanLoad s.cur (d.toNat - 28) →
          r = s.blockOn (.chanOut (d.toNat - 28)) (sources uses))))) ∧
  ∀ q, (Wait.queue q).reason = 1 ∧ (Wait.chanIn q).reason = 2 ∧ (Wait.chanOut q).reason = 3 ∧ Wait.window.reason = 6 ∧
    (Wait.cmdFull q).reason = 15 ∧ (Wait.stage q).reason = 15

end Sys2Proof.Claims

/-- R44, R45: the first register operand that is reserved, outside the allotment or of the wrong direction takes ILLREG, with
its field, its kind, the opcode and the number in FINFO, before anything else. R338, R346, R348, R350 to R352, R358, R361, R365 to
R369: a privileged instruction at level 0 takes PROT with sub-code 3 and has no other effect, once its register operands have
passed. R312: inside a window, a trap of any instruction is not taken: the context waits, and its exception and status registers
are as they were. What an operand may name, reads and writes (R39 to R41, R59, R60, R77); and what holds an instruction at its issue
(R54, R238, R239, R308). -/
def Obligations.IssueTraps : Prop :=
  Claims.operandsRefused ∧ Claims.operandsMove ∧ Claims.issueHeld ∧
  (∀ (s : State) (op : Nat) (cls : Machine.Class) (pre : List Use) (u : Use) (post : List Use) (priv : Bool) (body : State → Effect) (k : Nat),
    (∀ v ∈ pre, s.useFault v = none) → s.useFault u = some k →
    s.run op cls (pre ++ u :: post) priv body = s.raise
      ⟨3, if k = 2 then 2 else 1, none, BitVec.ofNat 64 (u.num * 2 ^ 16 + op * 2 ^ 8 + k * 2 ^ 4 + u.field), none⟩) ∧
  (∀ d a b (sc : BitVec 4) (se : Bool) (x : BitVec 8) s, s.ctx.pl = false → s.ctx.spec = [] →
    let prot := Host.Outcome.next (σ := State) (φ := Fault) (ρ := Refusal) (s.precise s.cur ⟨6, 3, none, 0, none⟩)
    exec .rte s = prot ∧ exec (.tlbinvAll sc) s = prot ∧
    (s.useFault (.rG 1 a) = none → exec (.wrcStatus a) s = prot ∧ exec (.wrcBarcfg a) s = prot ∧ exec (.wrcRampup a) s = prot ∧
      exec (.wrcRampdn a) s = prot ∧ ∀ n : BitVec 10, writePriv n.toNat = true → exec (.wrc a n) s = prot) ∧
    (s.useFault (.wG d) = none → exec (.ssaveAck d) s = prot ∧
      ∀ n : BitVec 10, readPriv n.toNat = true → exec (.rdc d n) s = prot) ∧
    (s.useFault (.rG 1 a) = none → s.useFault (.rG 2 b) = none → exec (.tlbinv a b sc) s = prot) ∧
    (s.useFault (.wG d) = none → s.useFault (.rG 2 b) = none → exec (.ssaveCore d b) s = prot ∧ exec (.srestCore d b) s = prot) ∧
    (s.useFault (.wG d) = none → s.useFault (.rG 1 a) = none → exec (.resync d a) s = prot) ∧
    (s.useFault (.wG d) = none → s.useFault (.rG 1 a) = none → s.useFault (.rG 2 b) = none →
      exec (.hcall d a b) s = prot ∧ exec (.migr d a b se x) s = prot ∧ exec (.ssave d a b) s = prot ∧ exec (.srest d a b) s = prot)) ∧
  ∀ (s : State) (t : TrapInfo), s.ctx.spec ≠ [] →
    s.onlyContext (s.raise t) ∧ s.ctx.sameStatus (s.raise t).ctx ∧ s.ctx.sameRegs (s.raise t).ctx 0 ∧
      (∃ b, (s.raise t).ctx.block = some b ∧ b.wait = .deferred t) ∧ (s.raise t).ctx.pc = s.ctx.pc

/-! ### Control registers -/

namespace Sys2Proof.Claims

/-- R338: the control registers that are plain storage, by number, as the issuing context sees them. -/
def storedRegisters (s : State) : List (Nat × Word) :=
  [(0x000, s.ctx.status), (0x001, s.ctx.cause), (0x002, s.ctx.epc), (0x003, s.ctx.faddr), (0x004, s.ctx.finfo),
   (0x007, s.ctx.frm), (0x008, s.ctx.srcount), (0x009, s.ctx.vstart), (0x00A, s.ctx.cgrp), (0x00B, s.ctx.cseq),
   (0x00C, s.ctx.ctimeo), (0x00D, s.ctx.hobj), (0x00E, s.ctx.task), (0x00F, s.ctx.qlast), (0x010, s.ctx.dtime),
   (0x011, s.ctx.hres), (0x012, s.ctx.hscr), (0x040, s.regs.tvec), (0x041, s.regs.ptb), (0x042, s.regs.lcore),
   (0x043, s.regs.jobseed), (0x045, s.regs.gdivcnt), (0x046, s.regs.chmode), (0x047, s.regs.rnrbase), (0x048, s.regs.rnrlim),
   (0x049, s.regs.barcfg), (0x04A, s.regs.lodcnt), (0x04C, s.regs.packKept), (0x04D, s.regs.semstat), (0x04E, s.regs.engseq),
   (0x04F, s.regs.bankcnt), (0x04B, BitVec.ofNat 64 s.eng.kicks.length)] ++
  (List.range 8).flatMap (fun i => [(0x050 + i, nth s.regs.tshape i 0), (0x102 + i, nth s.units.wfa i 0), (0x10A + i, nth s.units.wfm i 0)]) ++
  (List.range 4).map (fun k => (0x058 + k, nth s.regs.acfg k 0)) ++
  [(0x05C, s.regs.mseq), (0x05D, s.regs.mcap), (0x05E, s.regs.belladd), (0x05F, s.regs.fillcnt), (0x060, s.regs.objbase),
   (0x061, s.regs.evbase), (0x062, s.regs.etime), (0x063, s.regs.etcfg), (0x064, s.regs.esnap), (0x065, s.regs.evseq),
   (0x066, s.regs.tcpl), (0x067, s.regs.taskstat), (0x068, s.regs.forecast), (0x100, s.units.clkrate), (0x101, s.units.sdseq),
   (0x112, s.units.dumpaddr), (0x140, s.units.rampup), (0x141, s.units.rampdn), (0x180, s.units.pcyc)]

/-- The registers without a row of their own that `wrc` writes, each with the bits that are not reserved. -/
def writtenRegisters : List (Nat × Word) :=
  [(0x001, 0xE00000000000FFFF), (0x002, BitVec.allOnes 64), (0x003, BitVec.allOnes 64), (0x004, BitVec.allOnes 64),
   (0x008, BitVec.allOnes 64), (0x009, 0x3F), (0x00C, 0xFFFFFF), (0x012, BitVec.allOnes 64), (0x040, 0xFFFFFFFFFFFFFFFE),
   (0x041, 0xFFFFFFFFFFFFF000), (0x042, 0x1FFFFFFF), (0x043, BitVec.allOnes 64), (0x045, 0xFFFFFFFF),
   (0x04A, BitVec.allOnes 64), (0x04C, 0xFFFFFFFF), (0x04F, 0xFFFFFFFF), (0x05D, 0xFFFFFFFF), (0x05E, 0xFFFFFFFF),
   (0x05F, 0xFFFFFFFF), (0x060, 0xFF0000), (0x061, 0xE00000), (0x066, 0xFFFFFFFFFFFFFFE0),
   (0x067, BitVec.allOnes 64)] ++
  (List.range 8).flatMap fun i => [(0x102 + i, 0xFFFFFFFFFFFFFFC7), (0x10A + i, BitVec.allOnes 64)]

/-- R338: the registers without a row of their own that ignore writes. -/
def ignoringRegisters : List Nat :=
  [0x005, 0x006, 0x00A, 0x00B, 0x00D, 0x00E, 0x00F, 0x011, 0x044, 0x04B, 0x04E, 0x05C, 0x062, 0x064, 0x065, 0x100, 0x101, 0x112, 0x180]

/-- R338: the registers whose write is a row of its own. -/
def ownRows : List Nat :=
  [0x000, 0x007, 0x010, 0x046, 0x049, 0x04D, 0x050, 0x051, 0x052, 0x053, 0x054, 0x055, 0x056, 0x057, 0x058, 0x059, 0x05A, 0x05B,
   0x063, 0x068, 0x140, 0x141]

/-- R338: the numbers that hold a register. -/
def assigned (n : Nat) : Prop :=
  n ≤ 0x012 ∨ (0x040 ≤ n ∧ n ≤ 0x068) ∨ (0x100 ≤ n ∧ n ≤ 0x112) ∨ n = 0x140 ∨ n = 0x141 ∨ n = 0x180

end Sys2Proof.Claims

/-- R338, R349: `rdc` of an assigned number completes with the register's value in D, given the privilege that the table gives. A
number that R338 assigns to no register is a reserved field value (R43, R45): the encoding is no instruction, with reason 2. -/
def Obligations.ControlReads : Prop :=
  (∀ d (n : BitVec 10) s v, (n.toNat, v) ∈ Claims.storedRegisters s → s.canIssue .free [.wG d] (readPriv n.toNat) = true →
    exec (.rdc d n) s = .next ((s.writeG d v).completed [.wG d])) ∧
  (∀ d s, s.canIssue .free [.wG d] false = true →
    exec (.rdc d 5) s = .next ((s.writeG d (BitVec.ofNat 64 s.cur.val)).completed [.wG d]) ∧
    exec (.rdc d 6) s = .next ((s.writeG d (BitVec.ofNat 64 (s.ctx.vn * 16 + s.ctx.sn))).completed [.wG d]) ∧
    exec (.rdc d 0x44) s = .next ((s.writeG d (BitVec.ofNat 64 (s.vfree * 256 + s.sfree))).completed [.wG d])) ∧
  (∀ (n : BitVec 10) s, Claims.assigned n.toNat → n = 5 ∨ n = 6 ∨ n = 0x44 ∨ ∃ v, (n.toNat, v) ∈ Claims.storedRegisters s) ∧
  ∀ (d : Field) (n : BitVec 10), ¬ Claims.assigned n.toNat → decode (0x4140 + d.toNat) n.toNat = .error .reservedValue

/-- R338, R349: `wrc` completes, given the privilege that the table gives, with the bits of the register that are not reserved
written; the registers that ignore writes do, and a number that is assigned to no register is a reserved field value (R43, R45).
Every assigned number is one of these or has a row of its own. -/
def Obligations.ControlWrites : Prop :=
  (∀ a (n : BitVec 10), Claims.assigned n.toNat → n.toNat ∉ Claims.ownRows →
    Completes (.wrc a n) .stall [.rG 1 a] (writePriv n.toNat) fun s => s.setCreg n.toNat (s.readG a)) ∧
  (∀ (s : State) n m v, (n, m) ∈ Claims.writtenRegisters → (s.setCreg n v).creg n = v &&& m) ∧
  (∀ (s : State) n v, n ∈ Claims.ignoringRegisters → s.setCreg n v = s) ∧
  (∀ (s : State) v, (s.setCreg 0x047 v).creg 0x047 =
      (if Word.bits v 0 12 < 10 then s.regs.rnrbase else BitVec.ofNat 64 (Word.bits v 0 12)) ∧
    (s.setCreg 0x048 v).creg 0x048 = if Word.bits v 0 8 < 1 then s.regs.rnrlim else BitVec.ofNat 64 (Word.bits v 0 8)) ∧
  (∀ n, Claims.assigned n → n = 0x047 ∨ n = 0x048 ∨ n ∈ Claims.ignoringRegisters ∨ n ∈ Claims.ownRows ∨
    ∃ m, (n, m) ∈ Claims.writtenRegisters) ∧
  (∀ (a : Field) (n : BitVec 10), ¬ Claims.assigned n.toNat → decode 0x4180 (a.toNat * 1024 + n.toNat) = .error .reservedValue) ∧
  ∀ (s : State) n v a, (s.setCreg n v).mem.byte a = s.mem.byte a

/-- R337, R115, R345, R59, R61, R201, R240: the writes of STATUS, FRM, DTIME, CHMODE, BARCFG and SEMSTAT, field by field. R214, R215,
R217, R236, R261, R320: those of TSHAPE (held while a queued command names the tile), ACFG (flags clear by ones; ACCBUSY while the
accumulator is owned), ETCFG, FORECAST, RAMPUP and RAMPDN. (What the rules leave open here is settled as in
log entry 15.) -/
def Obligations.RegisterFields : Prop :=
  (∀ a, Completes (.wrcStatus a) .stall [.rG 1 a] true fun s => s.put { s.ctx with status := statusWrite s.ctx.status (s.readG a) }) ∧
  (∀ old v b, Word.bit (statusWrite old v) b =
    if 1 ≤ b ∧ b ≤ 3 then Word.bit v b else if b = 7 then Word.bit old 7 && !Word.bit v 7 else Word.bit old b) ∧
  (∀ a, Completes (.wrcFrm a) .stall [.rG 1 a] false fun s => s.put { s.ctx with frm := frmWrite s.ctx.frm (s.readG a) }) ∧
  (∀ old v b, Word.bit (frmWrite old v) b =
    if b < 3 then (if Word.bits v 0 3 ≤ 4 then Word.bit v b else Word.bit old b)
    else if b = 3 ∨ 8 ≤ b ∧ b ≤ 12 then Word.bit v b else false) ∧
  (∀ a, CompletesIf (.wrcDtime a) .stall [.rG 1 a] false (fun s => s.readG a = 0 ∨ s.units.pcyc.toNat < (s.readG a).toNat)
      (fun s => s.put { s.ctx with dtime := s.readG a }) ∧
    CompletesIf (.wrcDtime a) .stall [.rG 1 a] false (fun s => s.readG a ≠ 0 ∧ (s.readG a).toNat ≤ s.units.pcyc.toNat)
      (fun s => s.put { s.ctx with dtime := 0, status := putBit s.ctx.status 9 true })) ∧
  (∀ a, CompletesIf (.wrcChmode a) .stall [.rG 1 a] false
      (fun s => 2 ≤ (s.readG a).bits 0 2 ∨ (s.readG a).bits 0 2 = s.regs.chmode.bits 0 2) id ∧
    CompletesIf (.wrcChmode a) .stall [.rG 1 a] false
      (fun s => (s.readG a).bits 0 2 < 2 ∧ (s.readG a).bits 0 2 ≠ s.regs.chmode.bits 0 2)
      (fun s => { s with regs := { s.regs with chmode := BitVec.ofNat 64 ((s.readG a).bits 0 2) }, chans := s.survivors })) ∧
  (∀ a, Completes (.wrcBarcfg a) .stall [.rG 1 a] true fun s => s.withRegs fun r => { r with barcfg := barcfgWrite r.barcfg (s.readG a) }) ∧
  (∀ old v i, i < 8 → Word.bits (barcfgWrite old v) (4 * i) 4 =
    if Word.bits v (4 * i) 4 < 12 then Word.bits v (4 * i) 4 else Word.bits old (4 * i) 4) ∧
  (∀ a, CompletesIf (.wrcSemstat a) .stall [.rG 1 a] false (fun s => (s.readG a).bit 8 = true)
      (fun s => s.withRegs fun r => { r with semstat := putBit r.semstat 8 false }) ∧
    CompletesIf (.wrcSemstat a) .stall [.rG 1 a] false (fun s => (s.readG a).bit 8 = false) id) ∧
  (∀ a (t : BitVec 3), CompletesIf (.wrcTshape a t) .stall [.rG 1 a] false (fun s => s.tileNamed t.toNat = false)
      (fun s => s.withRegs fun r => { r with tshape := upd r.tshape t.toNat (tshapeWrite (s.shape t.toNat) (s.readG a)) }) ∧
    ∀ s, s.canIssue .stall [.rG 1 a] false = true → s.tileNamed t.toNat = true →
      exec (.wrcTshape a t) s = .next ({ s with stalled := true }.issued s.cur [.rG 1 a])) ∧
  (∀ old v, shapeEw (tshapeWrite old v) = (if shapeEw v = 3 then shapeEw old else shapeEw v)) ∧
  (∀ old v, shapeRows (tshapeWrite old v) =
    if shapeRows v = 0 ∨ 64 < shapeRows v then shapeRows old else shapeRows v) ∧
  (∀ old v, shapeCols (tshapeWrite old v) =
    min (if shapeCols v = 0 then shapeCols old else shapeCols v) (128 / 2 ^ shapeEw (tshapeWrite old v))) ∧
  (∀ a (k : BitVec 2), CompletesIf (.wrcAcfg a k) .stall [.rG 1 a] false (fun s => s.owners k.toNat = [])
      (fun s => s.withRegs fun r => { r with acfg := upd r.acfg k.toNat (acfgWrite (s.acfg k.toNat) (s.readG a)) }) ∧
    ∀ c l, TrapsIf (.wrcAcfg a k) .stall [.rG 1 a] false (fun s => s.owners k.toNat = c :: l) (fun _ => accBusy k.toNat 0x06 c)) ∧
  (∀ old v b, Word.bit (acfgWrite old v) b =
    if b < 2 then Word.bit v b else if 4 ≤ b ∧ b ≤ 7 then Word.bit old b && !Word.bit v b else false) ∧
  (∀ a, Completes (.wrcEtcfg a) .stall [.rG 1 a] false fun s =>
    (s.withRegs fun r => { r with etcfg := r.etcfg.setBits 0 16 ((s.readG a).bits 0 16) }).withDrone fun d => { d with phase := 0 }) ∧
  (∀ a, Completes (.wrcForecast a) .stall [.rG 1 a] false fun s => s.withRegs fun r => { r with
    forecast := BitVec.ofNat 64 (min ((s.readG a).bits 16 8) 11 * 2 ^ 16 + (s.readG a).bits 0 16) }) ∧
  ∀ a, Completes (.wrcRampup a) .stall [.rG 1 a] true (fun s => { s with units := { s.units with rampup := s.readG a } }) ∧
    Completes (.wrcRampdn a) .stall [.rG 1 a] true (fun s => { s with units := { s.units with rampdn := s.readG a } })

/-! ### Contexts -/

/-- R66: `start` in the control context begins the lowest-numbered free helper, or the named one, when the granules are free,
no earlier request waits and the entry passes the checks of a transfer; D takes its number. It waits otherwise, for a named helper
that runs too; with NB, and for a number outside 1 to 10, D takes 0. In a helper each of the four forms is ILLOP. The helper begins
with its registers zero but for g1, at the entry, with the starter's privilege and its incarnation counted. A `start` that waits is
granted once a helper and its granules are free (R57). (What the rules leave open here is settled as in
log entry 77.) -/
def Obligations.StartBeginsHelper : Prop :=
  (∀ d a b (n v : BitVec 3) (p : BitVec 2),
    let uses : List Use := [.wG d, .rG 1 a, .rG 2 b]
    let ok (s : State) : Prop := s.cur = 0 ∧ Claims.reachable s (s.readG a)
    (∀ h, CompletesIf (.start d a b n v p) .ordered uses false
        (fun s => ok s ∧ s.requestWaiting = false ∧ s.fits n.toNat v.toNat = true ∧ s.lowestFree = some h)
        (fun s => (s.startHelper h n.toNat v.toNat p (s.readG a) (s.readG b)).writeG d (BitVec.ofNat 64 h.val)) ∧
      CompletesIf (.startNb d a b n v p) .ordered uses false
        (fun s => ok s ∧ s.requestWaiting = false ∧ s.fits n.toNat v.toNat = true ∧ s.lowestFree = some h)
        (fun s => (s.startHelper h n.toNat v.toNat p (s.readG a) (s.readG b)).writeG d (BitVec.ofNat 64 h.val))) ∧
    CompletesIf (.startNb d a b n v p) .ordered uses false
      (fun s => ok s ∧ (s.requestWaiting = true ∨ s.fits n.toNat v.toNat = false ∨ s.lowestFree = none)) (fun s => s.writeG d 0) ∧
    WaitsIf (.start d a b n v p) .ordered uses false
      (fun s => ok s ∧ (s.requestWaiting = true ∨ s.fits n.toNat v.toNat = false ∨ s.lowestFree = none)) id
      (fun s => .start d (s.readG a) (s.readG b) none n.toNat v.toNat p) ∧
    ∀ s, s.cur ≠ 0 → exec (.start d a b n v p) s = .next (s.raise ⟨1, 0, none, 0x10, none⟩) ∧
      exec (.startNb d a b n v p) s = .next (s.raise ⟨1, 0, none, 0x10, none⟩)) ∧
  (∀ d a b c (n v : BitVec 3) (p : BitVec 2),
    let uses : List Use := [.wG d, .rG 1 a, .rG 2 b, .rG 3 c]
    let ok (s : State) : Prop := s.cur = 0 ∧ Claims.reachable s (s.readG a)
    (∀ h : Fin 11, h ≠ 0 →
      let ready (s : State) : Prop := ok s ∧ s.readG c = BitVec.ofNat 64 h.val ∧ s.requestWaiting = false ∧
        s.fits n.toNat v.toNat = true ∧ (s.at h).live = false
      let begun (s : State) : State := (s.startHelper h n.toNat v.toNat p (s.readG a) (s.readG b)).writeG d (BitVec.ofNat 64 h.val)
      let held (s : State) : Prop := ok s ∧ s.readG c = BitVec.ofNat 64 h.val ∧
        (s.requestWaiting = true ∨ s.fits n.toNat v.toNat = false ∨ (s.at h).live = true)
      CompletesIf (.startAt d a b c n v p) .ordered uses false ready begun ∧
      CompletesIf (.startAtNb d a b c n v p) .ordered uses false ready begun ∧
      WaitsIf (.startAt d a b c n v p) .ordered uses false held id
        (fun s => .start d (s.readG a) (s.readG b) (some h.val) n.toNat v.toNat p) ∧
      CompletesIf (.startAtNb d a b c n v p) .ordered uses false held (fun s => s.writeG d 0)) ∧
    (∀ s, s.cur ≠ 0 → exec (.startAt d a b c n v p) s = .next (s.raise ⟨1, 0, none, 0x10, none⟩) ∧
      exec (.startAtNb d a b c n v p) s = .next (s.raise ⟨1, 0, none, 0x10, none⟩)) ∧
    CompletesIf (.startAt d a b c n v p) .ordered uses false
      (fun s => ok s ∧ ((s.readG c).toNat < 1 ∨ 10 < (s.readG c).toNat)) (fun s => s.writeG d 0) ∧
    CompletesIf (.startAtNb d a b c n v p) .ordered uses false
      (fun s => ok s ∧ ((s.readG c).toNat < 1 ∨ 10 < (s.readG c).toNat)) (fun s => s.writeG d 0)) ∧
  (∀ (s : State) (h : Fin 11) d pc arg named n v p q, (s.at 0).live = true →
    (s.at 0).block = some ⟨.start d pc arg named n v p, q, []⟩ → (∀ j, j ≠ 0 → (s.at j).block = none) → d ≠ 0 → d.toNat < 32 →
    (s.fits n v = false → s.grant = s) ∧
    (s.fits n v = true → h ≠ 0 → (s.at h).live = false → (named = some h.val ∨ named = none ∧ s.lowestFree = some h) →
      (s.grant.at h).live = true ∧ (s.grant.at h).pc = pc ∧ (s.grant.at h).sn = n ∧ (s.grant.at h).vn = v ∧
      nth (s.grant.at h).g 1 0 = arg ∧ (s.grant.at 0).block = none ∧ nth (s.grant.at 0).g d.toNat 0 = BitVec.ofNat 64 h.val ∧
      (s.grant.at 0).pc = (s.at 0).next)) ∧
  ∀ (s : State) (k : Fin 11) n v p pc arg,
    let t := s.startHelper k n v p pc arg
    (t.at k).live = true ∧ (t.at k).gen = (s.at k).gen + 1 ∧ (t.at k).sn = n ∧ (t.at k).vn = v ∧ (t.at k).pri = p ∧
    (t.at k).pc = pc ∧ (t.at k).block = none ∧ nth (t.at k).g 1 0 = arg ∧ (∀ m, m ≠ 1 → nth (t.at k).g m 0 = 0) ∧
    (∀ m, nth (t.at k).v m 0 = 0 ∧ nth (t.at k).f m 0 = 0 ∧ nth (t.at k).k m 0 = 0) ∧ (t.at k).pl = s.ctx.pl ∧
    (∀ j, j ≠ k → t.at j = s.at j) ∧ ∀ a, t.mem.byte a = s.mem.byte a

/-- R67, R68: `exit` of a helper that runs no task, is in no group, holds no item and has every reply frees it and its granules;
of the control context, it idles, its staged words discarded (R238). `cwait` completes with 0 for a context that does not run, and
else waits for that incarnation, whose end completes it with 1. -/
def Obligations.ExitFreesContext : Prop :=
  (∀ s, s.canIssue .ordered [] false = true → s.ctx.report = none → s.ctx.claims = false → s.ctx.inGroup = false →
    s.quiet s.cur = true → s.ctx.task = 0 →
    (s.cur ≠ 0 → exec .exit s = .next s.depart) ∧
    (s.cur = 0 → s.dbg.sessions = [] →
      exec .exit s = .next ((s.put { s.ctx with gang := none, stage := .replicate 4 [] }).blockOn .idle []))) ∧
  (∀ s : State, s.ctx.hobj.bit 40 = false → s.dbg.sessions = [] → (∀ j, j ≠ s.cur → (s.at j).block = none) →
    (s.depart.at s.cur).live = false ∧ (s.depart.at s.cur).sn = 0 ∧ (s.depart.at s.cur).vn = 0 ∧
    (s.depart.at s.cur).gen = s.ctx.gen ∧ (∀ j, j ≠ s.cur → s.depart.at j = s.at j) ∧
    ∀ a, s.depart.mem.byte a = s.mem.byte a) ∧
  (∀ (s : State) (j : Fin 11) d q, s.ctx.hobj.bit 40 = false → s.dbg.sessions = [] → j ≠ s.cur →
    (s.at j).block = some ⟨.cwait d s.cur.val s.ctx.gen, q, []⟩ → (∀ i, i ≠ s.cur → i ≠ j → (s.at i).block = none) → d ≠ 0 →
    d.toNat < 32 → (s.depart.at j).block = none ∧ nth (s.depart.at j).g d.toNat 0 = 1 ∧ (s.depart.at j).pc = (s.at j).next ∧
      (s.depart.at j).token = (s.at j).token) ∧
  ∀ d a,
    CompletesIf (.cwait d a) .free [.wG d, .rG 1 a] false
      (fun s => (s.readG a).toNat < 1 ∨ 10 < (s.readG a).toNat ∨ (s.readG a).toNat = s.cur.val ∨
        ∃ k : Fin 11, k.val = (s.readG a).toNat ∧ (s.at k).live = false) (fun s => s.writeG d 0) ∧
    ∀ k : Fin 11, k ≠ 0 → WaitsIf (.cwait d a) .free [.wG d, .rG 1 a] false
      (fun s => (s.readG a).toNat = k.val ∧ k ≠ s.cur ∧ (s.at k).live = true) id (fun s => .cwait d k.val (s.at k).gen)

/-- R69, R70: `yield` completes; `prio` swaps the priority; `park` takes a token or waits; `wake` sets the token of a live context
that waits for none of the things a `wake` ends, ends a `park`, a `wfi` and the idling of an `exit`, withdraws a `grow` or a `gang`
that waits, its D taking 0, and does nothing to a free context or a number that names none. -/
def Obligations.ParkAndWake : Prop :=
  Completes .yield .stall [] false id ∧
  (∀ d a, Completes (.prio d a) .stall [.wG d, .rG 1 a] false fun s =>
    (s.writeG d (s.ctx.pri.setWidth 64)).put
      { (s.writeG d (s.ctx.pri.setWidth 64)).ctx with pri := if (s.readG a).toNat ≤ 3 then (s.readG a).setWidth 2 else 3 }) ∧
  CompletesIf .park .stall [] false (fun s => s.ctx.token = true) (fun s => s.put { s.ctx with token := false }) ∧
  WaitsIf .park .stall [] false (fun s => s.ctx.token = false) id (fun _ => .park) ∧
  (∀ a, CompletesIf (.wake a) .stall [.rG 1 a] false (fun s => 10 < (s.readG a).toNat) id ∧
    ∀ k : Fin 11, CompletesIf (.wake a) .stall [.rG 1 a] false (fun s => (s.readG a).toNat = k.val) (fun s => s.wake k)) ∧
  ∀ (s : State) (k : Fin 11),
    ((s.at k).live = false → s.wake k = s) ∧
    ((s.at k).live = true → (s.at k).block = none → ((s.wake k).at k).token = true ∧ ∀ j, j ≠ k → (s.wake k).at j = s.at j) ∧
    (∀ w q l, (s.at k).live = true → (s.at k).block = some ⟨w, q, l⟩ → w ≠ .park → w ≠ .idle → w ≠ .wfi →
      (∀ d n v, w ≠ .grow d n v) → (∀ d c m, w ≠ .gang d c m) →
      ((s.wake k).at k).token = true ∧ ((s.wake k).at k).block = (s.at k).block ∧ ((s.wake k).at k).pc = (s.at k).pc ∧
      ∀ j, j ≠ k → (s.wake k).at j = s.at j) ∧
    (∀ w q l, (s.at k).live = true → (s.at k).block = some ⟨w, q, l⟩ → w = .park ∨ w = .idle ∨ w = .wfi →
      ((s.wake k).at k).block = none ∧ ((s.wake k).at k).pc = (s.at k).next ∧ ((s.wake k).at k).token = (s.at k).token ∧
      ((s.wake k).at k).g = (s.at k).g ∧ ∀ j, j ≠ k → (s.wake k).at j = s.at j) ∧
    ∀ w d q l, (s.at k).live = true → (s.at k).block = some ⟨w, q, l⟩ → d ≠ 0 → d.toNat < 32 →
      (∃ c m, w = .gang d c m) ∨ (∃ n v, w = .grow d n v) ∧ (∀ j, j ≠ k → (s.at j).block = none) →
      ((s.wake k).at k).block = none ∧ ((s.wake k).at k).pc = (s.at k).next ∧ nth ((s.wake k).at k).g d.toNat 0 = 0 ∧
      ((s.wake k).at k).token = (s.at k).token ∧ ((s.wake k).at k).sn = (s.at k).sn ∧ ((s.wake k).at k).vn = (s.at k).vn ∧
      ((s.wake k).at k).gang = (s.at k).gang ∧ ∀ j, j ≠ k → (s.wake k).at j = s.at j

/-- R57, R71 to R73: `grow` raises the allotment, the new registers reading zero and the old ones as they were, or waits; with NB it
writes 0 instead; `shrink` lowers it and lets waiting requests go on, once no write to a register it releases is in flight; `allot` writes the status word of R53.
Of the requests that wait, the one that blocked first is granted once it fits, and those behind it wait for it. -/
def Obligations.AllotmentMoves : Prop :=
  (∀ d (n v : BitVec 6),
    let sn (s : State) := max s.ctx.sn (n.toNat / 8)
    let vn (s : State) := max s.ctx.vn (v.toNat / 8)
    let none' (s : State) : Prop := sn s = s.ctx.sn ∧ vn s = s.ctx.vn
    let room (s : State) : Prop := s.requestWaiting = false ∧ s.fits (sn s - s.ctx.sn) (vn s - s.ctx.vn) = true
    let grown (s : State) : State := (s.put (s.ctx.enlarge (sn s) (vn s))).writeG d 1
    CompletesIf (.grow d n v) .stall [.wG d] false none' (fun s => s.writeG d 1) ∧
    CompletesIf (.growNb d n v) .stall [.wG d] false none' (fun s => s.writeG d 1) ∧
    CompletesIf (.grow d n v) .stall [.wG d] false (fun s => ¬ none' s ∧ room s) grown ∧
    CompletesIf (.growNb d n v) .stall [.wG d] false (fun s => ¬ none' s ∧ room s) grown ∧
    WaitsIf (.grow d n v) .stall [.wG d] false (fun s => ¬ none' s ∧ ¬ room s) id (fun s => .grow d (sn s) (vn s)) ∧
    CompletesIf (.growNb d n v) .stall [.wG d] false (fun s => ¬ none' s ∧ ¬ room s) (fun s => s.writeG d 0)) ∧
  (∀ (c : Ctx) sn vn n, n < 32 →
    nth (c.enlarge sn vn).g n 0 = (if 8 * c.sn ≤ n ∧ n < 8 * sn then 0 else nth c.g n 0) ∧
    nth (c.enlarge sn vn).v n 0 = (if 8 * c.vn ≤ n ∧ n < 8 * vn then 0 else nth c.v n 0)) ∧
  (∀ n v : BitVec 6,
    CompletesIf (.shrink n v) .stall [] false (fun s => s.ctx.draining (min s.ctx.vn (v.toNat / 8)) = false) (fun s =>
      (s.put { s.ctx with sn := min s.ctx.sn (n.toNat / 8), vn := min s.ctx.vn (v.toNat / 8) }).grant) ∧
    WaitsIf (.shrink n v) .stall [] false (fun s => s.ctx.draining (min s.ctx.vn (v.toNat / 8)) = true) id
      (fun s => .drain (min s.ctx.vn (v.toNat / 8)))) ∧
  (∀ (s : State) (i : Fin 11) d sn vn q, (s.at i).live = true → (s.at i).block = some ⟨.grow d sn vn, q, []⟩ →
    (∀ j, j ≠ i → (s.at j).block = none) → d ≠ 0 → d.toNat < 32 →
    (s.fits (sn - (s.at i).sn) (vn - (s.at i).vn) = false → s.grant = s) ∧
    (s.fits (sn - (s.at i).sn) (vn - (s.at i).vn) = true → (s.grant.at i).block = none ∧ (s.grant.at i).sn = sn ∧
      (s.grant.at i).vn = vn ∧ nth (s.grant.at i).g d.toNat 0 = 1 ∧ (s.grant.at i).pc = (s.at i).next ∧
      ∀ j, j ≠ i → s.grant.at j = s.at j)) ∧
  (∀ (s : State) i b, s.firstBlocked Wait.forPool = some (i, b) → (s.at i).live = true ∧ (s.at i).block = some b ∧ b.wait.forPool = true ∧
    ∀ j c, (s.at j).live = true → (s.at j).block = some c → c.wait.forPool = true → b.seq ≤ c.seq) ∧
  (∀ (s : State) i d sn vn q l, s.firstBlocked Wait.forPool = some (i, ⟨.grow d sn vn, q, l⟩) →
    s.fits (sn - (s.at i).sn) (vn - (s.at i).vn) = false → s.grant = s) ∧
  ∀ d a, CompletesIf (.allot d a) .free [.wG d, .rG 1 a] false (fun s => 10 < (s.readG a).toNat) (fun s => s.writeG d 0) ∧
    ∀ k : Fin 11, CompletesIf (.allot d a) .free [.wG d, .rG 1 a] false (fun s => (s.readG a).toNat = k.val)
      (fun s => s.writeG d (BitVec.ofNat 64 ((s.at k).gen.toNat * 2 ^ 32 + s.reason k * 2 ^ 24 + (s.at k).pri.toNat * 2 ^ 22 +
        (s.at k).gang.isSome.toNat * 2 ^ 21 + (s.at k).live.toNat * 2 ^ 20 + k.val * 2 ^ 16 + (s.at k).vn * 16 + (s.at k).sn)))

/-- R62, R74: a `gang` whose mask omits its core, has a bit beyond the scope, or meets another gang of the core writes 0; a mask of
the one core forms at once, D taking 1; else the context waits until the gang forms, when D takes 1 plus its rank. `split`
leaves the gang. -/
def Obligations.GangsForm : Prop :=
  (∀ d a (clus : Bool),
    let i : Instr := if clus then .gangClus d a else .gangQuad d a
    let bit (s : State) := if clus then s.core % 16 else s.core % 4
    let bad (s : State) : Prop := (s.readG a).toNat.testBit (bit s) = false ∨ 2 ^ (if clus then 16 else 4) ≤ (s.readG a).toNat ∨
      s.gangBusy = true
    CompletesIf i .stall [.wG d, .rG 1 a] false bad (fun s => s.writeG d 0) ∧
    CompletesIf i .stall [.wG d, .rG 1 a] false (fun s => ¬ bad s ∧ (s.readG a).toNat = 2 ^ bit s)
      (fun s => (s.writeG d 1).put { (s.writeG d 1).ctx with gang := some ⟨clus, (s.readG a).toNat⟩ }) ∧
    WaitsIf i .stall [.wG d, .rG 1 a] false (fun s => ¬ bad s ∧ (s.readG a).toNat ≠ 2 ^ bit s) id
      (fun s => .gang d clus (s.readG a).toNat)) ∧
  (∀ (s : State) (i : Fin 11) d clus mask q l, (s.at i).live = true → (s.at i).block = some ⟨.gang d clus mask, q, l⟩ →
    (∀ j, j ≠ i → (s.at j).block = none) →
    exec .gangFormed s = .next ((s.putAt i { s.at i with gang := some ⟨clus, mask⟩ }).completeG i d
      (BitVec.ofNat 64 (1 + ((List.range (if clus then s.core % 16 else s.core % 4)).filter mask.testBit).length)))) ∧
  Completes .split .stall [] false (fun s => s.put { s.ctx with gang := none })

/-! ### Services, images and translations -/

/-- R350, R351, R352, R358, R361: `wfi` completes at once when an interrupt is pending or a token is held, and else waits; `hcall`
posts its request with the ticket that D takes, and counts the ticket; `resync`, `migr` and the `tlbinv`s send their request
and wait for the answer, a `tlbinv` once its stores are acknowledged and with SDSEQ counted. (What the rules leave open here is settled as in
log entries 61 and 79.) -/
def Obligations.ServicesAsk : Prop :=
  CompletesIf .wfi .free [] false (fun s => s.ctx.status.bits 9 3 ≠ 0 ∨ s.ctx.token = true)
    (fun s => s.put { s.ctx with token := false }) ∧
  WaitsIf .wfi .free [] false (fun s => s.ctx.status.bits 9 3 = 0 ∧ s.ctx.token = false) id (fun _ => .wfi) ∧
  (∀ d a b, Completes (.hcall d a b) .stall [.wG d, .rG 1 a, .rG 2 b] true fun s =>
    { s.asked ⟨0, hostHome, .hcall ((s.readG a).setWidth 16) (s.readG b) (BitVec.ofNat 4 s.cur.val) s.ctx.gen s.ticket, true, false⟩
      with ticket := s.ticket + 1 }.writeG d (s.ticket.setWidth 64)) ∧
  (∀ d a t, AsksIf (.resync d a) .stall [.wG d, .rG 1 a] true
    (fun s => s.translate s.cur (s.readG a) 1 .store 0x0D 0 = .ok t ∧ t.ga % 4096 = 0 ∧ gaSpace t.ga < 2 ∧
      s.inFlight + 1 ≤ Config.outstanding ∧ s.ownSlice managementHome = false)
    (fun s => s.install t.x) (fun s => ⟨s.readG a, managementHome, .resync (BitVec.ofNat 64 t.ga), false, false⟩) (fun _ => .write d)) ∧
  (∀ d a t, TrapsIf (.resync d a) .stall [.wG d, .rG 1 a] true
    (fun s => s.translate s.cur (s.readG a) 1 .store 0x0D 0 = .ok t ∧ (t.ga % 4096 ≠ 0 ∨ 2 ≤ gaSpace t.ga))
    (fun _ => ⟨6, 4, none, 0, none⟩)) ∧
  (∀ d a b (se : Bool) (x : BitVec 8) s t leaf, s.canIssue .stall [.wG d, .rG 1 a, .rG 2 b] true = true →
    s.translate s.cur (s.readG a) 1 .store 0x0A 0 = .ok t → t.x.level ≠ 2 → t.x.size ≠ 0 → (s.readG b).toNat % t.x.size = 0 →
    gaSpace (s.readG b).toNat < 2 → gaSpace (leafFrame t.x.leaf) = 1 → homeAligned (s.readG b).toNat = true →
    walkLeaf s.mem (s.readG a).toNat walkLevels (s.ctx.root.toNat / 2 ^ 12 * 2 ^ 12) = some leaf →
    (s.install t.x).inFlight + 1 ≤ Config.outstanding →
    ∃ u, exec (.migr d a b se x) s = .next u ∧
      (∃ q, u.net = s.net ++ [q] ∧ q.ga = leafFrame t.x.leaf ∧ q.msg = .migrate
        ⟨BitVec.ofNat 64 ((s.readG a).toNat / t.x.size * t.x.size), leaf, leafFrame t.x.leaf, (s.readG b).toNat,
          if t.x.level = 3 then 21 else 16, if se then some x else none, s.lcore⟩) ∧
      ∃ w, u.ctx.block = some w ∧ w.wait = .reply [s.seqNo] [] (.write d)) ∧
  (∀ a b (sc : BitVec 4), AsksIf (.tlbinv a b sc) .stall [.rG 1 a, .rG 2 b] true
    (fun s => s.storesClear s.cur 9 = true ∧ s.ctx.report = none ∧ s.inFlight ≤ Config.outstanding)
    (fun s => { s with units := { s.units with sdseq := s.units.sdseq + 1 } })
    (fun s => ⟨s.readG a, multicastHome, .shootdown (s.readG a) (s.readG b)
      (if sc = 0 then 1 else if sc = 9 then 8 else sc.toNat), false, false⟩) (fun _ => .nothing)) ∧
  ∀ sc : BitVec 4, AsksIf (.tlbinvAll sc) .stall [] true
    (fun s => s.storesClear s.cur 9 = true ∧ s.ctx.report = none ∧ s.inFlight ≤ Config.outstanding)
    (fun s => { s with units := { s.units with sdseq := s.units.sdseq + 1 } })
    (fun _ => ⟨0, multicastHome, .shootdown 0 (BitVec.allOnes 64)
      (if sc = 0 then 1 else if sc = 9 then 8 else sc.toNat), false, false⟩) (fun _ => .nothing)

/-- R363 to R366: `ssave` of the issuing context writes its image and goes on, D taking 1 (and 2 in the image, which a restore
resumes with), and its trace sessions end with TRUNC (R397); the image holds its fields where R364 places them, zero elsewhere; of a context that is not there, D takes 0; of another, it waits for its quiet point. `srest` into a free context
that fits takes the image, D taking 1; a restored context has the image's fields and a new incarnation. (What the rules leave open here is settled as in
log entry 57.) -/
def Obligations.ContextImages : Prop :=
  (∀ d a b u ga,
    CompletesIf (.ssave d a b) .stall [.wG d, .rG 1 a, .rG 2 b] true
      (fun s => s.imageFor (s.readG b) 4096 .store 0x0B = .ok (u, ga) ∧ u.readG a = s.readG a ∧ (s.readG a).toNat = u.cur.val)
      (fun _ => ((((u.writeImage ga ((u.writeG d 2).ctx.advance.recorded) u.cur).endTrace u.cur 14).setAside u.cur ga false).moveGaps
        u.cur.val (imageKey ga)).writeG d 1) ∧
    CompletesIf (.ssave d a b) .stall [.wG d, .rG 1 a, .rG 2 b] true
      (fun s => s.imageFor (s.readG b) 4096 .store 0x0B = .ok (u, ga) ∧ 10 < (u.readG a).toNat) (fun _ => u.writeG d 0) ∧
    ∀ k : Fin 11,
      CompletesIf (.ssave d a b) .stall [.wG d, .rG 1 a, .rG 2 b] true
        (fun s => s.imageFor (s.readG b) 4096 .store 0x0B = .ok (u, ga) ∧ (u.readG a).toNat = k.val ∧ k ≠ u.cur ∧ (u.at k).live = false)
        (fun _ => u.writeG d 0) ∧
      WaitsIf (.ssave d a b) .stall [.wG d, .rG 1 a, .rG 2 b] true
        (fun s => s.imageFor (s.readG b) 4096 .store 0x0B = .ok (u, ga) ∧ (u.readG a).toNat = k.val ∧ k ≠ u.cur ∧ (u.at k).live = true)
        (fun _ => u.bringQuiet k) (fun _ => .save d k ga) ∧
      CompletesIf (.srest d a b) .stall [.wG d, .rG 1 a, .rG 2 b] true
        (fun s => s.imageFor (s.readG b) 4096 .load 0x0C = .ok (u, ga) ∧ (u.readG a).toNat = k.val ∧ k ≠ u.cur ∧ (u.at k).live = false ∧
          u.imageOk ga = true ∧ u.requestWaiting = false ∧ u.fitsFor k (u.imageSn ga) (u.imageVn ga) = true)
        (fun _ => (u.takeImage k ga).writeG d 1) ∧
      TrapsIf (.srest d a b) .stall [.wG d, .rG 1 a, .rG 2 b] true
        (fun s => s.imageFor (s.readG b) 4096 .load 0x0C = .ok (u, ga) ∧ (u.readG a).toNat = k.val ∧ k ≠ u.cur ∧ (u.at k).live = false ∧
          u.imageOk ga = false) (fun _ => ⟨13, 0, none, 5, none⟩)) ∧
  (∀ (c : Ctx) i n, c.imageWord i 2 = c.epc ∧ c.imageWord i 0x3F = c.pc ∧ (0x13 ≤ n → n < 0x3A → c.imageWord i n = 0) ∧
    (n < 32 → c.imageWord i (0x40 + n) = if n ≠ 0 ∧ n < 8 * c.sn then nth c.g n 0 else 0) ∧
    (n < 16 → c.imageWord i (0x60 + n) = nth c.f n 0) ∧ (n < 8 → c.imageWord i (0x70 + n) = if n = 0 then BitVec.allOnes 64 else nth c.k n 0)) ∧
  ∀ (s : State) (k : Fin 11) ga, (s.imageAt ga 10).bit 63 = false →
    let c := (s.takeImage k ga).at k
    let w (n : Nat) := s.imageAt ga n
    c.live = true ∧ c.gen = (s.at k).gen + 1 ∧ c.block = none ∧ c.gang = none ∧ c.pc = w 0x3F ∧ c.epc = w 2 ∧ c.faddr = w 3 ∧
    c.finfo = w 4 ∧ c.srcount = w 8 ∧ c.task = w 0xE ∧ c.dtime = w 0x10 ∧ c.hres = w 0x11 ∧ c.hscr = w 0x12 ∧
    c.sn = (w 6).bits 0 3 ∧ c.vn = (w 6).bits 4 3 ∧ c.token = (w 0x3E).bit 24 ∧
    (∀ n, n < 16 → nth c.f n 0 = w (0x60 + n)) ∧ (∀ n, n < 8 → nth c.k n 0 = w (0x70 + n)) ∧
    ∀ n, n < 32 → nth c.g n 0 = if n ≠ 0 ∧ n < 8 * c.sn then w (0x40 + n) else 0

/-- R367 to R369: `ssave.core` writes the core's sections and takes its commands out of their queues, D taking 1; it is held
while a started matrix command or an event message is under way. `ssave.ack` writes 1 once nothing is outstanding and no command
runs. `srest.core` takes the sections back, D taking 1. (What the rules leave open here is settled as in
log entries 58 and 60.) -/
def Obligations.CoreImages : Prop :=
  (∀ d b s u ga, s.canIssue .stall [.wG d, .rG 2 b] true = true → s.imageFor (s.readG b) 32768 .store 0x0B = .ok (u, ga) →
    (u.draining = true → exec (.ssaveCore d b) s = .next ({ u with stalled := true }.issued s.cur [.wG d, .rG 2 b])) ∧
    (u.draining = false → ∃ t, exec (.ssaveCore d b) s = .next t ∧ t.eng.copy = [] ∧ t.eng.gather = [] ∧ t.eng.event = [] ∧
      t.mx.queue = [] ∧ t.launch.image = ga ∧ t.images.length = u.images.length + 1 ∧
      t = (({ (((u.unlist.writeCore ga).poke (ga + 0x7FF8) 8 (u.unlist.images.length + 1)).withEng
            fun e => { e with copy := [], gather := [], event := [] }).withMx (fun m => { m with queue := [] })
          with images := t.images, launch := t.launch } : State).writeG d 1).completed [.wG d, .rG 2 b])) ∧
  (∀ d,
    let busy (s : State) : Prop := s.inFlight ≠ 0 ∨ (∃ c ∈ s.eng.copy, c.started = true) ∨ (∃ c ∈ s.eng.gather, c.started = true) ∨
      (∃ c ∈ s.eng.event, c.started = true) ∨ ∃ c ∈ s.mx.queue, c.started = true
    CompletesIf (.ssaveAck d) .stall [.wG d] true busy (fun s => s.writeG d 0) ∧
    CompletesIf (.ssaveAck d) .stall [.wG d] true (fun s => ¬ busy s)
      (fun s => ({ s with launch := { s.launch with acked := true } } : State).writeG d 1)) ∧
  ∀ d b s u ga, s.canIssue .stall [.wG d, .rG 2 b] true = true → s.imageFor (s.readG b) 32768 .load 0x0C = .ok (u, ga) →
    ∃ t, exec (.srestCore d b) s = .next t ∧ t.regs.tvec = (u.imageAt ga 0) &&& 0xFFFFFFFFFFFFFFFE ∧
      t.regs.ptb = (u.imageAt ga 1) &&& 0xFFFFFFFFFFFFF000 ∧ t.regs.jobseed = u.imageAt ga 3 ∧
      t.regs.taskstat = u.imageAt ga 0x27 ∧ t.regs.lodcnt = u.imageAt ga 0xA ∧
      (∀ k, k < 256 → (nth t.sems k 0).toNat = u.peek (ga + 0x600 + 2 * k) 2 % 2 ^ 16) ∧
      (∀ l k, l < 64 → k < 16 → nth (nth t.eng.layouts l (.replicate 16 0)) k 0 = u.imageAt ga (0x200 + 16 * l + k)) ∧
      ∀ a, t.mem.byte a = u.mem.byte a

/-! ### Floating point -/

namespace Sys2Proof.Claims

/-- R122: the instruction rounds an exact result once to FP32, in its mode or the mode of FRM, a draw giving the random bits of
SR; the flags join those of FRM. -/
def rounds (i : BitVec 3 → Instr) (uses : List Use) (d : Field) (x : Nat → State → Machine.Num × Flags) : Prop :=
  ∀ m, Completes (i m) .free uses false fun s =>
    let rm := s.ctx.mode m
    let y := finishNum fp32 rm s.ctx.sat (if rm = 4 then (s.drawAt 0).bits 0 16 else 0) (x rm s)
    ((if rm = 4 then s.drew 1 else s).flag y.2).writeF d (BitVec.ofNat 64 y.1)

/-- The number that a finite value is. -/
def value : Machine.Num → ℚ
  | .fin neg m e => (if neg then -1 else 1) * (m : ℚ) * 2 ^ e
  | _ => 0

/-- The magnitude of a code, the exponent unbounded: the codes of a format and those above its largest follow one another. -/
def magnitude (f : Format) (c : Nat) : ℚ :=
  if c < 2 ^ f.mw then (c : ℚ) * 2 ^ (1 - (f.bias : Int) - f.mw)
  else ((2 ^ f.mw + c % 2 ^ f.mw : Nat) : ℚ) * 2 ^ ((c / 2 ^ f.mw : Nat) - (f.bias : Int) - f.mw)

/-- R111, R113: the magnitude `x` of a number of this sign, from `a` on and below `b`, moves up to `b`; a tie does so where the
lower one is odd. -/
def movesUp (rm : Nat) (neg odd : Bool) (r : Nat) (a b x : ℚ) : Prop :=
  match rm with
  | 0 => b - x < x - a ∨ b - x = x - a ∧ odd = true
  | 1 => False
  | 2 => neg = false ∧ a < x
  | 3 => neg = true ∧ a < x
  | _ => (r : Int) < ⌊2 ^ 16 * (x - a) / (b - a)⌋

/-- The same between the neighbours `lo` and `lo + 1` of a format. -/
def goesUp (f : Format) (rm : Nat) (neg : Bool) (r lo : Nat) (x : ℚ) : Prop :=
  movesUp rm neg (lo % 2 == 1) r (magnitude f lo) (magnitude f (lo + 1)) x

end Sys2Proof.Claims

open Classical in
/-- R111 to R114: the rounding of a finite value to a floating format. The magnitude stands between two neighbours of the format
with the exponent unbounded; the mode chooses one; a chosen magnitude above the largest finite one is an overflow, finished
as R112 says; NX tells an inexact result, UF one that is also below the smallest normal and not zero. -/
def Obligations.RoundingIsCorrect : Prop :=
  ∀ f ∈ [fp32, fp16, bf16, e4m3, e5m2, e2m1, fa48], ∀ (rm : Nat) (sat neg : Bool) (r m : Nat) (e : Int), rm < 5 → r < 2 ^ 16 →
    let x : ℚ := (m : ℚ) * 2 ^ e
    let sign := if neg then 2 ^ (f.ew + f.mw) else 0
    ∃ lo : Nat, Claims.magnitude f lo ≤ x ∧ x < Claims.magnitude f (lo + 1) ∧
      let c := if Claims.goesUp f rm neg r lo x then lo + 1 else lo
      let y := f.round rm sat r neg m e
      (f.largest < c → y = (if f.ieee ∧ sat = false ∧ (rm = 0 ∨ rm = 4 ∨ rm = 2 ∧ neg = false ∨ rm = 3 ∧ neg = true)
        then f.infinity neg else sign + f.largest, ⟨false, false, true, false, true⟩)) ∧
      (c ≤ f.largest → y.1 = sign + c ∧ y.2.nv = false ∧ y.2.dz = false ∧ y.2.of = false ∧
        (y.2.nx = true ↔ Claims.magnitude f c ≠ x) ∧
        (y.2.uf = true ↔ Claims.magnitude f c ≠ x ∧ c ≠ 0 ∧ c < 2 ^ f.mw))

/-- R106, R112, R122, R123: the arithmetic instructions round one exact result; `fmin` and `fmax` write the chosen operand's bits.
A finite result is rounded as `RoundingIsCorrect` says, its flags joining those of the operation; a NaN is finished as the
format's canonical one, an infinity as its own, with no flag of the finishing. (The order is that of log entry 69.) -/
def Obligations.FloatArithmetic : Prop :=
  (∀ (f : Format) (rm : Nat) (sat : Bool) (r : Nat) (fl : Flags),
    (∀ n m e, finishNum f rm sat r (.fin n m e, fl) = ((f.round rm sat r n m e).1, fl.or (f.round rm sat r n m e).2)) ∧
    (∀ q, finishNum f rm sat r (.nan q, fl) = (f.canonical, fl)) ∧ ∀ n, finishNum f rm sat r (.inf n, fl) = (f.infinity n, fl)) ∧
  (∀ p ∈ [(fp32, 0x7FC00000), (fp16, 0x7E00), (bf16, 0x7FC0), (e4m3, 0x7F), (e5m2, 0x7E), (fa48, 0x7FC000000000)],
    Format.canonical p.1 = p.2) ∧
  (∀ p ∈ [(fp32, 0x7F800000, 0xFF800000), (fp16, 0x7C00, 0xFC00), (bf16, 0x7F80, 0xFF80), (e5m2, 0x7C, 0xFC),
      (fa48, 0x7F8000000000, 0xFF8000000000)], Format.infinity p.1 false = p.2.1 ∧ Format.infinity p.1 true = p.2.2) ∧
  (∀ d a b,
    Claims.rounds (.fadd d a b) [.wF d, .rF 1 a, .rF 2 b] d (fun rm s => (s.fp a).add rm (s.fp b)) ∧
    Claims.rounds (.fsub d a b) [.wF d, .rF 1 a, .rF 2 b] d (fun rm s => (s.fp a).add rm (s.fp b).neg) ∧
    Claims.rounds (.fmul d a b) [.wF d, .rF 1 a, .rF 2 b] d (fun _ s => (s.fp a).mul (s.fp b)) ∧
    Claims.rounds (.fdiv d a b) [.wF d, .rF 1 a, .rF 2 b] d (fun _ s => (s.fp a).div (s.fp b)) ∧
    Claims.rounds (.fsqrt d a) [.wF d, .rF 1 a] d (fun _ s => (s.fp a).sqrt) ∧
    (∀ c,
      Claims.rounds (.fma d a b c) [.wF d, .rF 1 a, .rF 2 b, .rF 3 c] d (fun rm s =>
        ((((s.fp a).mul (s.fp b)).1.add rm (s.fp c)).1,
          ((s.fp a).mul (s.fp b)).2.or (((s.fp a).mul (s.fp b)).1.add rm (s.fp c)).2)) ∧
      Claims.rounds (.fnma d a b c) [.wF d, .rF 1 a, .rF 2 b, .rF 3 c] d (fun rm s =>
        ((((s.fp a).mul (s.fp b)).1.neg.add rm (s.fp c)).1,
          ((s.fp a).mul (s.fp b)).2.or (((s.fp a).mul (s.fp b)).1.neg.add rm (s.fp c)).2))) ∧
    Completes (.fmin d a b) .free [.wF d, .rF 1 a, .rF 2 b] false (fun s =>
      let y := minMax fp32 false ((s.readF a).bits 0 32) ((s.readF b).bits 0 32)
      (s.flag y.2).writeF d (BitVec.ofNat 64 y.1)) ∧
    Completes (.fmax d a b) .free [.wF d, .rF 1 a, .rF 2 b] false (fun s =>
      let y := minMax fp32 true ((s.readF a).bits 0 32) ((s.readF b).bits 0 32)
      (s.flag y.2).writeF d (BitVec.ofNat 64 y.1))) ∧
  (∀ a b, let x := fp32.read a; let y := fp32.read b
    (x.isNan = true → y.isNan = true → (minMax fp32 false a b).1 = 0x7FC00000 ∧ (minMax fp32 true a b).1 = 0x7FC00000) ∧
    (x.isNan = true → y.isNan = false → (minMax fp32 false a b).1 = b ∧ (minMax fp32 true a b).1 = b) ∧
    (x.isNan = false → y.isNan = true → (minMax fp32 false a b).1 = a ∧ (minMax fp32 true a b).1 = a) ∧
    (x.isNan = false → y.isNan = false → x.cmp y < 0 ∨ x.cmp y = 0 ∧ x.sign = true ∧ y.sign = false →
      (minMax fp32 false a b).1 = a ∧ (minMax fp32 true a b).1 = b ∧ (minMax fp32 false b a).1 = a ∧ (minMax fp32 true b a).1 = b) ∧
    (minMax fp32 false a b).2 = ⟨x.isSnan || y.isSnan, false, false, false, false⟩ ∧ (minMax fp32 true a b).2 = (minMax fp32 false a b).2) ∧
  ∀ (p q : Bool) (m n : Nat) (e d : Int) (rm : Nat),
    let x := Machine.Num.fin p m e
    let y := Machine.Num.fin q n d
    Claims.value (x.add rm y).1 = Claims.value x + Claims.value y ∧ (x.add rm y).2 = Flags.none ∧
    Claims.value (x.mul y).1 = Claims.value x * Claims.value y ∧ (x.mul y).2 = Flags.none ∧ Claims.value x.neg = -Claims.value x ∧
    (m ≠ 0 → n = 0 → x.div y = (.inf (p != q), ⟨false, true, false, false, false⟩)) ∧
    (n ≠ 0 → ∃ t k, x.div y = (.fin (p != q) t k, .none) ∧ abs ((t : ℚ) * 2 ^ k - abs (Claims.value x / Claims.value y)) < 2 ^ k ∧
      (t % 2 = 0 → (t : ℚ) * 2 ^ k = abs (Claims.value x / Claims.value y))) ∧
    (m ≠ 0 → p = true → x.sqrt = (.nan false, .invalid)) ∧
    (m ≠ 0 → p = false → ∃ t k, x.sqrt = (.fin false t k, .none) ∧ 2 ^ 64 ≤ t ∧
      (t % 2 = 0 → ((t : ℚ) * 2 ^ k) ^ 2 = Claims.value x) ∧
      (t % 2 = 1 → (((t - 1 : Nat) : ℚ) * 2 ^ k) ^ 2 < Claims.value x ∧ Claims.value x < (((t + 1 : Nat) : ℚ) * 2 ^ k) ^ 2))

namespace Sys2Proof.Claims

/-- R110: a register as an operand of this format: integers lie in the scalar space, all else in the floating one. -/
def src (i : Nat) (code : BitVec 4) (n : Field) : Use := if 8 ≤ code.toNat ∧ code.toNat ≤ 14 then .rG i n else .rF i n
def dst (code : BitVec 4) (n : Field) : Use := if 8 ≤ code.toNat ∧ code.toNat ≤ 14 then .wG n else .wF n

/-- R110: what the operand is, and how a result is laid out there: a signed integer is sign-extended. -/
def operand (s : State) (code : BitVec 4) (n : Field) : Word := if 8 ≤ code.toNat ∧ code.toNat ≤ 14 then s.readG n else s.readF n
def result (s : State) (code : BitVec 4) (n : Field) (v : Nat) : State :=
  match code.toNat with
  | 8 => s.writeG n ((BitVec.ofNat 8 v).signExtend 64)
  | 9 | 11 | 13 => s.writeG n (BitVec.ofNat 64 v)
  | 10 => s.writeG n ((BitVec.ofNat 32 v).signExtend 64)
  | 12 => s.writeG n (BitVec.ofNat 64 v)
  | 14 => s.writeG n ((BitVec.ofNat 48 v).signExtend 64)
  | _ => s.writeF n (BitVec.ofNat 64 v)

/-- R126: the conversion of the operand, with the flags it raises. -/
def converted (s : State) (d a : Field) (dc sc : BitVec 4) (rm r : Nat) : State :=
  let y := writeCode dc.toNat rm s.ctx.sat r (readCode sc.toNat (operand s sc a).toNat)
  result (s.flag y.2) dc d y.1

/-- R110: the floating formats by code. -/
def floatCodes : List (Nat × Format) := [(0, fp32), (1, fp16), (2, bf16), (3, e4m3), (4, e5m2), (5, e2m1), (15, fa48)]

/-- R107, R110: the integer formats by code, signed or not, and their widths. -/
def integerCodes : List (Nat × Bool × Nat) :=
  [(8, true, 8), (9, false, 8), (10, true, 32), (11, false, 32), (12, true, 64), (13, false, 64), (14, true, 48)]

/-- The code of an integer, clamped to a format, in its low bits. -/
def clampedTo (signed : Bool) (w : Nat) (v : Int) : Nat × Bool :=
  let low : Int := if signed then -2 ^ (w - 1) else 0
  let high : Int := if signed then 2 ^ (w - 1) - 1 else 2 ^ w - 1
  ((max low (min v high) % 2 ^ w).toNat, decide (v < low) || decide (high < v))

/-- R108: the value of a TW8 code, term by term. -/
def twin (c : Nat) : ℚ :=
  let term (s e : Nat) : ℚ := if e = 7 then 0 else (if s = 1 then -1 else 1) / 2 ^ e
  term (c / 128 % 2) (c / 16 % 8) + term (c / 8 % 2) (c % 8)

/-- R109: the tests that choose the canonical code among the codes of one value, fewest terms, equal signs, the
smaller E1; one term stands first. -/
def twinCanonical (c : Nat) : Prop :=
  let e1 := c / 16 % 8
  let e2 := c % 8
  (e1 = 7 → c = 0x77) ∧ (e2 = 7 → c / 8 % 2 = 0) ∧
  ∀ b < 256, twin b = twin c →
    let terms (x : Nat) : Nat := (if x / 16 % 8 = 7 then 0 else 1) + (if x % 8 = 7 then 0 else 1)
    let same (x : Nat) : Prop := x / 128 % 2 = x / 8 % 2
    terms c ≤ terms b ∧ (terms c = 2 → terms b = 2 → (same b → same c) ∧ ((same b ↔ same c) → b / 16 % 8 < b % 8 → e1 < e2))

end Sys2Proof.Claims

open Classical in
/-- R123 to R129: signs, copies and immediates move bits and set no flags; comparisons, classes, conversions (with one draw in
SR) and block scales. What a conversion writes is R111 to R113 for a finite value, and R106, R107 and R112 for the rest. (What a
TW8 conversion does above 2 is log entry 101's.) -/
def Obligations.FloatMovesAndConversions : Prop :=
  (∀ d a b,
    let sign (f : Bool → Bool → Bool) (s : State) : State :=
      s.writeF d (BitVec.ofNat 64 ((f ((s.readF a).bit 31) ((s.readF b).bit 31)).toNat * 2 ^ 31 + (s.readF a).bits 0 31))
    let uses : List Use := [.wF d, .rF 1 a, .rF 2 b]
    Completes (.fsgnCp d a b) .free uses false (sign fun _ y => y) ∧ Completes (.fsgnNeg d a b) .free uses false (sign fun _ y => !y) ∧
    Completes (.fsgnXor d a b) .free uses false (sign fun x y => x ^^ y)) ∧
  (∀ d a, Completes (.fmovFF d a) .free [.wF d, .rF 1 a] false (fun s => s.writeF d (s.readF a)) ∧
    Completes (.fmovFG d a) .free [.wF d, .rG 1 a] false (fun s => s.writeF d (s.readG a)) ∧
    Completes (.fmovGF d a) .free [.wG d, .rF 1 a] false (fun s => s.writeG d (s.readF a)) ∧
    ∀ i, Completes (.fldi d i) .free [.wF d] false (fun s => s.writeF d i)) ∧
  (∀ d a b (c : BitVec 3), c.toNat < 5 → Completes (.fcmp d a b c) .free [.wG d, .rF 1 a, .rF 2 b] false fun s =>
    let x := s.fp a
    let y := s.fp b
    let nan := x.isNan || y.isNan
    let yes : Bool := match c.toNat with
      | 0 => !nan && x.cmp y == 0
      | 1 => !nan && decide (x.cmp y < 0)
      | 2 => !nan && decide (x.cmp y ≤ 0)
      | 3 => nan
      | _ => nan || x.cmp y != 0
    (s.flag ⟨(x.isSnan || y.isSnan) || (nan && (c == 1 || c == 2)), false, false, false, false⟩).writeG d (if yes then 1 else 0)) ∧
  (∀ d a f, ∃ k : Nat → Nat, Completes (.fclass d a f) .free [.wG d, .rF 1 a] false (fun s =>
      s.writeG d (BitVec.ofNat 64 (2 ^ k (s.readF a).toNat))) ∧
    ∀ x, k x < 10 ∧
      ((readCode f.toNat x).isNan = true → k x = if (readCode f.toNat x).isSnan then 8 else 9) ∧
      ((readCode f.toNat x).isInf = true → k x = if (readCode f.toNat x).sign then 0 else 7) ∧
      ((readCode f.toNat x).isZero = true → k x = if f ≠ 7 ∧ (readCode f.toNat x).sign then 3 else 4) ∧
      ((readCode f.toNat x).isNan = false → (readCode f.toNat x).isInf = false → (readCode f.toNat x).isZero = false →
        (∀ p ∈ Claims.floatCodes, f.toNat = p.1 → k x =
          if x / 2 ^ p.2.mw % 2 ^ p.2.ew = 0 then (if (readCode f.toNat x).sign then 2 else 5)
          else if (readCode f.toNat x).sign then 1 else 6) ∧
        (6 ≤ f.toNat → f.toNat ≠ 15 → k x = if (readCode f.toNat x).sign then 1 else 6))) ∧
  (∀ (rm : Nat) (sat : Bool) (r : Nat), rm < 5 → r < 2 ^ 16 →
    let only (n : Bool) : Flags := ⟨n, false, false, false, false⟩
    (∀ p ∈ Claims.floatCodes,
      (∀ n m e, writeCode p.1 rm sat r (.fin n m e) = Format.round p.2 rm sat r n m e) ∧
      (p.1 ≠ 5 → ∀ q, writeCode p.1 rm sat r (.nan q) = (Format.canonical p.2, only (q || p.1 == 3))) ∧
      ∀ n, writeCode p.1 rm sat r (.inf n) = if p.1 = 3 then (if n then 0xFE else 0x7E, only true)
        else if p.1 = 5 then (if n then 0xF else 0x7, only true) else (Format.infinity p.2 n, only false)) ∧
    (∀ q, writeCode 5 rm sat r (.nan q) = (0, only true) ∧ writeCode 7 rm sat r (.nan q) = (0x77, only true)) ∧
    (∀ n, writeCode 7 rm sat r (.inf n) = (if n then 0x88 else 0x00, only true)) ∧
    (∀ n (m : Nat) (e : Int), let x : ℚ := (m : ℚ) * 2 ^ e
      let y := writeCode 7 rm sat r (.fin n m e)
      let sign : ℚ := if n then -1 else 1
      Claims.twinCanonical y.1 ∧ y.1 < 256 ∧
      (2 < x → Claims.twin y.1 = 2 * sign ∧ y.2 = ⟨false, false, true, false, true⟩) ∧
      (∀ c < 256, Claims.twin c = x → Claims.twin y.1 = sign * x ∧ y.2 = only false) ∧
      ∀ a < 256, ∀ b < 256, 0 ≤ Claims.twin a → Claims.twin a < x → x < Claims.twin b →
        (∀ c < 256, Claims.twin c ≤ Claims.twin a ∨ Claims.twin b ≤ Claims.twin c) →
        Claims.twin y.1 = sign * (if Claims.movesUp rm n false r (Claims.twin a) (Claims.twin b) x then Claims.twin b else Claims.twin a) ∧
          y.2 = ⟨false, false, false, false, true⟩) ∧
    ∀ p ∈ Claims.integerCodes,
      (∀ q, writeCode p.1 rm sat r (.nan q) = (0, only true)) ∧
      (∀ n, ∃ v : Int, (Claims.clampedTo p.2.1 p.2.2 v).2 = true ∧ decide (v < 0) = n ∧
        writeCode p.1 rm sat r (.inf n) = ((Claims.clampedTo p.2.1 p.2.2 v).1, only true)) ∧
      ∀ n (m : Nat) (e : Int), let x : ℚ := (m : ℚ) * 2 ^ e
        let lo : Int := ⌊x⌋
        let v : Int := (if n then -1 else 1) * (if Claims.movesUp rm n (lo % 2 == 1) r lo (lo + 1) x then lo + 1 else lo)
        writeCode p.1 rm sat r (.fin n m e) = ((Claims.clampedTo p.2.1 p.2.2 v).1,
          if (Claims.clampedTo p.2.1 p.2.2 v).2 then only true else ⟨false, false, false, false, decide ((lo : ℚ) ≠ x)⟩)) ∧
  (∀ d a (m : BitVec 3) (dc sc : BitVec 4), Completes (.fcvt d a m dc sc) .free [Claims.dst dc d, Claims.src 1 sc a] false fun s =>
    if s.ctx.mode m = 4 then Claims.converted (s.drew 1) d a dc sc 4 ((s.drawAt 0).bits 0 16)
    else Claims.converted s d a dc sc (s.ctx.mode m) 0) ∧
  (∀ d a b (dc sc : BitVec 4),
    Completes (.fsr d a b dc sc) .free [Claims.dst dc d, Claims.src 1 sc a, .rG 2 b] false
      (fun s => Claims.converted s d a dc sc 4 ((s.readG b).bits 0 16))) ∧
  (∀ d, Completes (.fsrDraw d) .free [.wG d] false fun s => (s.drew 1).writeG d (s.drawAt 0)) ∧
  (∀ (s : State), (s.drew 1).ctx.srcount.bits 0 48 = (s.ctx.srcount.bits 0 48 + 1) % 2 ^ 48) ∧
  ∀ d a (byte : BitVec 3) (fmt : BitVec 4), ∃ k : Machine.Num → Nat × Bool,
    Completes (.fscl d a byte fmt) .free [.rwF d, .rF 1 a] false (fun s =>
      (s.flag ⟨(k (s.fp a)).2, false, false, false, false⟩).writeF d ((s.readF d).setBits (8 * byte.toNat) 8 (k (s.fp a)).1)) ∧
    (∀ x, x.isNan = true ∨ x.isInf = true → k x = (0xFF, true)) ∧
    ∀ neg m e, (k (.fin neg m e)).2 = false ∧ (m = 0 → (k (.fin neg m e)).1 = 0) ∧
      (m ≠ 0 → ∃ n : Int, (m : ℚ) * 2 ^ e ≤ (scaleMax fmt.toNat : ℚ) * 2 ^ n ∧ (scaleMax fmt.toNat : ℚ) * 2 ^ (n - 1) < (m : ℚ) * 2 ^ e ∧
        ((k (.fin neg m e)).1 : Int) = if n < -127 then 0 else if 127 < n then 254 else n + 127)

/-! ### Vectors -/

namespace Sys2Proof.Claims

/-- R131, R133, R134: an instruction whose destination has elements of `w` bits writes each active element, and keeps or zeroes
(or, to a channel, zeroes) each other; VSTART is 0. -/
def vector (i : Instr) (uses : List Use) (d : Field) (w : Nat) (k : BitVec 3) (z : Bool) (f : State → Nat → Nat) : Prop :=
  Completes i .free uses false fun s =>
    let t := s.writeV d (vecOf w (512 / w) fun j =>
      if (s.readK k.toNat).bit j then f s j else if z || 32 ≤ d.toNat then 0 else vecElem (nth s.ctx.v d.toNat 0) w j)
    t.restarted

/-- Element `j` of the second operand: of a vector, or a scalar that serves every element. -/
def second (s : State) (v : VArgs) (fp : Bool) (w j : Nat) : Nat :=
  if v.s then (if fp then s.readF v.b else s.readG v.b).toNat % 2 ^ w else vecElem (s.readV v.b) w j

def useSecond (v : VArgs) (fp : Bool) : Use := if v.s then (if fp then .rF 2 v.b else .rG 2 v.b) else .rV 2 v.b

/-- An instruction that computes one function of the elements of its two operands. -/
def integer (i : VArgs → Instr) (f : (n : Nat) → BitVec n → BitVec n → BitVec n) : Prop :=
  ∀ v, vector (i v) [.wV v.d, .rV 1 v.a, useSecond v false] v.d (8 * 2 ^ v.w.toNat) v.k v.z fun s j =>
    let n := 8 * 2 ^ v.w.toNat
    (f n (.ofNat n (vecElem (s.readV v.a) n j)) (.ofNat n (second s v false n j))).toNat

/-- R136: wrapped, or clamped to the signed or the unsigned range. -/
def clamped (sat : BitVec 2) (n : Nat) (x : Int) : BitVec n :=
  if sat = 1 then .ofInt n (max (-2 ^ (n - 1)) (min x (2 ^ (n - 1) - 1)))
  else if sat = 2 then .ofInt n (max 0 (min x (2 ^ n - 1))) else .ofInt n x

def elem (unsigned : Bool) {n : Nat} (x : BitVec n) : Int := if unsigned then x.toNat else x.toInt

/-- R137: a shift that rounds, ties up or to even. -/
def shifted (ev : Bool) (x : Int) (n : Nat) : Int :=
  if n = 0 then x
  else
    let y := (x + 2 ^ (n - 1)) / 2 ^ n
    if ev ∧ x % 2 ^ n = 2 ^ (n - 1) ∧ y % 2 = 1 then y - 1 else y

/-- R141: an instruction that rearranges the elements of its sources. -/
def moves (i : VArgs3 → Instr) (extra : List Use) (f : State → Nat → (Nat → Nat) → (Nat → Nat) → Nat → Nat) : Prop :=
  ∀ v, vector (i v) ([.wV v.d, .rV 1 v.a, .rV 2 v.b] ++ extra) v.d (8 * 2 ^ v.w.toNat) v.k v.z fun s j =>
    let n := 8 * 2 ^ v.w.toNat
    f s (512 / n) (vecElem (s.readV v.a) n) (vecElem (s.readV v.b) n) j

/-- R146: an instruction on masks. -/
def mask (i : Instr) (d : Field) (uses : List Use) (f : State → Word) : Prop :=
  Completes i .free (.wK d :: uses) false fun s => (s.writeK d (f s)).restarted

def toScalar (i : Instr) (d : Field) (uses : List Use) (f : State → Word) : Prop :=
  Completes i .free (.wG d :: uses) false fun s => (s.writeG d (f s)).restarted

/-- R135, R143: a floating result: each active element rounded to the format, `n` elements making draws in SR; flags join FRM. -/
def floating (i : Instr) (uses : List Use) (d : Field) (fmt : Format) (w : Nat) (k : BitVec 3) (z : Bool) (m : BitVec 3)
    (f : Nat → State → Nat → Machine.Num × Flags) : Prop :=
  Completes i .free uses false fun s =>
    let rm := s.ctx.mode m
    let r (j : Nat) : Nat := if rm = 4 then (s.drawAt (j / 4)).bits (16 * (j % 4)) 16 else 0
    let y (j : Nat) : Nat × Flags := finishNum fmt rm s.ctx.sat (r j) (f rm s j)
    let t := s.writeV d (vecOf w (512 / w) fun j =>
      if (s.readK k.toNat).bit j then (y j).1 else if z || 32 ≤ d.toNat then 0 else vecElem (nth s.ctx.v d.toNat 0) w j)
    let u := (if rm = 4 then t.drew ((512 / w + 3) / 4) else t).flag (flagsOf (512 / w) (s.readK k.toNat).bit fun j => (y j).2)
    u.restarted

/-- The width and the format of a floating view (R131). -/
def fpWidth (w : BitVec 2) : Nat := if w = 0 then 32 else 16
def fpView (w : BitVec 2) : Format := if w = 0 then fp32 else if w = 1 then fp16 else bf16

/-- R142: the fixed tree over the elements `i * 2 ^ n` to `i * 2 ^ n + 2 ^ n - 1`: what its pairs make of those present, and the
flags raised below. -/
def tree (f : Nat → Nat → Nat × Flags) (leaf : Nat → Option (Nat × Flags)) : Nat → Nat → Option (Nat × Flags)
  | 0, i => leaf i
  | n + 1, i =>
    match tree f leaf n (2 * i), tree f leaf n (2 * i + 1) with
    | some x, some y => some ((f x.1 y.1).1, x.2.or (y.2.or (f x.1 y.1).2))
    | some x, none => some x
    | none, some y => some y
    | none, none => none

/-- R110, R144: the bits of a format's value in a vector register. -/
def width : Nat → Nat
  | 0 | 10 | 11 => 32
  | 1 | 2 => 16
  | 5 => 4
  | 12 | 13 => 64
  | _ => 8

end Sys2Proof.Claims

/-- R131, R136, R137: the integer instructions, element by element. -/
def Obligations.VectorInteger : Prop :=
  (∀ w ∈ [8, 16, 32, 64], ∀ f j, j < 512 / w → vecElem (vecOf w (512 / w) f) w j = f j % 2 ^ w) ∧
  (∀ sat, Claims.integer (.vadd · sat) (fun n x y => Claims.clamped sat n (Claims.elem (sat = 2) x + Claims.elem (sat = 2) y)) ∧
    Claims.integer (.vsub · sat) (fun n x y => Claims.clamped sat n (Claims.elem (sat = 2) x - Claims.elem (sat = 2) y)) ∧
    ∀ v, Claims.vector (.vmacc v sat) [.rwV v.d, .rV 1 v.a, Claims.useSecond v false] v.d (8 * 2 ^ v.w.toNat) v.k v.z fun s j =>
      let n := 8 * 2 ^ v.w.toNat
      let e (x : Nat) : Int := Claims.elem (sat = 2) (BitVec.ofNat n x)
      (Claims.clamped sat n (e (vecElem (s.readV v.d) n j) +
        e (vecElem (s.readV v.a) n j) * e (Claims.second s v false n j))).toNat) ∧
  Claims.integer .vmul (fun _ x y => x * y) ∧
  Claims.integer .vmulh (fun n x y => .ofInt n (x.toInt * y.toInt / 2 ^ n)) ∧
  Claims.integer .vmulhU (fun n x y => .ofNat n (x.toNat * y.toNat / 2 ^ n)) ∧
  (∀ u, Claims.integer (.vmin · u) (fun _ x y => if Claims.elem u y < Claims.elem u x then y else x) ∧
    Claims.integer (.vmax · u) (fun _ x y => if Claims.elem u x < Claims.elem u y then y else x)) ∧
  (∀ (v : VArgs2) sat, Claims.vector (.vabs v sat) [.wV v.d, .rV 1 v.a] v.d (8 * 2 ^ v.w.toNat) v.k v.z fun s j =>
    let n := 8 * 2 ^ v.w.toNat
    let x : BitVec n := .ofNat n (vecElem (s.readV v.a) n j)
    (if sat ∧ x = BitVec.intMin n then BitVec.intMax n else if x.toInt < 0 then -x else x).toNat) ∧
  Claims.integer .vand (fun _ x y => x &&& y) ∧ Claims.integer .vor (fun _ x y => x ||| y) ∧
  Claims.integer .vxor (fun _ x y => x ^^^ y) ∧ Claims.integer .vandn (fun _ x y => x &&& ~~~y) ∧
  Claims.integer .vshl (fun n x y => x <<< (y.toNat % n)) ∧ Claims.integer .vshr (fun n x y => x >>> (y.toNat % n)) ∧
  Claims.integer .vsra (fun n x y => x.sshiftRight (y.toNat % n)) ∧
  ∀ (range : BitVec 2) ev, Claims.integer (.vrshr · range ev) fun n x y =>
    let r := Claims.shifted ev x.toInt (y.toNat % n)
    .ofInt n (match range.toNat with
      | 0 => r
      | 1 => max (-128) (min r 127)
      | 2 => max 0 (min r 255)
      | _ => max (-32768) (min r 32767))

/-- R135, R138, R143, R144: the floating instructions, dot products and conversions. -/
def Obligations.VectorFloating : Prop :=
  (∀ (v : VArgs) m,
    let uses : List Use := [.wV v.d, .rV 1 v.a, Claims.useSecond v true]
    let w := Claims.fpWidth v.w
    let x (s : State) (j : Nat) : Machine.Num := (Claims.fpView v.w).read (vecElem (s.readV v.a) w j)
    let y (s : State) (j : Nat) : Machine.Num := (Claims.fpView v.w).read (Claims.second s v true w j)
    let is (i : Instr) (f : Nat → State → Nat → Machine.Num × Flags) : Prop := Claims.floating i uses v.d (Claims.fpView v.w) w v.k v.z m f
    is (.vfadd v m) (fun rm s j => (x s j).add rm (y s j)) ∧ is (.vfsub v m) (fun rm s j => (x s j).add rm (y s j).neg) ∧
    is (.vfmul v m) (fun _ s j => (x s j).mul (y s j)) ∧
    (∀ c, let z (s : State) (j : Nat) : Machine.Num := (Claims.fpView v.w).read (vecElem (s.readV c) w j)
      Claims.floating (.vfma v c m) (uses ++ [.rV 3 c]) v.d (Claims.fpView v.w) w v.k v.z m
        (fun rm s j => (((x s j).mul (y s j)).1.add rm (z s j) |>.1,
          ((x s j).mul (y s j)).2.or ((((x s j).mul (y s j)).1.add rm (z s j)).2))) ∧
      Claims.floating (.vfnma v c m) (uses ++ [.rV 3 c]) v.d (Claims.fpView v.w) w v.k v.z m
        (fun rm s j => (((x s j).mul (y s j)).1.neg.add rm (z s j) |>.1,
          ((x s j).mul (y s j)).2.or ((((x s j).mul (y s j)).1.neg.add rm (z s j)).2)))) ∧
    ∀ greater : Bool, Completes (if greater then .vfmax v else .vfmin v) .free uses false fun s =>
      let r (j : Nat) : Nat × Flags := minMax (Claims.fpView v.w) greater (vecElem (s.readV v.a) w j) (Claims.second s v true w j)
      let t := s.writeV v.d (vecOf w (512 / w) fun j => if (s.readK v.k.toNat).bit j then (r j).1
        else if v.z || 32 ≤ v.d.toNat then 0 else vecElem (nth s.ctx.v v.d.toNat 0) w j)
      let u := t.flag (flagsOf (512 / w) (s.readK v.k.toNat).bit fun j => (r j).2)
      u.restarted) ∧
  (∀ (v : VArgs3) (f : BitVec 6),
    let uses : List Use := [.rwV v.d, .rV 1 v.a, .rV 2 v.b]
    (f.getLsbD 3 = false → v.w ≠ 0 → f.toNat % 4 < 3 →
      let e := if v.w = 3 then 16 else 8
      let n := 8 * 2 ^ v.w.toNat
      let ua : Bool := f.toNat % 4 ≠ 0
      let ub : Bool := f.toNat % 4 = 2
      Claims.vector (.vdot v f) uses v.d n v.k v.z fun s j =>
        let p (q : Nat) : Int := Claims.elem ua (BitVec.ofNat e (vecElem (s.readV v.a) e q)) *
          Claims.elem ub (BitVec.ofNat e (vecElem (s.readV v.b) e q))
        let x := Claims.elem ub (BitVec.ofNat n (vecElem (s.readV v.d) n j)) + ((List.range (n / e)).map fun q => p (n / e * j + q)).sum
        (Claims.clamped (if f.getLsbD 2 then (if ub then 2 else 1) else 0) n x).toNat) ∧
    (f.getLsbD 3 = true → Claims.floating (.vdot v f) uses v.d fp32 32 v.k v.z (f.truncate 3) fun rm s j =>
      let p (q : Nat) : Machine.Num × Flags := (bf16.read (vecElem (s.readV v.a) 16 q)).mul (bf16.read (vecElem (s.readV v.b) 16 q))
      let x := (p (2 * j)).1.add rm (p (2 * j + 1)).1
      let y := x.1.add rm (fp32.read (vecElem (s.readV v.d) 32 j))
      (y.1, (p (2 * j)).2.or ((p (2 * j + 1)).2.or (x.2.or y.2))))) ∧
  ∀ d a k z m (p : BitVec 3) (dc sc : BitVec 4), Completes (.vcvt d a k z m p dc sc) .free [.wV d, .rV 1 a] false fun s =>
    let ws := Claims.width sc.toNat
    let wd := Claims.width dc.toNat
    let n := 512 / max ws wd
    let rm := s.ctx.mode m
    let r (j : Nat) : Nat := if rm = 4 then (s.drawAt (j / 4)).bits (16 * (j % 4)) 16 else 0
    let y (j : Nat) : Nat × Flags :=
      writeCode dc.toNat rm s.ctx.sat (r j) (readCode sc.toNat (vecElem (s.readV a) ws (if ws < wd then p.toNat * n + j else j)))
    let base := if wd < ws then p.toNat * n else 0
    let old (j : Nat) : Nat := if 32 ≤ d.toNat then 0 else vecElem (nth s.ctx.v d.toNat 0) wd j
    let t := s.writeV d (vecOf wd (512 / wd) fun j =>
      if base ≤ j ∧ j < base + n then (if (s.readK k.toNat).bit (j - base) then (y (j - base)).1 else if z then 0 else old j) else old j)
    let u := (if rm = 4 then t.drew ((n + 3) / 4) else t).flag (flagsOf n (s.readK k.toNat).bit fun j => (y j).2)
    u.restarted

/-- R139 to R142, R145, R146: comparisons, selections, moves, permutes, reductions, width changes and masks. (What the rules leave open here is settled as in
log entries 23 and 69.) -/
def Obligations.VectorData : Prop :=
  (∀ (v : VArgs) (c : BitVec 4), c.toNat < 8 → Completes (.vcmp v false c) .free [.wK v.d, .rV 1 v.a, Claims.useSecond v false] false fun s =>
    let n := 8 * 2 ^ v.w.toNat
    let yes (j : Nat) : Bool := Claims.holds c ((BitVec.ofNat n (vecElem (s.readV v.a) n j)).signExtend 64)
      ((BitVec.ofNat n (Claims.second s v false n j)).signExtend 64)
    let t := s.writeK v.d (maskOf (512 / n) fun j =>
      if (s.readK v.k.toNat).bit j then yes j else !v.z && (s.readK v.d.toNat).bit j)
    t.restarted) ∧
  (∀ (v : VArgs) (c : BitVec 4), Completes (.vcmp v true c) .free [.wK v.d, .rV 1 v.a, Claims.useSecond v true] false fun s =>
    let w := Claims.fpWidth v.w
    let r (j : Nat) : Bool × Flags := fcond (c.toNat % 8) ((Claims.fpView v.w).read (vecElem (s.readV v.a) w j))
      ((Claims.fpView v.w).read (Claims.second s v true w j))
    let t := (s.writeK v.d (maskOf (512 / w) fun j =>
      if (s.readK v.k.toNat).bit j then (r j).1 else !v.z && (s.readK v.d.toNat).bit j)).flag
        (flagsOf (512 / w) (s.readK v.k.toNat).bit fun j => (r j).2)
    t.restarted) ∧
  (∀ n f j, n ≤ 64 → j < 64 → (maskOf n f).bit j = (decide (j < n) && f j)) ∧
  (∀ d a b k w, Claims.vector (.vsel d a b k w) [.wV d, .rV 1 a, .rV 2 b] d (8 * 2 ^ w.toNat) 0 false fun s j =>
    vecElem (if (s.readK k.toNat).bit j then s.readV a else s.readV b) (8 * 2 ^ w.toNat) j) ∧
  (∀ (v : VArgs2) fp, Claims.vector (.vsplat v fp) [.wV v.d, if fp then .rF 1 v.a else .rG 1 v.a] v.d (8 * 2 ^ v.w.toNat) v.k v.z
    fun s _ => (if fp then s.readF v.a else s.readG v.a).toNat) ∧
  (∀ v : VArgs2, Claims.vector (.vmov v) [.wV v.d, .rV 1 v.a] v.d (8 * 2 ^ v.w.toNat) v.k v.z
    fun s j => vecElem (s.readV v.a) (8 * 2 ^ v.w.toNat) j) ∧
  (∀ d a c sx (w : BitVec 2), let n := 8 * 2 ^ w.toNat
    Claims.toScalar (.vmovX d a c sx w) d [.rV 1 a, .rG 3 c] (fun s =>
      let x : BitVec n := .ofNat n (vecElem (s.readV a) n ((s.readG c).toNat % (512 / n)))
      if sx then x.signExtend 64 else x.setWidth 64)) ∧
  (∀ d a c (w : BitVec 2), let n := 8 * 2 ^ w.toNat
    Completes (.vmovI d a c w) .free [.wV d, .rG 1 a, .rG 3 c] false fun s =>
      let t := s.writeV d (vecOf n (512 / n) fun j => if j = (s.readG c).toNat % (512 / n) then (s.readG a).toNat
        else if 32 ≤ d.toNat then 0 else vecElem (nth s.ctx.v d.toNat 0) n j)
      t.restarted) ∧
  Claims.moves .vperm [] (fun _ n a b j => a (b j % n)) ∧
  (∀ c, Claims.moves (.vslideDn · c) [.rG 3 c] (fun s n a b j =>
      let q := j + (s.readG c).toNat
      if q < n then a q else if q < 2 * n then b (q - n) else 0) ∧
    Claims.moves (.vslideUp · c) [.rG 3 c] (fun s n a b j =>
      let q : Int := n + j - (s.readG c).toNat
      if q < 0 then 0 else if q < n then b q.toNat else a (q.toNat - n)) ∧
    ∀ v, Claims.vector (.vperm2 v c) [.wV v.d, .rV 1 v.a, .rV 2 v.b, .rV 3 c] v.d (8 * 2 ^ v.w.toNat) v.k v.z fun s j =>
      let w := 8 * 2 ^ v.w.toNat
      let n := 512 / w
      let q := vecElem (s.readV v.b) w j % (2 * n)
      if q < n then vecElem (s.readV v.a) w q else vecElem (s.readV c) w (q - n)) ∧
  Claims.moves .vzipLo [] (fun _ _ a b j => if j % 2 = 0 then a (j / 2) else b (j / 2)) ∧
  Claims.moves .vzipHi [] (fun _ n a b j => if j % 2 = 0 then a (n / 2 + j / 2) else b (n / 2 + j / 2)) ∧
  Claims.moves .vunzipEv [] (fun _ n a b j => if 2 * j < n then a (2 * j) else b (2 * j - n)) ∧
  Claims.moves .vunzipOd [] (fun _ n a b j => if 2 * j + 1 < n then a (2 * j + 1) else b (2 * j + 1 - n)) ∧
  (∀ d a (k : BitVec 3) (w : BitVec 2) u,
    let n := 8 * 2 ^ w.toNat
    let xs (s : State) : List Int := ((List.range (512 / n)).filter (s.readK k.toNat).bit).map fun j =>
      Claims.elem u (BitVec.ofNat n (vecElem (s.readV a) n j))
    Claims.toScalar (.vredadd d a k w u false) d [.rV 1 a] (fun s => .ofInt 64 (xs s).sum) ∧
    (∃ f : List Int → Int, Claims.toScalar (.vredmin d a k w u false) d [.rV 1 a] (fun s => .ofInt 64 (f (xs s))) ∧
      f [] = (if u then 2 ^ n - 1 else 2 ^ (n - 1) - 1) ∧
      ∀ l, l ≠ [] → (∀ x ∈ l, x ≤ f []) → f l ∈ l ∧ ∀ x ∈ l, f l ≤ x) ∧
    ∃ f : List Int → Int, Claims.toScalar (.vredmax d a k w u false) d [.rV 1 a] (fun s => .ofInt 64 (f (xs s))) ∧
      f [] = (if u then 0 else -2 ^ (n - 1)) ∧
      ∀ l, l ≠ [] → (∀ x ∈ l, f [] ≤ x) → f l ∈ l ∧ ∀ x ∈ l, x ≤ f l) ∧
  (∀ d a (k : BitVec 3) (w : BitVec 2) u,
    let is (i : Instr) (f : State → Nat × Flags) : Prop := Completes i .free [.wF d, .rV 1 a] false fun s =>
      let t := (s.flag (f s).2).writeF d (BitVec.ofNat 64 (f s).1)
      t.restarted
    is (.vredadd d a k w u true) (fun s => s.reduceFp a k w (fun x y => finishNum fp32 0 s.ctx.sat 0 ((fp32.read x).add 0 (fp32.read y))) 0) ∧
    is (.vredmin d a k w u true) (fun s => s.reduceFp a k w (minMax fp32 false) 0x7F800000) ∧
    is (.vredmax d a k w u true) (fun s => s.reduceFp a k w (minMax fp32 true) 0xFF800000)) ∧
  (∀ (s : State) a (k : BitVec 3) (w : BitVec 2) f none,
    let b := Claims.fpWidth w
    let leaf (i : Nat) : Option (Nat × Flags) := if (s.readK k.toNat).bit i then
      some (writeCode 0 0 false 0 ((Claims.fpView w).read (vecElem (s.readV a) b i))) else Option.none
    s.reduceFp a k w f none = (Claims.tree f leaf (if w = 0 then 4 else 5) 0).getD (none, Flags.none)) ∧
  (∀ (v : VArgs3) (sat : BitVec 2), v.w ≠ 0 → sat ≠ 3 →
    let n := 8 * 2 ^ v.w.toNat
    Claims.vector (.vpack v sat) [.wV v.d, .rV 1 v.a, .rV 2 v.b] v.d (n / 2) v.k v.z fun s j =>
      let x : BitVec n := .ofNat n (if j < 512 / n then vecElem (s.readV v.a) n j else vecElem (s.readV v.b) n (j - 512 / n))
      (Claims.clamped sat (n / 2) x.toInt).toNat) ∧
  (∀ (v : VArgs2) sx (hi : Bool), v.w ≠ 0 →
    let n := 8 * 2 ^ v.w.toNat
    Claims.vector (.vunpack v sx hi) [.wV v.d, .rV 1 v.a] v.d n v.k v.z fun s j =>
      let x : BitVec (n / 2) := .ofNat _ (vecElem (s.readV v.a) (n / 2) ((if hi then 512 / n else 0) + j))
      if sx then (x.signExtend n).toNat else x.toNat) ∧
  ∀ d a b,
    Claims.mask (.kopAnd d a b) d [.rK 1 a, .rK 2 b] (fun s => s.readK a.toNat &&& s.readK b.toNat) ∧
    Claims.mask (.kopOr d a b) d [.rK 1 a, .rK 2 b] (fun s => s.readK a.toNat ||| s.readK b.toNat) ∧
    Claims.mask (.kopXor d a b) d [.rK 1 a, .rK 2 b] (fun s => s.readK a.toNat ^^^ s.readK b.toNat) ∧
    Claims.mask (.kopAndn d a b) d [.rK 1 a, .rK 2 b] (fun s => s.readK a.toNat &&& ~~~(s.readK b.toNat)) ∧
    Claims.mask (.kopNot d a) d [.rK 1 a] (fun s => ~~~(s.readK a.toNat)) ∧ Claims.mask (.kopFromg d a) d [.rG 1 a] (fun s => s.readG a) ∧
    Claims.toScalar (.kopTog d a) d [.rK 1 a] (fun s => s.readK a.toNat) ∧
    Claims.mask (.kopLo d a) d [.rG 1 a] (fun s => if 64 ≤ (s.readG a).toNat then BitVec.allOnes 64 else (1 : Word) <<< (s.readG a).toNat - 1) ∧
    ∀ w : BitVec 2, let n := 64 / 2 ^ w.toNat
      Claims.toScalar (.kpop d a w) d [.rK 1 a] (fun s => BitVec.ofNat 64 ((List.range n).countP (s.readK a.toNat).bit)) ∧
      Claims.toScalar (.kfirst d a w) d [.rK 1 a] (fun s =>
        BitVec.ofNat 64 (((List.range n).find? (s.readK a.toNat).bit).getD n))

/-- The frame of an instruction whose one destination is register `d` of space `sp`: whatever comes of it, memory's every byte,
everything outside the context, and every register but the destination are as they were; and unless it trapped, so are STATUS
and the exception registers, while FRM has at most gained flags (R114, R115). SRCOUNT, VSTART and the pc may change. -/
def Sys2Proof.Claims.Frame (i : Instr) (sp : Space) (d : Field) : Prop :=
  ∀ s t, exec i s = .next t →
    (∀ a, t.mem.byte a = s.mem.byte a) ∧ s.onlyContext t ∧
    (∀ m, ¬ (sp = .g ∧ m = d.toNat) → nth t.ctx.g m 0 = nth s.ctx.g m 0) ∧
    (∀ m, ¬ (sp = .v ∧ m = d.toNat) → nth t.ctx.v m 0 = nth s.ctx.v m 0) ∧
    (∀ m, ¬ (sp = .f ∧ m = d.toNat) → nth t.ctx.f m 0 = nth s.ctx.f m 0) ∧
    (∀ m, ¬ (sp = .k ∧ m = d.toNat) → nth t.ctx.k m 0 = nth s.ctx.k m 0) ∧
    t.ctx.root = s.ctx.root ∧ t.ctx.sn = s.ctx.sn ∧ t.ctx.vn = s.ctx.vn ∧ t.ctx.pri = s.ctx.pri ∧ t.ctx.live = s.ctx.live ∧
    t.ctx.gen = s.ctx.gen ∧ t.ctx.hold = s.ctx.hold ∧ t.ctx.cgrp = s.ctx.cgrp ∧ t.ctx.hobj = s.ctx.hobj ∧ t.ctx.task = s.ctx.task ∧
    t.ctx.qlast = s.ctx.qlast ∧ t.ctx.dtime = s.ctx.dtime ∧ t.ctx.hres = s.ctx.hres ∧ t.ctx.hscr = s.ctx.hscr ∧
    (t.ctx.vectoring = false → t.ctx.status = s.ctx.status ∧ t.ctx.cause = s.ctx.cause ∧ t.ctx.epc = s.ctx.epc ∧
      t.ctx.faddr = s.ctx.faddr ∧ t.ctx.finfo = s.ctx.finfo ∧
      ∀ b, (s.ctx.frm.bit b = true → t.ctx.frm.bit b = true) ∧
        (b < 8 ∨ 12 < b → t.ctx.frm.bit b = s.ctx.frm.bit b))

open Sys2Proof.Claims in
/-- The frames of the scalar and vector floating instructions, the integer vector instructions and the mask instructions (R114,
R115, R134). -/
def Obligations.FloatVectorFrame : Prop :=
  (∀ d a b m, Frame (.fadd d a b m) .f d ∧ Frame (.fsub d a b m) .f d ∧ Frame (.fmul d a b m) .f d ∧ Frame (.fdiv d a b m) .f d ∧
    Frame (.fsqrt d a m) .f d ∧ ∀ c, Frame (.fma d a b c m) .f d ∧ Frame (.fnma d a b c m) .f d) ∧
  (∀ d a b, Frame (.fmin d a b) .f d ∧ Frame (.fmax d a b) .f d ∧ Frame (.fsgnCp d a b) .f d ∧ Frame (.fsgnNeg d a b) .f d ∧
    Frame (.fsgnXor d a b) .f d ∧ Frame (.fmovFF d a) .f d ∧ Frame (.fmovFG d a) .f d ∧ Frame (.fmovGF d a) .g d ∧
    Frame (.fsrDraw d) .g d) ∧
  (∀ d a b c, Frame (.fcmp d a b c) .g d) ∧ (∀ d a n, Frame (.fclass d a n) .g d) ∧ (∀ d n, Frame (.fldi d n) .f d) ∧
  (∀ d a b m (dc sc : BitVec 4), let sp := if 8 ≤ dc.toNat ∧ dc.toNat ≤ 14 then Space.g else .f
    Frame (.fcvt d a m dc sc) sp d ∧ Frame (.fsr d a b dc sc) sp d) ∧
  (∀ d a byte fmt, Frame (.fscl d a byte fmt) .f d) ∧
  (∀ (v : VArgs) sat u m c (range : BitVec 2) ev, Frame (.vadd v sat) .v v.d ∧ Frame (.vsub v sat) .v v.d ∧ Frame (.vmul v) .v v.d ∧
    Frame (.vmulh v) .v v.d ∧ Frame (.vmulhU v) .v v.d ∧ Frame (.vmacc v sat) .v v.d ∧ Frame (.vmin v u) .v v.d ∧
    Frame (.vmax v u) .v v.d ∧ Frame (.vand v) .v v.d ∧ Frame (.vor v) .v v.d ∧ Frame (.vxor v) .v v.d ∧ Frame (.vandn v) .v v.d ∧
    Frame (.vshl v) .v v.d ∧ Frame (.vshr v) .v v.d ∧ Frame (.vsra v) .v v.d ∧ Frame (.vrshr v range ev) .v v.d ∧
    Frame (.vfadd v m) .v v.d ∧ Frame (.vfsub v m) .v v.d ∧ Frame (.vfmul v m) .v v.d ∧ Frame (.vfma v c m) .v v.d ∧
    Frame (.vfnma v c m) .v v.d ∧ Frame (.vfmin v) .v v.d ∧ Frame (.vfmax v) .v v.d) ∧
  (∀ (v : VArgs) fp c, Frame (.vcmp v fp c) .k v.d) ∧
  (∀ (v : VArgs2) sat fp sx hi, Frame (.vabs v sat) .v v.d ∧ Frame (.vsplat v fp) .v v.d ∧ Frame (.vmov v) .v v.d ∧
    Frame (.vunpack v sx hi) .v v.d) ∧
  (∀ (v : VArgs3) f c sat, Frame (.vdot v f) .v v.d ∧ Frame (.vperm v) .v v.d ∧ Frame (.vperm2 v c) .v v.d ∧
    Frame (.vslideDn v c) .v v.d ∧ Frame (.vslideUp v c) .v v.d ∧ Frame (.vzipLo v) .v v.d ∧ Frame (.vzipHi v) .v v.d ∧
    Frame (.vunzipEv v) .v v.d ∧ Frame (.vunzipOd v) .v v.d ∧ Frame (.vpack v sat) .v v.d) ∧
  (∀ d a b c k w sx, Frame (.vsel d a b k w) .v d ∧ Frame (.vmovX d a c sx w) .g d ∧ Frame (.vmovI d a c w) .v d) ∧
  (∀ d a k w u fp, let sp := if fp then Space.f else .g
    Frame (.vredadd d a k w u fp) sp d ∧ Frame (.vredmin d a k w u fp) sp d ∧ Frame (.vredmax d a k w u fp) sp d) ∧
  (∀ d a k z m p dc sc, Frame (.vcvt d a k z m p dc sc) .v d) ∧
  ∀ d a b w, Frame (.kopAnd d a b) .k d ∧ Frame (.kopOr d a b) .k d ∧ Frame (.kopXor d a b) .k d ∧ Frame (.kopAndn d a b) .k d ∧
    Frame (.kopNot d a) .k d ∧ Frame (.kopFromg d a) .k d ∧ Frame (.kopTog d a) .g d ∧ Frame (.kopLo d a) .k d ∧
    Frame (.kpop d a w) .g d ∧ Frame (.kfirst d a w) .g d

/-! ### Memory accesses -/

namespace Sys2Proof.Claims

/-- R358, R359: no invalidation of translations waits for this core. -/
def noInvalidation (s : State) : Prop := ∀ e ∈ s.net, e.stage = .sent → ∀ b l c, e.msg ≠ .shootdown b l c

/-- R158, R159: a piece of an access lies in the core's own slice, and nothing holds the access back: the core is not saved (R369), no
refused access of it, no invalidation under way, no migration of its frame, no adaptive store to its bytes, no excess of
outstanding accesses. -/
def own (s : State) (p : Piece) : Prop :=
  s.ownSlice p.ga = true ∧ s.launch.acked = false ∧ s.behindRefused = false ∧ noInvalidation s ∧ s.moved p.ga = p.ga ∧
    s.mem.frozen.contains (granule p.ga) = false ∧ s.overtakes [(p.ga, p.n)] = false ∧ s.inFlight ≤ Config.outstanding

/-- R160: it lies at another home, which is not announced dead; an outstanding access is free; no adaptive store to its bytes. -/
def remote (s : State) (p : Piece) : Prop :=
  s.ownSlice p.ga = false ∧ s.deadHome p.ga = none ∧ s.inFlight < Config.outstanding ∧ s.overtakes [(p.ga, p.n)] = false

/-- R192: no read of the piece's sector has been performed early for a later instruction of the context. -/
def unread (s : State) (p : Piece) : Prop := ∀ e ∈ s.early, e.ctx = s.cur → e.ga ≠ p.ga / 32 * 32

/-- R166, R167: no word of the bytes is poisoned. -/
def clean (s : State) (ga n : Nat) : Prop := ∀ i < n, s.mem.poison.contains ((ga + i) / 8) = false

/-- What an access performed at the own slice leaves as it was, memory apart: every context, register, unit and scratchpad. -/
def accessed (s t : State) : Prop :=
  t.cur = s.cur ∧ t.ctxs = s.ctxs ∧ t.regs = s.regs ∧ t.spad = s.spad ∧ t.eng = s.eng ∧ t.mx = s.mx ∧ t.drone = s.drone ∧
    t.sems = s.sems ∧ t.units = s.units ∧ t.chans = s.chans ∧ t.away = s.away ∧ t.dbg = s.dbg ∧ t.launch = s.launch

def sameMemory (s t : State) : Prop := ∀ a, t.mem.byte a = s.mem.byte a

/-- R169: these bytes of the pieces, held bytes of the context laid over them (R187), extended. -/
def extended (s : State) (bytes : Piece → List Byte) (ps : List Piece) (sx : Bool) (n : Nat) : Word :=
  let v := ofBytes (layOver (ps.flatMap bytes) (heldOver s.ctx.hold 0 ps))
  if sx then (BitVec.ofNat (8 * n) v).signExtend 64 else (BitVec.ofNat (8 * n) v).setWidth 64

/-- R169: the bytes of the pieces in memory. -/
def loaded (s : State) (ps : List Piece) (sx : Bool) (n : Nat) : Word := extended s (fun p => bytesOf (s.mem.read p.ga p.n) p.n) ps sx n

/-- Messages leave in order. -/
def askedAll (s : State) (ms : List Msg) : State := ms.foldl State.asked s

end Sys2Proof.Claims

/-- R98, R158 to R160, R169, R192: a load whose pieces all lie in the own slice completes with their bytes; one whose pieces lie
elsewhere sends a request for each and waits for the replies; one whose bytes the data cache holds, or an early read has brought,
needs no message; a failing translation is a trap, and so is a poisoned word, while a miss waits when every walker is busy (R357);
an address that an adaptive store of the context has not been acknowledged for holds the load back. (Which reads are performed
early, and which lines stay held, is free: log entries 10 and 11.) -/
def Obligations.Loads : Prop :=
  (∀ d a (sz : BitVec 2) sx (disp : BitVec 23) s,
    let n := 2 ^ sz.toNat
    let ea := s.readG a + disp.signExtend 64
    let uses : List Use := [.wG d, .rG 1 a]
    s.canIssue .free uses false = true →
    (∀ e, s.translateAll .load 0x80 0 (.plain n) (pieces 9 ea n) = .error e →
      (e.cause ≠ noWalker → exec (.ld d a sz sx disp) s = .next ((s.raise e).issued s.cur uses)) ∧
      (e.cause = noWalker → exec (.ld d a sz sx disp) s = .next ((s.blockOn .freeWalker (sources uses)).issued s.cur uses))) ∧
    ∀ ps, s.translateAll .load 0x80 0 (.plain n) (pieces 9 ea n) = .ok ps →
      ((∀ p ∈ ps, Claims.own s p ∧ Claims.unread s p ∧ Claims.clean s p.ga p.n) →
        ∃ t : State, exec (.ld d a sz sx disp) s = .next ((t.writeG d (Claims.loaded s ps sx n)).completed uses) ∧
          Claims.accessed s t ∧ Claims.sameMemory s t ∧ t.net = s.net) ∧
      ((∀ p ∈ ps, Claims.remote s p ∧ Claims.unread s p ∧ p.x.seal = false) → s.inFlight + ps.length ≤ Config.outstanding →
        exec (.ld d a sz sx disp) s = .next (((Claims.askedAll (s.installAll ps)
          (ps.map fun p => ⟨p.va, p.ga, .access (.read p.n), false, false⟩)).blockOn
            (.reply (List.range' s.seqNo ps.length) [] (.load d n sx (ps.map (·.n)) (heldOver s.ctx.hold 0 ps)))
              (sources uses)).issued s.cur uses)) ∧
      ((∃ p ∈ ps, s.overtakes [(p.ga, p.n)] = true) →
        exec (.ld d a sz sx disp) s = .next ((s.installAll ps).stall.issued s.cur uses)) ∧
      (∀ p, ps = [p] → s.overtakes [(p.ga, p.n)] = false → s.inFlight ≤ Config.outstanding → ∀ v,
        (s.atHand (addressFrom [a] []) p = some (.cached v) ∨
          ∃ e, s.atHand (addressFrom [a] []) p = some (.early e) ∧ v = e.value / 256 ^ (p.ga % 32) % 256 ^ p.n) →
        ∃ t : State, exec (.ld d a sz sx disp) s =
            .next ((t.writeG d (Claims.extended s (fun p => bytesOf v p.n) ps sx n)).completed uses) ∧
          Claims.accessed s t ∧ t.mem = s.mem ∧ t.net = s.net) ∧
      ∀ p, ps = [p] → Claims.own s p → Claims.unread s p → ¬ Claims.clean s p.ga p.n →
        exec (.ld d a sz sx disp) s = .next ((s.raise ⟨17, 0, none, 0, none⟩).issued s.cur uses)) ∧
  ∀ d a b, let uses : List Use := [.rG 0 d, .rG 1 a, .rG 2 b]
    CompletesIf (.jtab d a b) .free uses false (fun s => (s.readG a).toNat ≤ (s.readG d).toNat)
      (fun s => s.diverge.dropEarly s.cur) ∧
    ∀ s, s.canIssue .free uses false = true → (s.readG d).toNat < (s.readG a).toNat →
      let ea := (s.readG b &&& ~~~3) + 4 * s.readG d
      (∀ e, s.diverge.translateAll .load 0x47 0 (.plain 4) (pieces 9 ea 4) = .error e → e.cause ≠ noWalker →
        exec (.jtab d a b) s = .next ((s.raise e).issued s.cur uses)) ∧
      ∀ ps, s.diverge.translateAll .load 0x47 0 (.plain 4) (pieces 9 ea 4) = .ok ps →
        (∀ p ∈ ps, Claims.own s.diverge p ∧ Claims.unread s.diverge p ∧ Claims.clean s.diverge p.ga p.n) →
        let target := s.ctx.pc + 2 * Claims.loaded s.diverge ps true 4
        ∃ t, Claims.accessed s.diverge t ∧ Claims.sameMemory s t ∧
          (t.checkTarget target = none →
            exec (.jtab d a b) s = .next ((s.finish (sources uses) (.jump t target)).issued s.cur uses)) ∧
          ∀ e, t.checkTarget target = some e → e.cause ≠ noWalker → exec (.jtab d a b) s = .next ((s.raise e).issued s.cur uses)

/-- R169, R171, R172, R179, R180 to R182: addresses, hints, the state of a seal, scratchpad loads and the handles held. -/
def Obligations.AddressesAndHints : Prop :=
  (∀ d a (disp : BitVec 23), Completes (.lea d a disp) .free [.wG d, .rG 1 a] false (fun s => s.writeG d (s.readG a + disp.signExtend 64)) ∧
    (∀ t, CompletesIf (.leaG d a disp) .free [.wG d, .rG 1 a] false
      (fun s => s.translate s.cur (s.readG a + disp.signExtend 64) 1 .load 0x8F 0 = .ok t)
      (fun s => (s.install t.x).writeG d (BitVec.ofNat 64 t.ga))) ∧
    (∀ t, CompletesIf (.leaGs d a disp) .free [.wG d, .rG 1 a] false
      (fun s => s.translate s.cur (s.readG a + disp.signExtend 64) 1 .store 0x8F 0 = .ok t)
      (fun s => (s.install t.x).writeG d (BitVec.ofNat 64 t.ga))) ∧
    ∀ e, e.cause ≠ noWalker → TrapsIf (.leaG d a disp) .free [.wG d, .rG 1 a] false
        (fun s => s.translate s.cur (s.readG a + disp.signExtend 64) 1 .load 0x8F 0 = .error e) (fun _ => e) ∧
      TrapsIf (.leaGs d a disp) .free [.wG d, .rG 1 a] false
        (fun s => s.translate s.cur (s.readG a + disp.signExtend 64) 1 .store 0x8F 0 = .error e) (fun _ => e)) ∧
  (∀ i a (disp : BitVec 23), i = Instr.prefC a disp ∨ i = Instr.prefT a disp ∨ i = Instr.prefX a disp →
    ∀ s, s.canIssue .free [.rG 1 a] false = true →
      ∃ t : State, exec i s = .next (t.completed [.rG 1 a]) ∧ Claims.accessed s t ∧ t.mem = s.mem ∧ t.net = s.net ∧
        ((∃ e, s.translate s.cur (s.readG a + disp.signExtend 64) 1 .load 0x88 0 = .error e) → t = s)) ∧
  (∀ d a t, CompletesIf (.sealq d a) .free [.wG d, .rG 1 a] false (fun s => s.translate s.cur (s.readG a) 1 .load 0x8B 0 = .ok t) (fun s =>
    (s.install t.x).writeG d (if s.sealPending t (s.readG a) then 2 else if t.x.seal then 1 else 0))) ∧
  (∀ d a, Completes (.htake d a) .free [.wG d, .rG 1 a] false fun s =>
    s.writeG d (if s.holder ((s.readG a).bits 0 10) = some (s.core % 16) then 1 else 0)) ∧
  ∀ d a (sz : BitVec 2) sx (disp : BitVec 23),
    let n := 2 ^ sz.toNat
    let ea (s : State) : Word := s.readG a + disp.signExtend 64
    let at' (s : State) : Nat := (ea s).toNat / n * n
    let held (s : State) : Prop := (ea s).toNat < 2 ^ 22 ∧ s.holder ((ea s).toNat / 4096) = some (s.core % 16)
    CompletesIf (.spld d a sz sx disp) .free [.wG d, .rG 1 a] false (fun s => held s ∧ s.spadBad (at' s) n = false) (fun s =>
      let v := ofBytes (layOver (bytesOf (s.spadRead (at' s) n) n) (overlay true s.ctx.hold 0 (at' s) n))
      s.writeG d (if sx then (BitVec.ofNat (8 * n) v).signExtend 64 else (BitVec.ofNat (8 * n) v).setWidth 64)) ∧
    TrapsIf (.spld d a sz sx disp) .free [.wG d, .rG 1 a] false (fun s => held s ∧ s.spadBad (at' s) n = true) (fun _ => ⟨17, 0, none, 0, none⟩) ∧
    TrapsIf (.spld d a sz sx disp) .free [.wG d, .rG 1 a] false (fun s => 2 ^ 22 ≤ (ea s).toNat) (fun s => ⟨6, 4, some (ea s), 0, none⟩) ∧
    TrapsIf (.spld d a sz sx disp) .free [.wG d, .rG 1 a] false
      (fun s => (ea s).toNat < 2 ^ 22 ∧ s.holder ((ea s).toNat / 4096) ≠ some (s.core % 16)) (fun s => ⟨16, 0, some (ea s), 0, none⟩)

/-- R159, R160, R169, R181, R187: a store whose pieces lie in the own slice puts its low bytes there and completes; one whose pieces
lie elsewhere posts a request for each and completes; in a window it goes to the hold buffer, as one entry; a failing translation is
a trap; an adaptive store of the context to its bytes holds it back. A partial store to a poisoned word of the own slice or of the scratchpad is
DATAERR, in a window too, unless held stores cover the word. -/
def Obligations.Stores : Prop :=
  (∀ d a (sz : BitVec 2) (disp : BitVec 23) (adaptive : Bool) s,
    let i : Instr := if adaptive then .stA d a sz disp else .st d a sz disp
    let n := 2 ^ sz.toNat
    let ea := s.readG a + disp.signExtend 64
    let uses : List Use := [.rG 0 d, .rG 1 a]
    s.canIssue .free uses false = true →
    (∀ e, s.translateAll .store 0x81 0 (.plain n) (pieces 9 ea n) = .error e → e.cause ≠ noWalker →
      exec i s = .next ((s.raise e).issued s.cur uses)) ∧
    ∀ ps, s.translateAll .store 0x81 0 (.plain n) (pieces 9 ea n) = .ok ps →
      let cut := cutTo (bytesOf (s.readG d).toNat n) ps
      (s.mem.wf = true → s.ctx.holds = false → (∀ p ∈ ps, Claims.own s p ∧ Claims.clean s p.ga p.n ∧ ∀ i < p.n, s.mem.isSealed (p.ga + i) = false) →
        (∀ p q, [p, q] = ps → p.ga + p.n ≤ q.ga ∨ q.ga + q.n ≤ p.ga) →
        ∃ t : State, exec i s = .next (t.completed uses) ∧ Claims.accessed s t ∧ t.net = s.net ∧
          (∀ x ∈ cut, ∀ b ∈ x.2, t.mem.byte (x.1.ga + b.1) = b.2) ∧
          ∀ addr, (∀ p ∈ ps, ¬ (p.ga ≤ addr ∧ addr < p.ga + p.n)) → t.mem.byte addr = s.mem.byte addr) ∧
      (s.ctx.holds = false → (∀ p ∈ ps, Claims.remote s p) → s.inFlight + ps.length ≤ Config.outstanding →
        exec i s = .next ((Claims.askedAll (s.installAll ps) (cut.map fun x =>
          ⟨x.1.va, x.1.ga, .access (.write x.2), true, adaptive && gaSpace x.1.ga < 2⟩)).completed uses)) ∧
      (s.ctx.holds = false → (∃ p ∈ ps, s.overtakes [(p.ga, p.n)] = true) → exec i s = .next ((s.installAll ps).stall.issued s.cur uses)) ∧
      (∀ p, ps = [p] → s.ctx.holds = true → s.ownSlice p.ga = true → 0 < p.n → p.n < 8 →
        s.mem.poison.contains (s.moved p.ga / 8) = true → (∃ j < 8, heldByte false (p.ga / 8 * 8 + j) s.ctx.hold = none) →
        exec i s = .next ((s.raise ⟨17, 0, none, 0, none⟩).issued s.cur uses)) ∧
      (s.ctx.holds = true → (∀ p ∈ ps, s.ownSlice p.ga = true → ∀ i < p.n, s.mem.poison.contains (s.moved (p.ga + i) / 8) = false) →
        (s.ctx.hold.filter (·.head)).length < Config.holdDepth →
        exec i s = .next (((s.installAll ps).hold (cut.zipIdx.map fun x =>
          ⟨false, x.1.1.ga, x.1.1.va, s.ctx.pc, x.1.2, adaptive && gaSpace x.1.1.ga < 2, x.2 == 0⟩)).completed uses))) ∧
  (∀ (bs : List Byte) ps, (ps.map Piece.n).sum = bs.length → ((cutTo bs ps).flatMap fun x => x.2.map (·.2)) = bs ∧
    ∀ x ∈ cutTo bs ps, x.2.map (·.1) = List.range x.1.n) ∧
  ∀ d a (sz : BitVec 2) (disp : BitVec 23),
    let n := 2 ^ sz.toNat
    let ea (s : State) : Word := s.readG a + disp.signExtend 64
    let at' (s : State) : Nat := (ea s).toNat / n * n
    let held (s : State) : Prop := (ea s).toNat < 2 ^ 22 ∧ s.holder ((ea s).toNat / 4096) = some (s.core % 16)
    (∀ s, s.canIssue .free [.rG 0 d, .rG 1 a] false = true → held s → s.ctx.holds = false → n < 4 → s.spadBad (at' s) n = true →
      exec (.spst d a sz disp) s = .next ((s.raise ⟨17, 0, none, 0, none⟩).issued s.cur [.rG 0 d, .rG 1 a])) ∧
    (∀ s, s.canIssue .free [.rG 0 d, .rG 1 a] false = true → held s → cellsWf s.spad.cells = true → s.ctx.holds = false → 4 ≤ n ∨ s.spadBad (at' s) n = false →
      ∃ t : State, exec (.spst d a sz disp) s = .next (t.completed [.rG 0 d, .rG 1 a]) ∧ t.ctxs = s.ctxs ∧ t.mem = s.mem ∧ t.regs = s.regs ∧
        (∀ i < n, (cellsGet t.spad.cells (at' s + i)).toNat = (s.readG d).toNat / 256 ^ i % 256) ∧
        (∀ b, ¬ (at' s ≤ b ∧ b < at' s + n) → cellsGet t.spad.cells b = cellsGet s.spad.cells b) ∧ t.spadBad (at' s) n = false) ∧
    CompletesIf (.spst d a sz disp) .free [.rG 0 d, .rG 1 a] false
      (fun s => held s ∧ s.ctx.holds = true ∧ (s.ctx.hold.filter (·.head)).length < Config.holdDepth ∧
        (4 ≤ n ∨ s.spadBad (at' s) n = false ∨ ∀ j < 4, (heldByte true (at' s / 4 * 4 + j) s.ctx.hold).isSome = true))
      (fun s => s.hold [⟨true, at' s, BitVec.ofNat 64 (at' s), s.ctx.pc, listed (s.readG d).toNat n, false, true⟩]) ∧
    TrapsIf (.spst d a sz disp) .free [.rG 0 d, .rG 1 a] false
      (fun s => held s ∧ s.ctx.holds = true ∧ n < 4 ∧ s.spadBad (at' s) n = true ∧
        ∃ j < 4, heldByte true (at' s / 4 * 4 + j) s.ctx.hold = none) (fun _ => ⟨17, 0, none, 0, none⟩) ∧
    TrapsIf (.spst d a sz disp) .free [.rG 0 d, .rG 1 a] false
      (fun s => (ea s).toNat < 2 ^ 22 ∧ s.holder ((ea s).toNat / 4096) ≠ some (s.core % 16)) (fun s => ⟨16, 0, some (ea s), 0, none⟩)

/-- The frame of the stores: whatever comes of one, every byte of memory outside the pieces of the translated address is as it was,
and so are every other context and every register of its own; unless it trapped, so are the exception registers. `spst` stores to
no byte of memory. -/
def Obligations.StoreFrame : Prop :=
  ∀ d a (sz : BitVec 2) (disp : BitVec 23) (i : Instr) s t, i = .st d a sz disp ∨ i = .stA d a sz disp ∨ i = .spst d a sz disp →
    exec i s = .next t →
    (∀ addr, (i ≠ .spst d a sz disp → ∀ ps, s.translateAll .store 0x81 0 (.plain (2 ^ sz.toNat))
          (pieces 9 (s.readG a + disp.signExtend 64) (2 ^ sz.toNat)) = .ok ps →
        ∀ p ∈ ps, ¬ (s.moved p.ga ≤ addr ∧ addr < s.moved p.ga + p.n)) → t.mem.byte addr = s.mem.byte addr) ∧
    t.cur = s.cur ∧ (∀ j, j ≠ s.cur → t.at j = s.at j) ∧
    t.ctx.g = s.ctx.g ∧ t.ctx.v = s.ctx.v ∧ t.ctx.f = s.ctx.f ∧ t.ctx.k = s.ctx.k ∧ t.ctx.root = s.ctx.root ∧ t.ctx.sn = s.ctx.sn ∧
    t.ctx.vn = s.ctx.vn ∧ t.ctx.pri = s.ctx.pri ∧ t.ctx.live = s.ctx.live ∧ t.ctx.gen = s.ctx.gen ∧ t.ctx.task = s.ctx.task ∧
    (t.ctx.vectoring = false → s.ctx.sameStatus t.ctx) ∧ t.eng.layouts = s.eng.layouts ∧ t.sems = s.sems ∧ t.regs.tvec = s.regs.tvec

namespace Sys2Proof.Claims

/-- An access of the aligned word at an address, for an instruction of this class of reach. -/
def word (s : State) (op : Nat) (ea : Word) (n : Nat) (k : Access) (r : Reach) (p : Piece) : Prop :=
  s.translateAll k op 0 r [(BitVec.ofNat 64 (ea.toNat / n * n), n)] = .ok [p]

/-- R163: nobody waits for the word. -/
def unawaited (s : State) (ga : Nat) : Prop := ∀ e ∈ s.mem.retry, e.ga / 8 ≠ ga / 8

/-- A posted or waited request to another home: what the instruction comes to there. -/
def requested (i : Instr) (uses : List Use) (s : State) (p : Piece) (op : MemOp) (posted : Bool) (w : Option Wait) : Prop :=
  let t := (s.install p.x).asked ⟨p.va, p.ga, .access op, posted, false⟩
  exec i s = .next (match w with
    | none => t.completed uses
    | some w => (t.blockOn w (sources uses)).issued s.cur uses)

/-- R173 to R176: an atomic on `n` bytes. At the own slice it is performed at once: D takes the old value, unless it is posted;
the bytes take the new one and no other byte changes. At another home it is asked for. A failing translation is a trap. -/
def atomic (i : Instr) (op : Nat) (uses : List Use) (ea : State → Word) (n : Nat) (m : State → MemOp) (new : State → Nat → Nat)
    (dest : Option (State → Nat → State)) (k : After) : Prop :=
  (∀ s e, s.canIssue .ordered uses false = true → e.cause ≠ noWalker →
    s.translateAll .atomic op 0 .memory [(BitVec.ofNat 64 ((ea s).toNat / n * n), n)] = .error e →
    exec i s = .next ((s.raise e).issued s.cur uses)) ∧
  ∀ s p, s.canIssue .ordered uses false = true → word s op (ea s) n .atomic .memory p →
    (s.mem.wf = true → own s p → clean s p.ga n → s.mem.isSealed p.ga = false →
      ∃ t : State, exec i s = .next ((match dest with | some f => f t (s.mem.read p.ga n) | none => t).completed uses) ∧ accessed s t ∧ t.net = s.net ∧
        t.mem.read p.ga n = new s (s.mem.read p.ga n) % 256 ^ n ∧
        ∀ addr, ¬ (p.ga ≤ addr ∧ addr < p.ga + n) → t.mem.byte addr = s.mem.byte addr) ∧
    (remote s p → requested i uses s p (m s) dest.isNone (dest.map fun _ => .reply [s.seqNo] [] k)) ∧
    (own s p → s.mem.isSealed p.ga = true → dest.isSome = true →
      exec i s = .next ((s.raise ⟨9, 0, none, 0, none⟩).issued s.cur uses))

/-- R174: an integer atomic, posted or not. -/
def amo (c : Field → Field → Field → BitVec 2 → Bool → Instr) (op : AmoOp) (zero : Bool)
    (f : (n : Nat) → BitVec n → BitVec n → BitVec n) : Prop :=
  ∀ d a b (sz : BitVec 2), let n := 2 ^ sz.toNat
    let new (s : State) (old : Nat) : Nat := (f (8 * n) (.ofNat _ old) (.ofNat _ (s.readG b).toNat)).toNat
    atomic (c d a b sz false) 0x85 [.wG d, .rG 1 a, .rG 2 b] (fun s => s.readG a) n (fun s => .amo op n (s.readG b)) new
      (some fun t old => t.writeG d (if zero then BitVec.ofNat 64 old else (BitVec.ofNat (8 * n) old).signExtend 64)) (.old d n zero) ∧
    atomic (c d a b sz true) 0x85 [.rG 1 a, .rG 2 b] (fun s => s.readG a) n (fun s => .amo op n (s.readG b)) new none (.old d n zero)

/-- R175: a floating atomic. -/
def amof (c : Field → Field → Field → BitVec 2 → Bool → Instr) (op : AmofOp) (f : Format → Nat → Nat → Nat) : Prop :=
  ∀ d a b (fmt : BitVec 2), fmt ≠ 3 → let n := if fmt = 0 then 4 else 2
    let new (s : State) (old : Nat) : Nat := f (if fmt = 0 then fp32 else if fmt = 1 then fp16 else bf16) old ((s.readF b).toNat % 256 ^ n)
    atomic (c d a b fmt false) 0x86 [.wF d, .rG 1 a, .rF 2 b] (fun s => s.readG a) n (fun s => .amof op fmt.toNat (s.readF b)) new
      (some fun t old => t.writeF d (BitVec.ofNat 64 old)) (.oldF d) ∧
    atomic (c d a b fmt true) 0x86 [.rG 1 a, .rF 2 b] (fun s => s.readG a) n (fun s => .amof op fmt.toNat (s.readF b)) new none (.oldF d)

end Sys2Proof.Claims

/-- R173 to R176: the atomics. -/
def Obligations.Atomics : Prop :=
  Claims.amo .amoAdd .add false (fun _ x y => x + y) ∧ Claims.amo .amoAnd .and false (fun _ x y => x &&& y) ∧
  Claims.amo .amoOr .or false (fun _ x y => x ||| y) ∧ Claims.amo .amoXor .xor false (fun _ x y => x ^^^ y) ∧
  Claims.amo .amoSwap .swap false (fun _ _ y => y) ∧
  Claims.amo .amoMin .min false (fun _ x y => if y.toInt < x.toInt then y else x) ∧
  Claims.amo .amoMax .max false (fun _ x y => if x.toInt < y.toInt then y else x) ∧
  Claims.amo .amoMinu .minu true (fun _ x y => if y.toNat < x.toNat then y else x) ∧
  Claims.amo .amoMaxu .maxu true (fun _ x y => if x.toNat < y.toNat then y else x) ∧
  Claims.amof .amofAdd .add (fun f x y => (finishNum f 0 false 0 ((f.read x).add 0 (f.read y))).1) ∧
  Claims.amof .amofMin .min (fun f x y => (minMax f false x y).1) ∧ Claims.amof .amofMax .max (fun f x y => (minMax f true x y).1) ∧
  ∀ d a b c (sz : BitVec 2), let n := 2 ^ sz.toNat
    Claims.atomic (.cas d a b c sz) 0x87 [.wG d, .rG 1 a, .rG 2 b, .rG 3 c] (fun s => s.readG a) n
      (fun s => .cas n (s.readG b) (s.readG c))
      (fun s old => if old = (s.readG b).toNat % 256 ^ n then (s.readG c).toNat else old)
      (some fun t old => t.writeG d ((BitVec.ofNat (8 * n) old).signExtend 64)) (.old d n false)

/-- R163, R170: full-empty accesses of a word of the own slice that nobody waits for are performed or wait; those of another home
are asked for. -/
def Obligations.FullEmpty : Prop :=
  (∀ d a (disp : BitVec 23) s p, let ea := s.readG a + disp.signExtend 64
    let w := p.ga / 8 * 8
    let uses : List Use := [.wG d, .rG 1 a]
    s.canIssue .ordered uses false = true → Claims.word s 0x82 ea 8 .load .home p →
      (Claims.own s p → s.mem.full w = true → s.mem.poisoned w 8 = false → Claims.unawaited s p.ga →
        (∃ t : State, exec (.ldfe d a disp) s = .next ((t.writeG d (s.mem.word w)).completed uses) ∧ Claims.accessed s t ∧ Claims.sameMemory s t ∧
          t.mem.empty = s.mem.empty) ∧
        ∃ t : State, exec (.ldfeE d a disp) s = .next ((t.writeG d (s.mem.word w)).completed uses) ∧ Claims.accessed s t ∧ Claims.sameMemory s t ∧
          t.mem.full w = false ∧ ∀ x, x / 8 ≠ w / 8 → t.mem.full x = s.mem.full x) ∧
      (Claims.own s p → s.mem.full w = false →
        (∃ t : State, exec (.ldfe d a disp) s = .next ((t.blockOn (.fe [s.seqNo] [] (.write d)) (sources uses)).issued s.cur uses) ∧ Claims.accessed s t ∧
          Claims.sameMemory s t ∧ t.mem.empty = s.mem.empty) ∧
        ∃ t : State, exec (.ldfeE d a disp) s = .next ((t.blockOn (.fe [s.seqNo] [] (.write d)) (sources uses)).issued s.cur uses) ∧ Claims.accessed s t ∧
          Claims.sameMemory s t ∧ t.mem.empty = s.mem.empty) ∧
      (Claims.remote s p →
        Claims.requested (.ldfe d a disp) uses s p .ldfe false (some (.fe [s.seqNo] [] (.write d))) ∧
        Claims.requested (.ldfeE d a disp) uses s p .ldfeE false (some (.fe [s.seqNo] [] (.write d))))) ∧
  (∀ d a (disp : BitVec 23) s p, let ea := s.readG a + disp.signExtend 64
    let w := p.ga / 8 * 8
    let uses : List Use := [.rG 0 d, .rG 1 a]
    s.canIssue .ordered uses false = true → Claims.word s 0x83 ea 8 .store .home p →
      (s.mem.wf = true → Claims.own s p → s.mem.isSealed w = false → s.mem.full w = false → Claims.clean s w 8 → Claims.unawaited s p.ga →
        ∃ t : State, exec (.stfe d a disp) s = .next (t.completed uses) ∧ Claims.accessed s t ∧ t.mem.word w = s.readG d ∧ t.mem.full w = true ∧
          (∀ x, ¬ (w ≤ x ∧ x < w + 8) → t.mem.byte x = s.mem.byte x) ∧ ∀ x, x / 8 ≠ w / 8 → t.mem.full x = s.mem.full x) ∧
      (Claims.own s p → s.mem.isSealed w = false → s.mem.full w = true →
        ∃ t : State, exec (.stfe d a disp) s = .next ((t.blockOn (.fe [s.seqNo] [] .nothing) (sources uses)).issued s.cur uses) ∧ Claims.accessed s t ∧
          Claims.sameMemory s t) ∧
      (Claims.remote s p → Claims.requested (.stfe d a disp) uses s p (.stfe (s.readG d)) false (some (.fe [s.seqNo] [] .nothing)))) ∧
  ∀ a s p, let w := p.ga / 8 * 8
    s.canIssue .ordered [.rG 1 a] false = true → Claims.word s 0x84 (s.readG a) 8 .store .home p →
      (Claims.own s p → s.mem.isSealed w = false → Claims.unawaited s p.ga →
        (∃ t : State, exec (.feset a) s = .next (t.completed [.rG 1 a]) ∧ Claims.accessed s t ∧ Claims.sameMemory s t ∧ t.mem.full w = true ∧
          ∀ x, x / 8 ≠ w / 8 → t.mem.full x = s.mem.full x) ∧
        ∃ t : State, exec (.feclr a) s = .next (t.completed [.rG 1 a]) ∧ Claims.accessed s t ∧ Claims.sameMemory s t ∧ t.mem.full w = false ∧
          ∀ x, x / 8 ≠ w / 8 → t.mem.full x = s.mem.full x) ∧
      (Claims.remote s p → Claims.requested (.feset a) [.rG 1 a] s p .feset true none ∧
        Claims.requested (.feclr a) [.rG 1 a] s p .feclr true none)

/-- R178, R182: `seal` and `unseal` of a region whose granules lie in the own slice, an `unseal` of wider scope clearing them behind
its multicast; of length 0; a given handle leaves, one that
arrives is held; giving what is not held is BUFOWN. (What the rules leave open here is settled as in
log entry 73.) -/
def Obligations.SealsAndHandles : Prop :=
  (∀ a b (sc : BitVec 4), CompletesIf (.seal a b sc) .ordered [.rG 1 a, .rG 2 b] false (fun s => s.readG b = 0) id ∧
    CompletesIf (.unseal a b sc) .ordered [.rG 1 a, .rG 2 b] false (fun s => s.readG b = 0) id ∧
    ∀ s ps, s.canIssue .ordered [.rG 1 a, .rG 2 b] false = true → s.readG b ≠ 0 → s.ctx.sentBefore = 0 → s.inFlight < Config.outstanding →
      (∀ p ∈ granulesOf ps, s.ownSlice p.ga = true ∧ s.moved p.ga = p.ga ∧
        s.mem.frozen.contains (granule p.ga) = false) → s.launch.acked = false → s.behindRefused = false →
      (∀ q ∈ s.net, q.id < s.seqNo ∧ ∀ b l c, q.msg ≠ .shootdown b l c) → s.walkWaits (s.readG a) = false →
      let last := min ((s.readG a).toNat + (s.readG b).toNat - 1) (2 ^ 64 - 1)
      let multicast (q : Request) : Prop := q.msg = .shootdown (s.readG a) (s.readG b) sc.toNat ∧ q.posted = true
      (s.sealPages 0x89 false ((s.readG b).toNat / 65536 + 2) (s.readG a).toNat last = .ok ps →
        ∃ t : State, exec (.seal a b sc) s = .next (t.completed [.rG 1 a, .rG 2 b]) ∧ t.ctxs = s.ctxs ∧ t.regs = s.regs ∧
          (∀ p ∈ granulesOf ps, t.mem.isSealed p.ga = true) ∧
          (sc.toNat ≤ 1 → t.net = s.net) ∧ (2 ≤ sc.toNat → ∃ q, t.net = s.net ++ [q] ∧ multicast q)) ∧
      (s.sealPages 0x8A true ((s.readG b).toNat / 65536 + 2) (s.readG a).toNat last = .ok ps →
        ∃ t : State, exec (.unseal a b sc) s = .next (t.completed [.rG 1 a, .rG 2 b]) ∧ t.ctxs = s.ctxs ∧ t.regs = s.regs ∧
          (sc.toNat ≤ 1 → (∀ p ∈ granulesOf ps, t.mem.isSealed p.ga = false) ∧ t.net = s.net) ∧
          (2 ≤ sc.toNat → t.mem.sealed = s.mem.sealed ∧ ∃ q l, t.net = s.net ++ q :: l ∧ multicast q ∧ q.stage = .sent ∧
            l.map (fun r => (r.msg, r.ga)) = (granulesOf ps).map (fun p => (.access .unseal, p.ga)) ∧
            ∀ r ∈ l, r.stage = .after [q.id] ∧ r.posted = true))) ∧
  (∀ a b,
    CompletesIf (.hgive a b) .ordered [.rG 1 a, .rG 2 b] false
      (fun s => s.holdsBuf ((s.readG a).bits 0 10) = true ∧ (s.readG b).bits 0 4 = s.core % 16) id ∧
    (∀ s, s.canIssue .ordered [.rG 1 a, .rG 2 b] false = true → s.holdsBuf ((s.readG a).bits 0 10) = true →
      (s.readG b).bits 0 4 ≠ s.core % 16 → ∃ t : State, exec (.hgive a b) s = .next (t.completed [.rG 1 a, .rG 2 b]) ∧
        t.holdsBuf ((s.readG a).bits 0 10) = false ∧
        t.sent = s.sent ++ [.handle (BitVec.ofNat 10 ((s.readG a).bits 0 10)) ((s.readG b).truncate 4)] ∧
        (∀ k, k ≠ (s.readG a).bits 0 10 → t.holder k = s.holder k) ∧ t.mem = s.mem ∧ t.ctxs = s.ctxs ∧ t.spad.cells = s.spad.cells) ∧
    TrapsIf (.hgive a b) .ordered [.rG 1 a, .rG 2 b] false (fun s => s.holdsBuf ((s.readG a).bits 0 10) = false)
      (fun _ => ⟨16, 0, none, 0, none⟩)) ∧
  ∀ (buf : BitVec 10) (core : BitVec 4) (s : State),
    (s.holdsBuf buf.toNat = true → exec (.handleArrival buf core) s = .next s) ∧
    (s.holdsBuf buf.toNat = false → ∃ t : State, exec (.handleArrival buf core) s = .next t ∧ t.holder buf.toNat = some core.toNat ∧
      (∀ k, k ≠ buf.toNat → t.holder k = s.holder k) ∧ t.mem = s.mem ∧ t.ctxs = s.ctxs ∧ t.spad.cells = s.spad.cells)

namespace Sys2Proof.Claims

/-- R147, R148: the addresses of the bytes of an element, in order. -/
def placed (e : Nat × List Piece) : List Nat := e.2.flatMap fun p => (List.range p.n).map (p.ga + ·)

/-- R151: `x` holds the bytes of these elements, held bytes of the context laid over those of memory (R187), and elsewhere what the
destination held. -/
def elementsOf (s : State) (d : Field) (w : BitVec 2) (es : List (Nat × List Piece)) (x : VWord) : Prop :=
  (∀ e ∈ es, ∀ (o ga : Nat), (placed e)[o]? = some ga →
    vecElem x 8 (e.1 * 2 ^ w.toNat + o) = (match heldByte false ga s.ctx.hold with | some b => b | none => s.mem.byte ga).toNat) ∧
  ∀ b < 64, b / 2 ^ w.toNat ∉ es.map (·.1) → vecElem x 8 b = if d.toNat < 32 then vecElem (s.readV d) 8 b else 0

/-- R147 to R149, R151 to R153: a vector load from these element addresses. -/
def vectorLoad (i : Instr) (op : Nat) (uses : List Use) (d : Field) (k : BitVec 3) (w : BitVec 2) (addr : State → Nat → Word) : Prop :=
  CompletesIf i .free uses false (fun s => 512 / (8 * 2 ^ w.toNat) ≤ s.ctx.vstart.bits 0 6) State.restarted ∧
  ∀ s es trap, s.canIssue .free uses false = true → s.ctx.vstart.bits 0 6 < 512 / (8 * 2 ^ w.toNat) →
    s.elementsWait k w (addr s) = false → s.ctx.sentLoads = ([], [], 0, none) →
    s.translateElems op (2 ^ w.toNat) .load (addr s) (s.elements k w) = (es, trap) →
    ((∀ e ∈ es, ∀ p ∈ e.2, own s { p with ga := p.ga / 32 * 32, n := 32 } ∧ unread s p ∧ clean s p.ga p.n) →
      ∃ (t : State) (x : VWord), accessed s t ∧ sameMemory s t ∧ t.net = s.net ∧ elementsOf s d w es x ∧
        (trap = none → exec i s = .next ((t.writeV d x).restarted.completed uses)) ∧
        ∀ e, trap = some e → exec i s = .next (((if d.toNat < 32 then t.writeV d x else t).raise e).issued s.cur uses)) ∧
    (es ≠ [] → (∀ m ∈ messagesOf es, remote s m.first ∧ unread s m.first ∧ m.first.x.seal = false) →
      s.inFlight + (messagesOf es).length ≤ Config.outstanding →
      exec i s = .next (((askedAll (s.installAll (es.flatMap (·.2)))
        ((messagesOf es).map fun m => ⟨m.first.va, m.first.ga, .access (.sector m.mask), false, false⟩)).blockOn
          (.reply (List.range' s.seqNo (messagesOf es).length) []
            (.vload d w ((messagesOf es).map SectorMsg.parts) (heldElems s.ctx.hold es) trap)) (sources uses)).issued s.cur uses))

/-- R147 to R153: a vector store to these element addresses. -/
def vectorStore (i : Instr) (op : Nat) (uses : List Use) (d : Field) (k : BitVec 3) (w : BitVec 2) (addr : State → Nat → Word) :
    Prop :=
  CompletesIf i .free uses false (fun s => 512 / (8 * 2 ^ w.toNat) ≤ s.ctx.vstart.bits 0 6) State.restarted ∧
  ∀ s es trap, s.canIssue .free uses false = true → s.ctx.vstart.bits 0 6 < 512 / (8 * 2 ^ w.toNat) →
    s.elementsWait k w (addr s) = false → s.ctx.sentLoads = ([], [], 0, none) →
    s.translateElems op (2 ^ w.toNat) .store (addr s) (s.elements k w) = (es, trap) →
    let bytes (m : SectorMsg) : List (Nat × Byte) := m.bytes (s.readV d) (8 * 2 ^ w.toNat)
    (s.ctx.holds = false → (∀ e ∈ es, ∀ p ∈ e.2, own s { p with ga := p.ga / 32 * 32, n := 32 } ∧ clean s p.ga p.n ∧
        ∀ j < p.n, s.mem.isSealed (p.ga + j) = false) → s.mem.wf = true → s.migrations = [] →
      ∃ t : State, accessed s t ∧ t.net = s.net ∧
        (∀ m ∈ messagesOf es, ∀ b ∈ bytes m, t.mem.byte (m.first.ga + b.1) = b.2) ∧
        (∀ x, (∀ m ∈ messagesOf es, ∀ b ∈ bytes m, x ≠ m.first.ga + b.1) → t.mem.byte x = s.mem.byte x) ∧
        (trap = none → exec i s = .next (t.restarted.completed uses)) ∧
        ∀ e, trap = some e → exec i s = .next ((t.raise e).issued s.cur uses)) ∧
    (s.ctx.holds = false → es = [] → ∀ e, trap = some e →
      ∃ t, exec i s = .next ((t.raise e).issued s.cur uses) ∧ t.ctxs = s.ctxs ∧ sameMemory s t) ∧
    (s.ctx.holds = false → (∀ m ∈ messagesOf es, remote s m.first) → s.inFlight + (messagesOf es).length ≤ Config.outstanding →
      let t := askedAll (s.installAll (es.flatMap (·.2)))
        ((messagesOf es).map fun m => ⟨m.first.va, m.first.ga, .access (.write (bytes m)), true, false⟩)
      (trap = none → exec i s = .next (t.restarted.completed uses)) ∧
      ∀ e, trap = some e → exec i s = .next ((t.raise e).issued s.cur uses)) ∧
    (s.ctx.holds = true → (∀ m ∈ messagesOf es, s.ownSlice m.first.ga = true → ∀ b ∈ bytes m,
        s.mem.poison.contains (s.moved (m.first.ga + b.1) / 8) = false) →
      (s.ctx.hold.filter (·.head)).length + (messagesOf es).length ≤ Config.holdDepth →
      let t := (s.installAll (es.flatMap (·.2))).hold ((messagesOf es).map fun m =>
        ⟨false, m.first.ga, m.first.va, s.ctx.pc, bytes m, false, true⟩)
      (trap = none → exec i s = .next (t.restarted.completed uses)) ∧
      ∀ e, trap = some e → exec i s = .next ((t.raise e).issued s.cur uses))

/-- R147: the address under an index vector. -/
def indexAddress (a b : Field) (w sc : BitVec 2) (s : State) (j : Nat) : Word :=
  s.readG a + ((BitVec.ofNat (8 * 2 ^ w.toNat) (vecElem (s.readV b) (8 * 2 ^ w.toNat) j)).signExtend 64) <<< sc.toNat

def unitAddress (a : Field) (w : BitVec 2) (disp : BitVec 21) (s : State) (j : Nat) : Word :=
  s.readG a + disp.signExtend 64 + BitVec.ofNat 64 (j * 2 ^ w.toNat)

end Sys2Proof.Claims

/-- R147 to R153: a vector memory instruction whose VSTART lies at or beyond its last element only clears VSTART. A load whose
elements all translate to clean sectors of the own slice completes with their bytes in the destination; a store puts its elements'
bytes there, the higher element's at a byte of two, and no other byte changes; VSTART is 0. Sectors at other homes are asked for,
or posted. An element that does not translate is a trap with VSTART at the element, once those below it are done: loaded, or
stored, or sent. The replies of a load are placed part by part, up to the element it stops at. (What the rules leave open here is
settled as in log entries 22 and 23.) -/
def Obligations.VectorMemory : Prop :=
  (∀ d a k w disp,
    Claims.vectorLoad (.vld d a k w disp) 0xE0 [.wV d, .rG 1 a] d k w (Claims.unitAddress a w disp) ∧
    Claims.vectorStore (.vst d a k w disp) 0xE1 [.rV 0 d, .rG 1 a] d k w (Claims.unitAddress a w disp)) ∧
  (∀ d a b k w, Claims.vectorLoad (.vlds d a b k w) 0xE2 [.wV d, .rG 1 a, .rG 2 b] d k w
    (fun s j => s.readG a + BitVec.ofNat 64 j * s.readG b)) ∧
  (∀ d a b sc k w,
    Claims.vectorLoad (.vldx d a b sc k w) 0xE3 [.wV d, .rG 1 a, .rV 2 b] d k w (Claims.indexAddress a b w sc) ∧
    Claims.vectorStore (.vstx d a b sc k w) 0xE4 [.rV 0 d, .rG 1 a, .rV 2 b] d k w (Claims.indexAddress a b w sc)) ∧
  (∀ (s : State) op n kind addr l es trap, s.translateElems op n kind addr l = (es, trap) →
    (∀ e ∈ es, s.translateAllBy s.ctx.root s.ctx.pl kind op e.1 .memory (pieces 2 (addr e.1) n) = .ok e.2) ∧
    (trap = none → es.map (·.1) = l) ∧
    ∀ e, trap = some e → ∃ j rest e', l = es.map (·.1) ++ j :: rest ∧ e = { e' with vstart := some j } ∧
      s.translateAllBy s.ctx.root s.ctx.pl kind op j .memory (pieces 2 (addr j) n) = .error e') ∧
  (∀ (s : State) e j, s.ctx.spec = [] → e.cause ≠ 10 → e.vstart = some j → (s.raise e).ctx.vstart = BitVec.ofNat 64 j) ∧
  ∀ (s : State) d (w : BitVec 2) (parts : List (List (Nat × Nat × Nat × Nat))) (rs : List Reply) trap,
    (∀ r ∈ rs, ∃ v, r = Reply.data v) →
    let place (q : Nat × Nat × Nat × Nat) : Nat := q.1 * 2 ^ w.toNat + q.2.1
    (parts.flatten.flatMap fun q => (List.range q.2.2.2).map (place q + ·)).Nodup →
    ∃ x : VWord,
      (trap = none → s.settleVload d w parts [] trap rs = .done (s.writeV d x).restarted) ∧
      (∀ e, trap = some e → s.settleVload d w parts [] trap rs = .is ((if d.toNat < 32 then s.writeV d x else s).raise e)) ∧
      let done (j : Nat) : Prop := match trap with | none => j < 64 | some e => j < e.vstart.getD 0
      (∀ m ∈ parts.zip rs, ∀ q ∈ m.1, done q.1 → ∀ b < q.2.2.2, place q + b < 64 →
        vecElem x 8 (place q + b) = m.2.value / 256 ^ (q.2.2.1 + b) % 256) ∧
      ∀ b < 64, (∀ m ∈ parts.zip rs, ∀ q ∈ m.1, done q.1 → ¬ (place q ≤ b ∧ b < place q + q.2.2.2)) →
        vecElem x 8 b = if d.toNat < 32 then vecElem (s.readV d) 8 b else 0

/-! ### Fences and barriers -/

/-- R193 to R196, R198, R209 to R211: a fence of kind stores completes once the context's posted operations to homes in its scope are
acknowledged, and else waits, for a granule's `seal` or `unseal` at the scope it names too; `fence.eng` and `dsync` wait for engine commands too, and `dsync` for tasks' decrements and queues'
operations besides (10 is its scope); `icinv` then asks for the discard; `tsync` puts
PTB into effect; `fence.ld` completes. A known imprecise fault is taken first. The discard of another core's `icinv` drops lines and is
acknowledged. -/
def Obligations.FencesOrder : Prop :=
  (∀ sc : BitVec 4,
    let clear (n : Nat) (s : State) : Prop := s.storesClear s.cur n = true ∧ s.ctx.report = none
    CompletesIf (.fenceLd sc) .ordered [] false (fun s => s.ctx.report = none) id ∧
    CompletesIf (.fenceSt sc) .ordered [] false (clear sc.toNat) id ∧
    WaitsIf (.fenceSt sc) .ordered [] false (fun s => s.storesClear s.cur sc.toNat = false) id (fun _ => .order false sc.toNat) ∧
    CompletesIf (.fence sc) .ordered [] false (clear sc.toNat) id ∧
    WaitsIf (.fence sc) .ordered [] false (fun s => s.storesClear s.cur sc.toNat = false) id (fun _ => .order false sc.toNat) ∧
    CompletesIf (.fenceEng sc) .ordered [] false (fun s => clear sc.toNat s ∧ s.enginesClear s.cur = true) id ∧
    WaitsIf (.fenceEng sc) .ordered [] false (fun s => s.storesClear s.cur sc.toNat = false ∨ s.enginesClear s.cur = false) id
      (fun _ => .order true sc.toNat) ∧
    CompletesIf .dsync .ordered [] false (fun s => clear 10 s ∧ s.enginesClear s.cur = true) id ∧
    WaitsIf .dsync .ordered [] false (fun s => s.storesClear s.cur 10 = false ∨ s.enginesClear s.cur = false) id
      (fun _ => .order true 10) ∧
    WaitsIf .tsync .ordered [] false (fun s => s.storesClear s.cur 9 = false) id (fun _ => .order false 9) ∧
    (∀ s : State, s.canIssue .ordered [] false = true → clear 9 s →
      exec .tsync s = .next (s.put { s.ctx.advance with root := s.regs.ptb, line := none })) ∧
    (∀ a b, AsksIf (.icinv a b sc) .ordered [.rG 1 a, .rG 2 b] false
      (fun s => clear (if sc = 0 then 1 else if sc = 9 then 8 else sc.toNat) s ∧ s.inFlight ≤ Config.outstanding) id
      (fun s => ⟨s.readG a, multicastHome, .discard (s.readG a) (s.readG b) (if sc = 0 then 1 else if sc = 9 then 8 else sc.toNat), false, false⟩)
      (fun _ => .nothing)) ∧
    ∀ i f (s : State), i = Instr.fenceLd sc ∨ ((i = Instr.fenceSt sc ∨ i = Instr.fence sc) ∧ s.storesClear s.cur sc.toNat = true) ∨
        (i = Instr.fenceEng sc ∧ s.storesClear s.cur sc.toNat = true ∧ s.enginesClear s.cur = true) ∨
        (i = Instr.dsync ∧ s.storesClear s.cur 10 = true ∧ s.enginesClear s.cur = true) ∨
        (i = Instr.tsync ∧ s.storesClear s.cur 9 = true) →
      s.canIssue .ordered [] false = true → s.ctx.spec = [] → s.ctx.report = some f →
      exec i s = .next ((s.put { s.ctx with imprecise := [], pending := none }).takeTrap s.cur
        ⟨f.cause, f.sub, some f.faddr, f.finfo, none⟩ false true f.eng s.ctx.pc)) ∧
  (∀ (s : State) r n bs, r ∈ s.net → r.ctx = s.cur → r.gen = s.ctx.gen → r.posted = true → r.stage ≠ .answered →
    r.msg = .access (.write bs) → s.inScope r.ga n = true → s.storesClear s.cur n = false) ∧
  (∀ (s : State) r, r ∈ s.net → r.ctx = s.cur → r.gen = s.ctx.gen → r.posted = true → r.stage ≠ .answered →
    (r.msg = .access .tdec ∨ ∃ q o, r.msg = .queue q o) → s.storesClear s.cur 10 = false) ∧
  (∀ (s : State) r n, r ∈ s.net → r.ctx = s.cur → r.gen = s.ctx.gen → r.posted = true → r.stage ≠ .answered →
    (r.msg = .access .seal ∨ r.msg = .access .unseal) → r.scope ≠ 0 → r.scope ≤ n → s.storesClear s.cur n = false) ∧
  (∀ (s : State) n, n ≤ 9 → (s.storesClear s.cur 10 = true → s.storesClear s.cur 9 = true) ∧
    (s.storesClear s.cur 9 = true → s.storesClear s.cur n = true)) ∧
  ∀ (base len : Word) (s : State), ∃ t : State, exec (.icinvDiscard base len) s = .next t ∧ t.sent = s.sent ++ [.invalidated base len] ∧
    (∀ l, l ∈ t.lines ↔ l ∈ s.lines ∧ ¬ (2 ^ 20 ≤ len.toNat ∨
      len ≠ 0 ∧ base.toNat < l.va.toNat + 64 ∧ l.va.toNat < base.toNat + len.toNat)) ∧
    t.ctxs = s.ctxs ∧ t.mem = s.mem ∧ t.regs = s.regs

namespace Sys2Proof.Claims

/-- R202: a barrier with its fence over arrives: the context is blocked, the first of an episode fixes the field that governs it, and
the core signals when as many have arrived. -/
def arrives (i : Instr) (uses srcs : List Use) (sc : BitVec 4) (v : State → Option (Field × RedOp × Word)) : Prop :=
  ∀ s, s.canIssue .ordered uses false = true → s.storesClear s.cur sc.toNat = true → s.ctx.report = none →
    sc ≠ 0 → s.governing sc.toNat ≠ 0 →
    exec i s = .next (((s.blockOn (.bar sc.toNat (v s)) (sources srcs)).arrivedNow sc.toNat).issued s.cur uses)

/-- R204: a `barv` completes at once with its own value where no barrier governs, and else arrives with its operation and value. -/
def reduces (i : Field → Field → BitVec 4 → Instr) (op : RedOp) : Prop :=
  ∀ d a (sc : BitVec 4),
    CompletesIf (i d a sc) .ordered [.wG d, .rG 1 a] false
      (fun s => s.storesClear s.cur sc.toNat = true ∧ s.ctx.report = none ∧ (sc = 0 ∨ s.governing sc.toNat = 0))
      (fun s => s.writeG d (s.readG a)) ∧
    arrives (i d a sc) [.wG d, .rG 1 a] [.rG 1 a] sc (fun s => some (d, op, s.readG a))

/-- R204: the operations of a reduction. -/
def combine : RedOp → Word → Word → Word
  | .add, x, y => x + y
  | .min, x, y => if x.toInt ≤ y.toInt then x else y
  | .max, x, y => if y.toInt ≤ x.toInt then x else y
  | .minu, x, y => if x.toNat ≤ y.toNat then x else y
  | .maxu, x, y => if y.toNat ≤ x.toNat then x else y
  | .and, x, y => x &&& y
  | .or, x, y => x ||| y
  | .xor, x, y => x ^^^ y

end Sys2Proof.Claims

/-- R201 to R204, R206: barriers: where no barrier governs they complete; else they arrive, the core signals once the field's number
has arrived, a withdrawn arrival leaves its place to the context's next one, other cores' signals are counted once each, and the
release lets every context of the episode go on, `barv`s with the reduction of every value, while those that arrived beyond the field
start the next episode, or go on with their own value where the field has become 0. (What the rules leave open here is
settled as in log entry 63.) -/
def Obligations.BarriersMeet : Prop :=
  (∀ sc : BitVec 4, CompletesIf (.bar sc) .ordered [] false
      (fun s => s.storesClear s.cur sc.toNat = true ∧ s.ctx.report = none ∧ (sc = 0 ∨ s.governing sc.toNat = 0)) id ∧
    Claims.arrives (.bar sc) [] [] sc (fun _ => none)) ∧
  Claims.reduces .barvAdd .add ∧ Claims.reduces .barvMin .min ∧ Claims.reduces .barvMax .max ∧ Claims.reduces .barvMinu .minu ∧
  Claims.reduces .barvMaxu .maxu ∧ Claims.reduces .barvAnd .and ∧ Claims.reduces .barvOr .or ∧ Claims.reduces .barvXor .xor ∧
  (∀ (b : Barrier) i now field, b.waiting = [] → let c := b.arrive i now field
    (i.val ∈ b.gaps → c.members = b.members ++ [(i, now)] ∧ c.gaps = b.gaps.erase i.val ∧ c.field = b.field ∧ c.waiting = []) ∧
    (i.val ∉ b.gaps → c.field = (if b.idle then field else b.field) ∧ c.gaps = b.gaps ∧
      (b.members.length + b.gaps.length < c.field → c.members = b.members ++ [(i, now)] ∧ c.waiting = []) ∧
      (c.field ≤ b.members.length + b.gaps.length → c.members = b.members ∧ c.waiting = [(i, now)]))) ∧
  (∀ (s : State) n, 1 ≤ n → n ≤ 8 → (s.barrier n).signalled = false → (s.barrier n).field ≠ 0 →
    ((s.barrier n).field ≤ (s.barrier n).members.length → ((s.checkBarrier n).barrier n).signalled = true ∧
      (2 ≤ n → (s.checkBarrier n).sent = s.sent ++ [.barrier n (s.contributions (s.arrivedAt n))])) ∧
    ((s.barrier n).members.length < (s.barrier n).field → s.checkBarrier n = s)) ∧
  (∀ (s : State) i n, 1 ≤ n → n ≤ 8 → let b := s.barrier n
    b.members.any (·.1 == i) = true → (b.members.filter (·.1 != i)).length + 1 + b.gaps.length ≤ b.field →
    b.waiting = [] ∨ (b.members.filter (·.1 != i)).length + 1 + b.gaps.length = b.field →
    let t := s.withdraw i n true
    (t.at i).block = none ∧ (∀ j, j ≠ i → t.at j = s.at j) ∧
    t.barrier n = { b with signalled := false, members := b.members.filter (·.1 != i), gaps := b.gaps ++ [i.val] } ∧
    t.sent = s.sent ++ if b.signalled ∧ n ≠ 1 then [.withdrawal n] else []) ∧
  (∀ (sc : BitVec 4) core vals (s : State), 1 ≤ sc.toNat → sc.toNat ≤ 8 →
    (core = s.lcore ∨ core.toNat ∈ (s.barrier sc.toNat).others → exec (.barrierArrival sc core vals) s = .next s) ∧
    (core ≠ s.lcore → core.toNat ∉ (s.barrier sc.toNat).others → ∃ t : State, exec (.barrierArrival sc core vals) s = .next t ∧
      (∀ k, k ∈ (t.barrier sc.toNat).others ↔ k = core.toNat ∨ k ∈ (s.barrier sc.toNat).others) ∧
      (t.barrier sc.toNat).vals = (s.barrier sc.toNat).vals ++ vals ∧ t.ctxs = s.ctxs ∧ t.mem = s.mem)) ∧
  ∀ (sc : BitVec 4) (s : State), 1 ≤ sc.toNat → sc.toNat ≤ 8 →
    ((s.barrier sc.toNat).signalled = false → exec (.barrierRelease sc) s = .next s) ∧
    ((s.barrier sc.toNat).signalled = true →
      let l := s.arrivedAt sc.toNat
      ∃ t : State, exec (.barrierRelease sc) s = .next t ∧ t.mem = s.mem ∧
        (s.barField sc.toNat ≠ 0 ∨ (s.barrier sc.toNat).waiting = [] → ∀ j, j ∉ l → t.at j = s.at j) ∧
        (s.barField sc.toNat = 0 → ∀ j d op v q, (s.barrier sc.toNat).waiting.map (·.1) = [j] → j ∉ l → (s.at j).live = true →
          (s.at j).block = some ⟨.bar sc.toNat (some (d, op, v)), q, []⟩ → d ≠ 0 → d.toNat < 32 →
          (t.at j).block = none ∧ nth (t.at j).g d.toNat 0 = v) ∧
        (∀ j ∈ l, (t.at j).block = none ∧ (t.at j).pc = (s.at j).next ∧
          (∀ q x, (s.at j).block = some ⟨.bar sc.toNat none, q, x⟩ → (t.at j).g = (s.at j).g) ∧
          ∀ d op0 v q x, (s.at j).block = some ⟨.bar sc.toNat (some (d, op0, v)), q, x⟩ → d ≠ 0 → d.toNat < 32 →
            (∀ m, m ≠ d.toNat → nth (t.at j).g m 0 = nth (s.at j).g m 0) ∧
            ∀ op y ys, s.contributions l ++ (s.barrier sc.toNat).vals = (y :: ys).map (op, ·) →
              nth (t.at j).g d.toNat 0 = ys.foldl (Claims.combine op) y) ∧
        (t.barrier sc.toNat).others = [] ∧
        ((t.barrier sc.toNat).signalled = true ↔
          s.barField sc.toNat ≠ 0 ∧ s.barField sc.toNat ≤ (s.barrier sc.toNat).waiting.length)) ∧
    ∀ l, s.contributions l = l.filterMap fun j => match (s.at j).block with
      | some ⟨.bar _ (some (_, op, v)), _, _⟩ => some (op, v)
      | _ => none

/-! ### Collective branches -/

/-- R303 to R308: `cjoin` refuses what R303 refuses and else makes the context a member, the arrivals that came before it counted; `cleave`, `cbr` and `cred` outside a group act
alone; in a group they send their arrival, `cbr` going on along the predicted path under a checkpoint and the others waiting
for the result; `cstat` reads the collective registers. -/
def Obligations.CollectivesArrive : Prop :=
  (∀ d a b (sc : BitVec 4),
    let gid (s : State) : BitVec 12 := BitVec.ofNat 12 ((s.readG a).bits 0 12)
    let bad (s : State) : Prop := s.ctx.inGroup = true ∨ s.readG b = 0 ∨ 2 ^ 33 ≤ (s.readG b).toNat ∨
      s.group (gid s) sc = none ∧ 8 ≤ s.groups.length
    CompletesIf (.cjoin d a b sc) .stall [.wG d, .rG 1 a, .rG 2 b] false bad (fun s => s.writeG d 0) ∧
    (∀ s c v, s.canIssue .stall [.wG d, .rG 1 a, .rG 2 b] false = true → ¬ bad s → s.group (gid s) sc = none → c ≠ 0 →
      s.strays = [⟨gid s, sc, 0, c, v⟩] → ∃ (t : State) (g : Group), exec (.cjoin d a b sc) s = .next t ∧
        t.group (gid s) sc = some g ∧ g.members = [s.cur] ∧ g.arrivals = [(0, c, v)] ∧ t.strays = []) ∧
    ∀ s, s.canIssue .stall [.wG d, .rG 1 a, .rG 2 b] false = true → ¬ bad s →
      (∀ x ∈ s.strays, x.gid ≠ gid s ∨ x.scope ≠ sc) → ∃ t : State,
      exec (.cjoin d a b sc) s = .next ((t.writeG d 1).completed [.wG d, .rG 1 a, .rG 2 b]) ∧ t.ctx.inGroup = true ∧
      t.ctx.gid = gid s ∧ t.ctx.gscope = sc ∧ t.ctx.cgrp.bits 0 33 = (s.readG b).toNat ∧ t.ctx.brk = 0 ∧ t.ctx.cseq = 0 ∧ t.ctx.g = s.ctx.g ∧
      t.mem = s.mem ∧ ∀ j, j ≠ s.cur → t.at j = s.at j) ∧
  (∀ d,
    CompletesIf (.cleave d) .stall [.wG d] false (fun s => s.ctx.inGroup = false) (fun s => s.writeG d 0) ∧
    CompletesIf (.cleave d) .stall [.wG d] false (fun s => s.ctx.inGroup = true ∧ s.ctx.brk ≠ 0)
      (fun s => (s.leaveGroup s.cur).writeG d 1) ∧
    (∀ s, s.canIssue .stall [.wG d] false = true → s.ctx.inGroup = true → s.ctx.brk = 0 → s.ctx.voted = false →
      exec (.cleave d) s = .next (((s.blockOn (.cleave d) []).sendArrival s.cur .leave).issued s.cur [.wG d])) ∧
    Completes (.cstatGrp d) .free [.wG d] false (fun s => s.writeG d s.ctx.cgrp) ∧
    Completes (.cstatSeq d) .free [.wG d] false (fun s => s.writeG d s.ctx.cseq) ∧
    Completes (.cstatSpec d) .free [.wG d] false (fun s => s.writeG d (BitVec.ofNat 64 (s.ctx.squash.toNat * 2 ^ 32 +
      s.ctx.voted.toNat * 2 ^ 22 + s.ctx.spec.length * 2 ^ 20 + ((s.ctx.spec.head?.map (·.issued)).getD 0) * 2 ^ 8 + (s.ctx.hold.filter (·.head)).length)))) ∧
  (∀ d hint (j : BitVec 26) (all : Bool),
    let i : Instr := if all then .cbrAll d hint j else .cbrAny d hint j
    let alone (s : State) : Prop := s.ctx.report = none ∧ s.ctx.inGroup = false ∧ Claims.reachable s (Claims.target j s)
    GoesIf i .free [.rG 0 d] false (fun s => alone s ∧ s.readG d ≠ 0) id (Claims.target j) ∧
    CompletesIf i .free [.rG 0 d] false (fun s => alone s ∧ s.readG d = 0) id ∧
    (∀ e, e.cause ≠ noWalker → TrapsIf i .free [.rG 0 d] false (fun s => s.ctx.report = none ∧ s.checkTarget (Claims.target j s) = some e) (fun _ => e)) ∧
    ∀ s, s.canIssue .free [.rG 0 d] false = true → s.ctx.report = none → s.ctx.inGroup = true → s.ctx.brk = 0 →
      Claims.reachable s (Claims.target j s) →
      (s.ctx.spec.length = 2 → exec i s = .next ((s.blockOn .thirdCbr (sources [.rG 0 d])).issued s.cur [.rG 0 d])) ∧
      (s.ctx.spec = [] → s.ctx.voted = false → 0 < s.ctx.count.toNat →
        (∀ g, s.group s.ctx.gid s.ctx.gscope = some g → g.broken = none ∧ g.arrivals = [] ∧
          (g.seq = s.ctx.seq ∨ ∀ r, g.result = some r → r.1 ≠ s.ctx.seq)) →
        ∃ t : State, exec i s = .next t ∧ t.ctx.pc = (if hint then Claims.target j s else s.ctx.next) ∧ t.ctx.block = none ∧
          t.ctx.spec = [s.ctx.checkpoint (Claims.target j s) hint all (s.readG d != 0) true] ∧ t.ctx.g = s.ctx.g ∧ t.ctx.v = s.ctx.v ∧
          t.ctx.voted = true ∧ t.ctx.seq = s.ctx.seq + 1 ∧ t.mem = s.mem ∧ t.net = s.net ∧
          .arrival s.ctx.gid s.ctx.gscope s.ctx.seq s.ctx.count
            (if all then .all (s.readG d != 0) else .any (s.readG d != 0)) ∈ t.sent) ∧
      (s.ctx.spec.length = 1 → ∃ t : State, exec i s = .next t ∧ t.ctx.pc = (if hint then Claims.target j s else s.ctx.next) ∧
        t.ctx.spec.length = 2 ∧ t.ctx.g = s.ctx.g ∧ t.ctx.cseq = s.ctx.cseq ∧ t.mem = s.mem ∧ t.net = s.net)) ∧
  ∀ (i : Field → Field → Instr) (op : RedOp), (i = Instr.credAdd ∧ op = .add) ∨ (i = Instr.credMin ∧ op = .min) ∨
      (i = Instr.credMax ∧ op = .max) ∨ (i = Instr.credMinu ∧ op = .minu) ∨ (i = Instr.credMaxu ∧ op = .maxu) → ∀ d a,
    CompletesIf (i d a) .stall [.wG d, .rG 1 a] false (fun s => s.ctx.report = none ∧ s.ctx.inGroup = false)
      (fun s => s.writeG d (s.readG a)) ∧
    ∀ s, s.canIssue .stall [.wG d, .rG 1 a] false = true → s.ctx.report = none → s.ctx.inGroup = true → s.ctx.brk = 0 → s.ctx.voted = false →
      exec (i d a) s = .next (((s.blockOn (.cred d) (sources [.rG 1 a])).sendArrival s.cur (.cred op (s.readG a))).issued s.cur
        [.wG d, .rG 1 a])

/-- R300, R301, R305, R309, R310, R313: an arrival that fits the running episode counts, one that comes before any member of
this core has joined waits, and one for an episode that has resolved, one too many, or one of another COUNT breaks the group (log
entry 65); a member that has waited longer than its CTIMEO since its arrival times it out; the result of a complete one reaches a member,
whose `cred` takes the reduction and whose `cbr` goes on as predicted or is squashed to its checkpoint and goes the other way; a
time-out and a break mark members that wait for nothing and trap those that wait. -/
def Obligations.CollectivesResolve : Prop :=
  (∀ gid sc seq (count : BitVec 33) v (s : State), (s.group gid sc = none →
      exec (.collectiveArrival gid sc seq count v) s = .next { s with strays := s.strays ++ [⟨gid, sc, seq, count, v⟩] }) ∧
    ∀ g, s.group gid sc = some g → g.broken = none →
      (∀ x ∈ g.arrivals, x.1 = seq ∧ x.2.1 = count ∧ sameKind x.2.2 v = true) → g.arrivals.length < count.toNat →
      (g.seq = seq ∨ ∀ r, g.result = some r → r.1 ≠ seq) →
      ∃ t : State, exec (.collectiveArrival gid sc seq count v) s = .next t ∧
        t.group gid sc = some { g with arrivals := g.arrivals ++ [(seq, count, v)], seq := seq } ∧ t.ctxs = s.ctxs ∧ t.mem = s.mem) ∧
  (∀ gid sc seq (count : BitVec 33) v (s : State) g, s.group gid sc = some g → g.broken = none →
    (∀ r, g.seq ≠ seq → g.result = some r → r.1 = seq →
      exec (.collectiveArrival gid sc seq count v) s = .next (s.breakGroup gid sc 2 seq)) ∧
    ((g.seq = seq ∨ ∀ r, g.result = some r → r.1 ≠ seq) → (∀ x ∈ g.arrivals, x.1 = seq ∧ sameKind x.2.2 v = true) →
      count.toNat ≤ g.arrivals.length ∨ (∃ x ∈ g.arrivals, x.2.1 ≠ count) →
      exec (.collectiveArrival gid sc seq count v) s = .next (s.breakGroup gid sc 2 seq))) ∧
  (∀ gid sc (s : State), (s.group gid sc = none → exec (.collectiveResult gid sc) s = .next (s.dropStrays gid sc)) ∧
    ∀ g, s.group gid sc = some g → g.complete = false → exec (.collectiveResult gid sc) s = .next s) ∧
  (∀ gid sc (s : State) g i d q op, s.group gid sc = some g → g.complete = true → g.members = [i] → g.early = [] →
    (s.at i).spec = [] → (s.at i).block = some ⟨.cred d, q, []⟩ → d ≠ 0 → d.toNat < 32 →
    ∀ x xs, g.arrivals.map (·.2.2) = (x :: xs).map (Vote.cred op) →
    ∃ t : State, exec (.collectiveResult gid sc) s = .next t ∧ nth (t.at i).g d.toNat 0 = xs.foldl (Claims.combine op) x ∧
      (t.at i).block = none ∧ (t.at i).pc = (s.at i).next ∧ (t.at i).voted = false ∧ t.mem = s.mem ∧ ∀ j, j ≠ i → t.at j = s.at j) ∧
  (∀ (s : State) i p r, (s.at i).spec = [p] → s.dbg.sessions = [] →
    (r = p.hint → (s.at i).block = none →
      ((s.resolve i r).at i).spec = [] ∧ ((s.resolve i r).at i).g = (s.at i).g ∧ ((s.resolve i r).at i).pc = (s.at i).pc ∧
      ((s.resolve i r).at i).hold = (s.at i).hold ∧ ((s.resolve i r).at i).released = (s.at i).hold.length) ∧
    (r ≠ p.hint → ((s.resolve i r).at i).spec = [] ∧ ((s.resolve i r).at i).g = p.g ∧ ((s.resolve i r).at i).v = p.v ∧
      ((s.resolve i r).at i).f = p.f ∧ ((s.resolve i r).at i).k = p.k ∧ ((s.resolve i r).at i).frm = p.frm ∧
      ((s.resolve i r).at i).pc = (if r then p.target else p.next) ∧ ((s.resolve i r).at i).hold = (s.at i).hold.take p.older ∧
      ((s.resolve i r).at i).squash = (s.at i).squash + 1 ∧ (s.resolve i r).mem = s.mem)) ∧
  ∀ gid sc reason info (s : State) g,
    (s.group gid sc = none → exec (.cbtimeo gid sc) s = .next (s.dropStrays gid sc) ∧
      exec (.cbbroken gid sc reason info) s = .next (s.dropStrays gid sc)) ∧
    (∀ i ∈ g.members, s.group gid sc = some g → (s.at i).brk = 0 → (s.at i).voted = true → (s.at i).ctimeo.bits 0 24 ≠ 0 →
      (s.at i).ctimeo.bits 0 24 * 1250 < (s.units.pcyc - (s.at i).arrived).toNat →
      ∃ t : State, exec (.cbtimeo gid sc) s = .next t ∧ .timeout gid sc ∈ t.sent) ∧
    (s.group gid sc = some g → g.members.Nodup → (∀ i ∈ g.members, (s.at i).brk = 0 ∧ (s.at i).inEpisode = false) →
      (∃ t : State, exec (.cbtimeo gid sc) s = .next t ∧ (∀ i ∈ g.members, (t.at i).brk = 1) ∧ (∀ j, j ∉ g.members → t.at j = s.at j) ∧
        t.mem = s.mem) ∧
      ∃ t : State, exec (.cbbroken gid sc reason info) s = .next t ∧ (∀ i ∈ g.members, (t.at i).brk = 2) ∧
        (∀ j, j ∉ g.members → t.at j = s.at j) ∧ t.mem = s.mem) ∧
    ∀ i, s.group gid sc = some g → g.members = [i] → (s.at i).brk = 0 → (s.at i).inEpisode = true → s.dbg.brkh = false → s.regs.tvec ≠ 0 →
      (∃ t : State, exec (.cbtimeo gid sc) s = .next t ∧ (t.at i).cause.bits 0 8 = 20 ∧ (t.at i).pc = s.regs.tvec ∧ (t.at i).inGroup = false) ∧
      ∃ t : State, exec (.cbbroken gid sc reason info) s = .next t ∧ (t.at i).cause.bits 0 8 = 21 ∧ (t.at i).pc = s.regs.tvec ∧
        (t.at i).inGroup = false

/-! ### The matrix unit -/

namespace Sys2Proof.Claims

/-- R216, R217: an instruction whose checks pass joins the matrix queue as a command of its context and goes on; a full queue makes
it wait. A command of an operand word takes it from q2's staging. -/
def queues (i : Instr) (uses : List Use) (op : Nat) (ok : State → Prop) (x : State → MxOp) (y : Sync) (rpt word : Bool) : Prop :=
  CompletesIf i .ordered uses false (fun s => ok s ∧ s.mx.queue.length < Config.stageDepth) (fun s =>
    let t := s.acceptMx op (x s) y rpt (some (s.cur, s.ctx.gen)) none
    if word then t.takeWords 2 1 else t) ∧
  WaitsIf i .ordered uses false (fun s => ok s ∧ Config.stageDepth ≤ s.mx.queue.length) id (fun _ => .cmdFull 2)

/-- R221: the multiplies by format pair, with their opcodes. -/
noncomputable def multiplies : List ((MmaArgs → Sync → Instr) × Nat) :=
  [(.mmaBf16, 0xA2), (.mmaF16, 0xA3), (.mmaE4m3, 0xA4), (.mmaE5e4, 0xA5), (.mmaE4e5, 0xA6), (.mmaI8, 0xA7), (.mmaUi8i8, 0xA8),
    (.mmaE2m1, 0xA9), (.mmaTw8i8, 0xAA), (.mmaTw8e4, 0xAB), (.mmaTw8bf, 0xAC)]

/-- The operands of a multiply: its registers, and the scale word when a side is scaled. -/
def multiplyUses (m : MmaArgs) : List Use := [.acc 0 m.d, .tile 1 m.a, .tile 2 m.b] ++ if m.sa || m.sb then [.rF 3 m.c] else []
def scaleOf (m : MmaArgs) (s : State) : Word := if m.sa || m.sb then s.readF m.c else 0

end Sys2Proof.Claims

/-- R216, R217, R219 to R225, R228: the matrix instructions check their shapes and entries, and join the queue. (What the rules leave open here is settled as in
log entry 19.) -/
def Obligations.MatrixQueues : Prop :=
  (∀ (s : State) op x y rpt o n, ∃ c, (s.acceptMx op x y rpt o n).mx.queue = s.mx.queue ++ [c] ∧ c.what = x ∧ c.y = y ∧ c.rpt = rpt ∧
    c.owner = o ∧ c.note = n ∧ c.started = false ∧ c.ran = none ∧ c.seq.toNat = s.regs.mseq.toNat % 2 ^ 16 ∧
    (s.acceptMx op x y rpt o n).regs.mseq.toNat = (s.regs.mseq.toNat % 2 ^ 16 + 1) % 2 ^ 16 ∧
    (s.acceptMx op x y rpt o n).ctxs = s.ctxs ∧ (s.acceptMx op x y rpt o n).mem = s.mem ∧ (s.acceptMx op x y rpt o n).spad = s.spad ∧
    (s.acceptMx op x y rpt o n).mx.tiles = s.mx.tiles ∧ (s.acceptMx op x y rpt o n).mx.accs = s.mx.accs) ∧
  (∀ d c1 c0 lt dir y,
    let ok (s : State) : Prop := s.moveFault d.toNat (s.layout lt.toNat) c0.toNat c1.toNat dir = none
    Claims.queues (.tld d c1 c0 lt dir y) [.tile 0 d] 0xA0 ok (fun s => .tld d.toNat (s.layout lt.toNat) c0.toNat c1.toNat dir) y false false ∧
    Claims.queues (.tst d c1 c0 lt dir y) [.tile 0 d] 0xA0 ok (fun s => .tst d.toNat (s.layout lt.toNat) c0.toNat c1.toNat dir) y false false ∧
    ∀ e, TrapsIf (.tld d c1 c0 lt dir y) .ordered [.tile 0 d] false
        (fun s => s.moveFault d.toNat (s.layout lt.toNat) c0.toNat c1.toNat dir = some e) (fun _ => e) ∧
      TrapsIf (.tst d c1 c0 lt dir y) .ordered [.tile 0 d] false
        (fun s => s.moveFault d.toNat (s.layout lt.toNat) c0.toNat c1.toNat dir = some e) (fun _ => e)) ∧
  (∀ d y, Claims.queues (.tzero d y) [.tile 0 d] 0xA1 (fun _ => True) (fun _ => .tzero d.toNat) y false false ∧
    Claims.queues (.mzero d y) [.acc 0 d] 0xA1 (fun _ => True) (fun _ => .mzero d.toNat) y false false) ∧
  (∀ q ∈ Claims.multiplies, ∀ m y,
    Claims.queues (q.1 m y) (Claims.multiplyUses m) q.2 (fun s => s.mmaFault q.2 m false = none)
      (fun s => .mma q.2 m (Claims.scaleOf m s)) y m.rpt false ∧
    ∀ e, TrapsIf (q.1 m y) .ordered (Claims.multiplyUses m) false (fun s => s.mmaFault q.2 m false = some e) (fun _ => e)) ∧
  (∀ (op : BitVec 8) m y q,
    let uses : List Use := [.acc 0 m.d, .tile 1 m.a] ++ if m.sa || m.sb then [.rF 3 m.c] else []
    Claims.queues (.mmaStream op m y) uses op.toNat
      (fun s => (s.words 2).head? = some q ∧ readOutBad (streamFmt q) (streamRm q) (streamShift q) = false ∧ s.mmaFault op.toNat m true = none ∧
        ∃ p, pairOf op.toNat = some p ∧ streamServes p m q (s.layout (streamSlt q)) (s.layout (streamDlt q)) = true)
      (fun s => .stream op.toNat m (Claims.scaleOf m s) q (s.layout (streamSlt q)) (s.layout (streamDlt q))) y m.rpt true ∧
    TrapsIf (.mmaStream op m y) .ordered uses false (fun s => s.words 2 = [] ∧ s.mmaFault op.toNat m true = none)
      (fun _ => ⟨13, 0, none, BitVec.ofNat 64 (op.toNat * 256 + 4), none⟩)) ∧
  ∀ d (fmt : BitVec 4) rm (lt : BitVec 6) dir rpt y q,
    let ok (s : State) : Prop := (s.words 2).head? = some q ∧ ¬ (fmt.toNat = 12 ∧ mstShift q ≠ 0) ∧ mstMc q ≠ 3 ∧ mstNc q ≤ 3 ∧
      (s.layout lt.toNat).serves (readEs fmt.toNat) ((mstBox q dir).map (·.2.2)) = true
    Claims.queues (.mst d fmt rm lt dir rpt y) [.acc 0 d] 0xAD ok (fun s => .mst d.toNat fmt rm dir (s.layout lt.toNat) q) y rpt true ∧
    Claims.queues (.mstIn d fmt rm lt dir rpt y) [.acc 0 d] 0xAD ok (fun s => .mstIn d.toNat dir (s.layout lt.toNat) q) y rpt true ∧
    TrapsIf (.mst d fmt rm lt dir rpt y) .ordered [.acc 0 d] false (fun s => s.words 2 = []) (fun _ => ⟨13, 0, none, 0xAD04, none⟩)

/-- R225, R227, R229, R231: `mrd` takes its credit and reads out an accumulator that no command owns, ACCBUSY otherwise; a raw
read-out keeps the cell's bits, one of an integer cell to an integer format shifts and clamps, and every other one converts as
`FloatMovesAndConversions` says; the waits of the unit; its status words; the capability, and remote commands. (What the rules leave open here is settled as in
log entries 62 and 66.) -/
def Obligations.MatrixReads : Prop :=
  (∀ (m : MrdArgs) y,
    CompletesIf (.mrd m y) .stall [.wV m.d] false (fun s => s.met y = true ∧ s.owners m.acc.toNat = []) (fun s =>
      let t := ((s.payFor y).raiseAcc m.acc.toNat (s.runMrd m).2).writeV m.d (s.runMrd m).1
      (t.put { t.ctx with landing := if m.d.toNat < 32 then setIn t.ctx.landing m.d.toNat else t.ctx.landing }).signal y) ∧
    (∀ c l, TrapsIf (.mrd m y) .stall [.wV m.d] false (fun s => s.met y = true ∧ s.owners m.acc.toNat = c :: l) (fun _ =>
      ⟨14, 0, none, BitVec.ofNat 64 (m.acc.toNat + 0xAD00 + c.seq.toNat * 2 ^ 16), none⟩)) ∧
    WaitsIf (.mrd m y) .stall [.wV m.d] false (fun s => s.met y = false) id (fun _ => .semMrd ⟨m, y⟩) ∧
    ∀ (s : State) j, let w := readBits m.fmt.toNat
      j < 512 / w → vecElem (s.runMrd m).1 w j = (readOut (s.kind m.acc.toNat) (nth (s.accCells m.acc.toNat)
        (if m.dir then 64 * (m.part.toNat * (512 / w) + j) + m.index.toNat else 64 * m.index.toNat + (m.part.toNat * (512 / w) + j)) 0).toNat
        m.fmt.toNat m.rm.toNat m.shift.toNat m.ev).1 % 2 ^ w) ∧
  (∀ (cell : BitVec 48) rm sh ev,
    readOut 0 cell.toNat 12 rm sh ev = (cell.toNat, 0) ∧ readOut 1 cell.toNat 12 rm sh ev = ((cell.signExtend 64).toNat, 0) ∧
    (∀ p ∈ [(8, true, 8), (9, false, 8), (10, true, 32)],
      let v := Claims.shifted ev cell.toInt sh
      readOut 1 cell.toNat p.1 rm sh ev = ((Claims.clampedTo p.2.1 p.2.2 v).1,
        if (Claims.clampedTo p.2.1 p.2.2 v).2 then 3 else if cell.toInt % 2 ^ sh ≠ 0 then 2 else 0)) ∧
    (∀ fmt < 5,
      let y := writeCode fmt rm false 0 (.fin (decide (cell.toInt < 0)) cell.toInt.natAbs (-sh))
      readOut 1 cell.toNat fmt rm sh ev = (y.1, (if y.2.of then 4 else 0) ||| if y.2.nx then 2 else 0)) ∧
    ∀ fmt, fmt < 5 ∨ 8 ≤ fmt ∧ fmt ≤ 10 →
      let x := match fa48.read cell.toNat with | .fin n m e => Machine.Num.fin n m (e - sh) | z => z
      let y := writeCode fmt rm false 0 x
      readOut 0 cell.toNat fmt rm sh ev =
        if fmt < 5 then (y.1, if x.isNan then 0 else (if y.2.of then 4 else 0) ||| if y.2.nx || y.2.nv then 2 else 0)
        else if x.isNan then (0, 8) else (y.1, if y.2.nv then 3 else if y.2.nx then 2 else 0)) ∧
  CompletesIf .mwait .stall [] false (fun s => s.mx.queue = [] ∧ s.ctx.report = none) id ∧
  WaitsIf .mwait .stall [] false (fun s => s.ctx.block = none ∧ ∃ c ∈ s.mx.queue, c.id < s.seqNo) id (fun s => .matrix s.seqNo none) ∧
  (∀ a, CompletesIf (.mwaitAcc a) .stall [.acc 1 a] false (fun s => s.owners a.toNat = [] ∧ s.ctx.report = none) id ∧
    WaitsIf (.mwaitAcc a) .stall [.acc 1 a] false (fun s => s.ctx.block = none ∧ ∃ c ∈ s.owners a.toNat, c.id < s.seqNo) id
      (fun s => .matrix s.seqNo (some a.toNat))) ∧
  (∀ d a,
    let word (s : State) : Word := BitVec.ofNat 64 ((match s.owners a.toNat with | c :: _ => c.seq.toNat | [] => s.regs.mseq.bits 0 16) * 2 ^ 48 +
      (s.owners a.toNat).length * 2 ^ 32 + (s.acfg a.toNat).bits 0 8)
    Completes (.mstat d a) .free [.wG d, .acc 1 a] false (fun s => s.writeG d (word s)) ∧
    ∀ s, s.canIssue .free [.wG d, .acc 1 a] false = true → ∃ t : State,
      exec (.mstatC d a) s = .next ((t.writeG d (word s)).completed [.wG d, .acc 1 a]) ∧
      t.ctxs = s.ctxs ∧ t.mx = s.mx ∧ (t.acfg a.toNat).bits 4 4 = 0 ∧
      (∀ b, b < 4 ∨ 8 ≤ b → (t.acfg a.toNat).bit b = (s.acfg a.toNat).bit b) ∧ ∀ k, k ≠ a.toNat → t.acfg k = s.acfg k) ∧
  (∀ a, Completes (.mcap a) .stall [.rG 1 a] false fun s =>
    { s with regs := { s.regs with mcap := BitVec.ofNat 64 ((s.readG a).bits 0 32) } }) ∧
  (∀ d a b c r x,
    AsksIf (.mcmd d a b c r x) .ordered [.wG d, .rG 1 a, .rG 2 b, .rG 3 c] false
      (fun s => s.coreOfJob ((s.readG a).bits 0 29) = true ∧ s.inFlight < Config.outstanding) id
      (fun s => ⟨0, s.sliceOf ((s.readG a).bits 0 29), .mcmd (BitVec.ofNat 64 ((s.readG a).bits 0 29)) x r (s.readG b)
        (BitVec.ofNat 32 ((s.readG c).bits 0 32)) (if (s.readG c).bit 40 then some (BitVec.ofNat 8 ((s.readG c).bits 32 8)) else none),
        false, false⟩) (fun _ => .write d) ∧
    TrapsIf (.mcmd d a b c r x) .ordered [.wG d, .rG 1 a, .rG 2 b, .rG 3 c] false
      (fun s => s.coreOfJob ((s.readG a).bits 0 29) = false) (fun _ => ⟨6, 2, none, 0, none⟩)) ∧
  ∀ x r tail cap sender note (s : State),
    (∀ i, s.closedAt s.pkg s.core = some i → exec (.mcmdAtTarget x r tail cap sender note none) s =
      .next { s with sent := s.sent ++ [.reply sender.toNat (.fail 19 0 i 0)] }) ∧
    (s.closedAt s.pkg s.core = none → s.ownOff = true → exec (.mcmdAtTarget x r tail cap sender note none) s = .next s) ∧
    (s.closedAt s.pkg s.core = none → s.ownOff = false → s.regs.mcap.bits 0 32 = 0 ∨ s.regs.mcap.bits 0 32 ≠ cap.toNat →
      exec (.mcmdAtTarget x r tail cap sender note none) s = .next { s with sent := s.sent ++ [.reply sender.toNat (.fail 15 0 0 0)] }) ∧
    ∀ w, s.closedAt s.pkg s.core = none → s.ownOff = false → s.regs.mcap.bits 0 32 ≠ 0 → s.regs.mcap.bits 0 32 = cap.toNat → s.remoteCmd x.toNat r tail.toNat = .ok w → s.mx.waiting = [] →
      s.mx.queue.length < Config.stageDepth → (s.at 0).status.bit 11 = false →
      ∃ t : State, exec (.mcmdAtTarget x r tail cap sender note none) s = .next t ∧ (∃ c, t.mx.queue = s.mx.queue ++ [c] ∧ c.what = w ∧
        c.owner = none ∧ c.note = note.map fun n => (sender, n)) ∧
        t.sent = s.sent ++ [.reply sender.toNat (.data (s.regs.mseq.bits 0 16))] ∧ t.ctxs = s.ctxs ∧ t.mem = s.mem

namespace Sys2Proof.Claims

/-- R223: the value of an element of a floating pair; an element outside a tile's shape reads as zero (R214). -/
def element (code : Nat) : Option Nat → Machine.Num
  | none => .fin false 0 0
  | some x => readCode code x

/-- R119, R223: a product with its block scales, by their bytes; the byte 0xFF makes it NaN. -/
def blockProduct (x y : Machine.Num) (a b : Option Nat) : Machine.Num :=
  if a = some 255 ∨ b = some 255 then .nan false
  else
    let e (z : Option Nat) : Int := match z with | none => 0 | some n => (n : Int) - 127
    match (x.mul y).1 with
    | .fin n m d => .fin n m (d + e a + e b)
    | z => z

/-- R223: a floating cell over groups of eight products: the exact sum of each group joins the cell with one rounding to FA48; a NaN
stays. -/
def floatCell (product : Nat → Machine.Num) (groups start : Nat) : Nat :=
  (List.range groups).foldl (fun c g =>
    let sum := (List.range 7).foldl (fun x i => (x.add 0 (product (8 * g + i + 1))).1) (product (8 * g))
    if (fa48.read c).isNan then fa48.canonical else (finishNum fa48 0 false 0 (((fa48.read c).add 0 sum).1, .none)).1) start

/-- Two elements of the scratchpad share no byte, or are the two halves of one. -/
def apart (a : Place) (aes : Nat) (b : Place) (bes : Nat) : Prop :=
  a.addr.toNat + esBytes aes ≤ b.addr.toNat ∨ b.addr.toNat + esBytes bes ≤ a.addr.toNat

def apart4 (a b : Place) (es : Nat) : Prop := apart a es b es ∨ es = 0 ∧ a.nibble % 2 ≠ b.nibble % 2 ∧ a.addr = b.addr

/-- R230: a command's status record. -/
def statusRecord (c : MxCmd) (flags : Nat) : Word :=
  BitVec.ofNat 64 (c.seq.toNat * 2 ^ 48 + c.op.toNat * 2 ^ 40 + (if c.failed then 2 ^ 39 else 0) + (c.what.acc.getD 0) * 2 ^ 36 +
    flags * 2 ^ 32 + min c.added (2 ^ 32 - 1))

/-- From `s` to `u` every element of a box that lies inside its entry, apart from the others, holds its value in the scratchpad, where
no poisoned word keeps part of it out (R167); bytes that no element of the box covers are as they were. -/
def boxWritten {α : Type} (s u : State) (es : Nat) (box : List α) (spot : α → Option Place) (v : α → Nat) : Prop :=
  cellsWf s.spad.cells = true →
  (∀ x ∈ box, ∀ p, spot x = some p → p.nibble < 2 → (4 ≤ esBytes es ∨ s.spadBad p.addr.toNat (esBytes es) = false) →
    (∀ y ∈ box, ∀ q, y ≠ x → spot y = some q → q.nibble < 2 ∧ apart4 p q es) →
    u.spadElem es p = v x % if es = 0 then 16 else 256 ^ esBytes es) ∧
  ∀ byte, (∀ x ∈ box, ∀ p, spot x = some p → ¬ (p.addr.toNat ≤ byte ∧ byte < p.addr.toNat + esBytes es)) →
    cellsGet u.spad.cells byte = cellsGet s.spad.cells byte

end Sys2Proof.Claims

/-- R37, R215, R216, R218 to R220, R223 to R225, R228, R230, R231, R234, R235, R242, R408: a command starts when it is ready, paying its semaphore, an `mma`
behind another without a gap; a started one makes its writes, and leaves the queue once its record, if it has one, has room in q6:
then the flags of its accumulator show, its signal is added and the note to a remote sender goes; a tile load takes the elements of
the tile's shape from memory, zero where the entry has none, and a tile store writes them; an integer multiply adds exact products, eight at
a time, while no sum leaves the range, and a floating one rounds each sum of eight once; a streaming multiply writes each value read
out to its destination, and leaves the accumulator; an accumulator store writes each cell read out, and its reverse takes
each element; the Bellows starts and stops a unit as its ramps allow and else streams filler. (What the rules leave open here is
settled as in log entries 66 to 68 and 70.) -/
def Obligations.MatrixRuns : Prop :=
  (∀ id (s : State),
    (s.mxReady = none → exec (.matrixCommandStart id) s = .next s) ∧
    ∀ before c l, s.mxReady = some (before, c, l) → c.id = id →
      (c.what.streams = false ∨ s.mx.active = true ∧ s.streamCycle ≤ s.units.pcyc.toNat ∧ ∃ r, c.ready = some r ∧ r.toNat < s.streamCycle) →
      ∃ t : State, exec (.matrixCommandStart id) s = .next t ∧
        (∃ d e, t.mx.queue = d ++ e :: l ∧ d.map MxCmd.id = before.map MxCmd.id ∧ e.id = id ∧ e.started = true ∧ e.what = c.what ∧
          e.failed = s.lacks (s.mxBuffers c) ∧ e.added = 0) ∧
        t.mx.streamEnd = (if c.what.streams = true ∧ s.lacks (s.mxBuffers c) = false then s.mx.streamEnd + 1250 * c.what.columns
          else s.mx.streamEnd) ∧
        t.regs.belladd.bits 0 32 = s.regs.belladd.bits 0 32 ∧
        (∀ k, t.sem k = if c.y.we ∧ k = c.y.ws.toNat ∧ k < 256 then s.sem k - c.y.wt.toNat else s.sem k) ∧ t.ctxs = s.ctxs ∧ t.mem = s.mem) ∧
  (∀ id (s : State), splitAt id [] s.mx.queue = none → exec (.matrixCommandComplete id) s = .next s) ∧
  (∀ id (s : State) before c l, splitAt id [] s.mx.queue = some (before, c, l) → c.started = true → c.ran = none →
    (c.what.streams = false ∨ ∀ b ∈ before, b.what.streams = false) →
    let r := if c.failed then (s, 0) else s.runMx c.op.toNat c.what
    ∃ t : State, exec (.matrixCommandComplete id) s = .next t ∧ t.mx.tiles = r.1.mx.tiles ∧ t.mx.accs = r.1.mx.accs ∧ t.spad = r.1.spad ∧
      t.regs.bankcnt = (if c.failed then s else r.1.countMx c.what).regs.bankcnt ∧ t.mem = s.mem ∧
      (c.rpt = true → Config.queueDepth 6 ≤ (nth s.eng.ret 2 []).length → t.mx.queue.map MxCmd.id = s.mx.queue.map MxCmd.id ∧
        t.regs.acfg = r.1.regs.acfg ∧ t.eng.ret = s.eng.ret ∧ t.sems = s.sems ∧ t.ctxs = s.ctxs ∧ t.sent = s.sent) ∧
      ((c.rpt = true → (nth s.eng.ret 2 []).length < Config.queueDepth 6) → t.mx.queue.map MxCmd.id = (before ++ l).map MxCmd.id ∧
        (∀ k < 4, t.acfg k = if c.what.acc = some k then r.1.acfg k ||| BitVec.ofNat 64 (r.2 * 16) else r.1.acfg k) ∧
        nth t.eng.ret 2 [] = nth s.eng.ret 2 [] ++ (if c.rpt then [Claims.statusRecord c r.2] else []) ∧
        (∀ k, t.sem k = min 65535 (s.sem k + (if c.y.se = true ∧ k = c.y.ss.toNat then c.y.sk.toNat else 0) +
          if c.note.any (fun n => n.1 == s.lcore && n.2.toNat == k) then 1 else 0)) ∧
        t.sent = s.sent ++ (match c.note with | some n => if n.1 = s.lcore then [] else [.semaphore n.1 n.2 1] | none => []) ∧
        (c.failed = false → t.ctxs = s.ctxs) ∧
        ∀ i g, c.failed = true → c.owner = some (i, g) → t.ctxs = (s.addFault i g ⟨c.id, true, 16, 0, 0, BitVec.ofNat 64 (c.seq.toNat + c.op.toNat * 2 ^ 16)⟩).ctxs)) ∧
  (∀ (s : State) op k l c0 c1 col j, k < 8 → j < 64 → let u := (s.runMx op (.tld k l c0 c1 col)).1
    let w := ewBits (shapeEw (s.shape k))
    let row := nth (nth u.mx.tiles k (.replicate 64 0)) j 0
    (shapeRows (s.shape k) ≤ j → row = 0) ∧
    (j < shapeRows (s.shape k) → w * shapeCols (s.shape k) ≤ 512 → ∀ x, vecElem row w x =
      if x < shapeCols (s.shape k) then
        match l.locate (if col then [c0 + j, c1 + x] else [c0 + x, c1 + j]) with
        | some p => s.spadElem l.es p % 2 ^ w
        | none => 0
      else 0) ∧
    (∀ y, y ≠ k → nth u.mx.tiles y (.replicate 64 0) = nth s.mx.tiles y (.replicate 64 0)) ∧ u.mx.accs = s.mx.accs ∧ u.spad = s.spad ∧
    u.mem = s.mem) ∧
  (∀ (s : State) op k l c0 c1 col, let u := (s.runMx op (.tst k l c0 c1 col)).1
    let tile := nth s.mx.tiles k (.replicate 64 0)
    Claims.boxWritten s u l.es (rectangle (shapeRows (s.shape k)) (shapeCols (s.shape k)))
      (fun x => l.locate (if col then [c0 + x.1, c1 + x.2] else [c0 + x.2, c1 + x.1]))
      (fun x => vecElem (nth tile x.1 0) (ewBits (shapeEw (s.shape k))) x.2) ∧
    u.mx = s.mx ∧ u.mem = s.mem) ∧
  (∀ (s : State) op k, k < 8 → nth (s.runMx op (.tzero k)).1.mx.tiles k (.replicate 64 0) = .replicate 64 0 ∧
    (∀ j, j ≠ k → nth (s.runMx op (.tzero k)).1.mx.tiles j (.replicate 64 0) = nth s.mx.tiles j (.replicate 64 0))) ∧
  (∀ (s : State) op k, k < 4 → (s.runMx op (.mzero k)).1.accCells k = .replicate 4096 0 ∧
    ∀ j, j ≠ k → (s.runMx op (.mzero k)).1.accCells j = s.accCells j) ∧
  (∀ (s : State) op p m w i j, pairOf op = some p → p.kind = 1 → m.d.toNat < 4 → i < 64 → j < 64 →
    let a (k : Nat) : Int := elemInt p.a (s.tileRow m.a.toNat p.a i k)
    let b (k : Nat) : Int := elemInt p.b (s.bColumn op m.b.toNat p.b j k)
    let start : Int := if m.clr then 0 else cellInt (nth (s.accCells m.d.toNat) (64 * i + j) 0).toNat
    let upTo (g : Nat) : Int := start + ((List.range (8 * g)).map fun k => a k * b k).sum
    let new := cellInt (nth ((s.runMx op (.mma op m w)).1.accCells m.d.toNat) (64 * i + j) 0).toNat
    (i < mmaM m.mc → j < mmaN m.nc → (∀ g ≤ p.k / 8, -(2 ^ 31) ≤ upTo g ∧ upTo g < 2 ^ 31) → new = upTo (p.k / 8)) ∧
    (mmaM m.mc ≤ i ∨ mmaN m.nc ≤ j → new = cellInt (nth (s.accCells m.d.toNat) (64 * i + j) 0).toNat)) ∧
  (∀ (s : State) op p m w i j, pairOf op = some p → m.d.toNat < 4 → i < 64 → j < 64 →
    nth ((s.runMx op (.mma op m w)).1.accCells m.d.toNat) (64 * i + j) 0 =
      if i < mmaM m.mc ∧ j < mmaN m.nc then
        BitVec.ofNat 48 (mmaCell p m.sa m.sb ((s.acfg m.d.toNat).bit 1) w (s.tileRow m.a.toNat p.a i) (s.bColumn op m.b.toNat p.b j)
          (if m.clr then 0 else (nth (s.accCells m.d.toNat) (64 * i + j) 0).toNat)).1
      else nth (s.accCells m.d.toNat) (64 * i + j) 0) ∧
  (∀ p sa sb sat (w : Word) (a b : Nat → Option Nat) start, p.kind = 0 → (mmaCell p sa sb sat w a b start).1 =
    Claims.floatCell (fun k => Claims.blockProduct (Claims.element p.a (a k)) (Claims.element p.b (b k))
      (if sa then some (w.bits (8 * (k / 32)) 8) else none) (if sb then some (w.bits (32 + 8 * (k / 32)) 8) else none)) (p.k / 8) start) ∧
  (∀ (s : State) op k fmt rm col l q, let u := (s.runMx op (.mst k fmt rm col l q)).1
    let spot (x : Nat × Nat) : Option Place := l.locate (if col then [mstC0 q + x.1, mstC1 q + x.2] else [mstC0 q + x.2, mstC1 q + x.1])
    Claims.boxWritten s u l.es (rectangle (mstM q) (mstN q)) spot (fun x =>
      (readOut (s.kind k) (nth (s.accCells k) (64 * x.1 + x.2) 0).toNat fmt.toNat rm.toNat (mstShift q) (mstEven q)).1) ∧
    u.mx = s.mx ∧ u.mem = s.mem) ∧
  (∀ (s : State) op k col l q, k < 4 → mstMc q ≠ 3 → mstNc q ≤ 3 → let u := (s.runMx op (.mstIn k col l q)).1
    (∀ i j, i < 64 → j < 64 → nth (u.accCells k) (64 * i + j) 0 =
      if i < mstM q ∧ j < mstN q then
        match l.locate (if col then [mstC0 q + i, mstC1 q + j] else [mstC0 q + j, mstC1 q + i]) with
        | some p => BitVec.ofNat 48 (s.spadElem l.es p)
        | none => nth (s.accCells k) (64 * i + j) 0
      else nth (s.accCells k) (64 * i + j) 0) ∧
    (∀ j, j ≠ k → u.accCells j = s.accCells j) ∧ u.spad = s.spad) ∧
  (∀ (s : State) op p m w q src dst, pairOf op = some p → let u := (s.runMx op (.stream op m w q src dst)).1
    let from' (x : Nat × Nat) : Option Place := src.locate [x.1, streamSc1 q + x.2]
    let spot (x : Nat × Nat) : Option Place := dst.locate [x.1, streamDc1 q + x.2]
    (∀ x ∈ rectangle p.k (mmaN m.nc), ∀ y ∈ rectangle (mmaM m.mc) (mmaN m.nc), ∀ a b, from' x = some a → spot y = some b →
      Claims.apart a src.es b dst.es) →
    Claims.boxWritten s u dst.es (rectangle (mmaM m.mc) (mmaN m.nc)) spot (fun x =>
      (readOut (s.kind m.d.toNat)
        (mmaCell p m.sa m.sb ((s.acfg m.d.toNat).bit 1) w (s.tileRow m.a.toNat p.a x.1)
          (fun k => (from' (k, x.2)).map (s.spadElem src.es))
          (if m.clr then 0 else (nth (s.accCells m.d.toNat) (64 * x.1 + x.2 % 64) 0).toNat)).1
        (streamFmt q) (streamRm q) (streamShift q) (streamEven q)).1) ∧
    u.mx = s.mx ∧ u.mem = s.mem) ∧
  ∀ a below stopping (s : State), s.dbg.clusterHalted = false → let b := s.mx.boundary + 4
    let t (u : State) : Prop := exec (.bellowsBoundary a below stopping) s = .next u ∧ u.mem = s.mem ∧ u.ctxs = s.ctxs ∧ u.mx.boundary = b
    (s.mx.active = false → allowance s.units.rampup a s.guard.capped ≤ below → ∃ u, t u ∧ u.mx.active = false ∧
      u.mx.filler = false ∧ u.mx.queue = s.mx.queue) ∧
    (∀ before c l r, s.mxReady = some (before, c, l) → c.what.streams = true → c.ready = some r → s.streamCycle ≤ b → r.toNat < b →
      (if s.mx.active then s.streamCycle ≤ r.toNat else below < allowance s.units.rampup a s.guard.capped ∧ s.streamCycle ≤ b) →
      ∃ u, t u ∧ (s.mx.active = false → u.mx.active = !s.lacks (s.mxBuffers c)) ∧
        u.mx.queue = before ++ { c with
          started := true
          failed := s.lacks (s.mxBuffers c)
          added := b - max r.toNat (s.streamCycle - 1) } :: l) ∧
    (s.mx.active = true → s.mxReady = none → s.streamCycle ≤ b →
      (stopping < allowance s.units.rampdn a s.guard.capped → ∃ u, t u ∧ u.mx.active = false ∧ u.mx.filler = false ∧
        u.regs.fillcnt = s.regs.fillcnt) ∧
      (allowance s.units.rampdn a s.guard.capped ≤ stopping → ∃ u, t u ∧ u.mx.active = true ∧ u.mx.filler = true ∧
        (s.regs.fillcnt.bits 0 32 ≠ 2 ^ 32 - 1 → u.regs.fillcnt.toNat = s.regs.fillcnt.bits 0 32 + 1))) ∧
    (b < s.streamCycle → ∃ u, t u ∧ u.mx.active = s.mx.active ∧ u.mx.filler = false ∧ u.mx.queue = s.mx.queue)

/-! ### The engines -/

namespace Sys2Proof.Claims

/-- R237, R238, R245: a copy or gather command whose entries serve, whose words are there and whose box is not too large joins its queue
and takes its words; a full queue makes it wait; SHAPE says what fails, in this order. -/
def command (i : Instr) (gather : Bool) (op : Nat) (ok : State → Prop) (n : Nat) (x : State → List Word → EngOp) (y : Sync) (rpt : Bool) :
    Prop :=
  let q := if gather then 1 else 0
  let few (s : State) : Prop := (s.words q).length < n
  let large (s : State) : Prop := 2 ^ 32 - 1 < (x s (s.words q)).size
  CompletesIf i .ordered [] false (fun s => ok s ∧ ¬ few s ∧ ¬ large s ∧ (s.eng.queueOf gather).length < Config.stageDepth)
    (fun s => (s.acceptEng gather op (x s (s.words q)) y rpt).takeWords q n) ∧
  WaitsIf i .ordered [] false (fun s => ok s ∧ ¬ few s ∧ ¬ large s ∧ Config.stageDepth ≤ (s.eng.queueOf gather).length) id (fun _ => .cmdFull q) ∧
  TrapsIf i .ordered [] false (fun s => ¬ ok s) (fun _ => ⟨13, 0, none, BitVec.ofNat 64 (op * 256 + 3), none⟩) ∧
  TrapsIf i .ordered [] false (fun s => ok s ∧ few s) (fun _ => ⟨13, 0, none, BitVec.ofNat 64 (op * 256 + 4), none⟩) ∧
  TrapsIf i .ordered [] false (fun s => ok s ∧ ¬ few s ∧ large s) (fun _ => ⟨13, 0, none, BitVec.ofNat 64 (op * 256 + 6), none⟩)

end Sys2Proof.Claims

/-- R237, R245, R247 to R253: the copy and gather commands join their queues as commands of their context; `kick` asks its target to
queue a notice; `qfence` orders what the masked queues hold before what joins them later. (What the rules leave open here is settled as in
log entry 19.) -/
def Obligations.EnginesQueue : Prop :=
  (∀ (s : State) gather op x y rpt, ∃ c, (s.acceptEng gather op x y rpt).eng.queueOf gather = s.eng.queueOf gather ++ [c] ∧ c.what = x ∧
    c.y = y ∧ c.rpt = rpt ∧ c.owner = some (s.cur, s.ctx.gen) ∧ c.root = s.ctx.root ∧ c.pl = s.ctx.pl ∧ c.started = false ∧
    c.seq.toNat = s.regs.engseq.toNat % 2 ^ 16 ∧
    (s.acceptEng gather op x y rpt).regs.engseq.toNat = (s.regs.engseq.toNat % 2 ^ 16 + 1) % 2 ^ 16 ∧
    (s.acceptEng gather op x y rpt).eng.queueOf (!gather) = s.eng.queueOf (!gather) ∧
    (s.acceptEng gather op x y rpt).ctxs = s.ctxs ∧ (s.acceptEng gather op x y rpt).mem = s.mem) ∧
  (∀ (slt dlt : BitVec 6) (rank : BitVec 4) res rpt y,
    let src (s : State) := s.layout slt.toNat
    let dst (s : State) := s.layout dlt.toNat
    let r := rank.toNat
    let k := if res then r + 1 else r
    let skip (ws : List Word) : Nat := if res then ((ws[r]?).getD 0).bits 0 40 else 0
    Claims.command (.cpy slt dlt rank res rpt y) false 0xB0 (fun s => (src s).valid = true ∧ (dst s).valid = true ∧ (src s).es = (dst s).es) k
      (fun s ws => .cpy (src s) (dst s) (ws.take r) (skip ws)) y rpt ∧
    ∀ op (fmt : BitVec 4), Claims.command (.cpyr slt dlt rank res op fmt rpt y) false 0xB1
      (fun s => (src s).valid = true ∧ (dst s).valid = true ∧ (dst s).space = 0 ∧ (src s).es = cpyrEs fmt.toNat ∧ (dst s).es = cpyrEs fmt.toNat) k
      (fun s ws => .cpyr op fmt (src s) (dst s) (ws.take r) (skip ws)) y rpt) ∧
  (∀ (slt ilt dlt : BitVec 6) res rpt y,
    let src (s : State) := s.layout slt.toNat
    let idx (s : State) := s.layout ilt.toNat
    let dst (s : State) := s.layout dlt.toNat
    let list (s : State) : Prop := (idx s).valid = true ∧ (idx s).rank = 1 ∧ (idx s).es = 3
    let k := if res then 2 else 1
    let skip (ws : List Word) : Nat := if res then ((ws[1]?).getD 0).bits 0 40 else 0
    Claims.command (.gath slt ilt dlt res rpt y) true 0xB2
      (fun s => list s ∧ ((src s).rank = 1 ∨ (src s).rank = 2) ∧ (dst s).rank = (src s).rank ∧ (src s).es = (dst s).es) k
      (fun s ws => .gath (src s) (idx s) (dst s) (ws.headD 0) (skip ws)) y rpt ∧
    Claims.command (.gathQ slt ilt res rpt y) true 0xB2 (fun s => list s ∧ (src s).rank = 1) k
      (fun s ws => .gathQ (src s) (idx s) (ws.headD 0) (skip ws)) y rpt ∧
    Claims.command (.pack slt ilt dlt rpt y) true 0xB5
      (fun s => (src s).rank = 1 ∧ (idx s).rank = 1 ∧ (dst s).rank = 1 ∧ (idx s).es = 1 ∧ (src s).es = (dst s).es) 1
      (fun s ws => .pack (src s) (idx s) (dst s) (ws.headD 0)) y rpt) ∧
  (∀ (c1 c0 : BitVec 12) (lt : BitVec 6) rpt y,
    let ok (s : State) : Prop := (s.layout lt.toNat).valid = true ∧ (s.layout lt.toNat).es = 1 ∧ (s.layout lt.toNat).stride 0 = 1
    CompletesIf (.pull c1 c0 lt rpt y) .ordered [] false (fun s => ok s ∧ s.eng.copy.length < Config.stageDepth)
      (fun s => (s.acceptEng false 0xB4 (.pull (s.layout lt.toNat) c0.toNat c1.toNat none) y rpt).takeWords 0 0) ∧
    TrapsIf (.pull c1 c0 lt rpt y) .ordered [] false (fun s => ¬ ok s) (fun _ => ⟨13, 0, none, 0xB403, none⟩)) ∧
  (∀ d a b c,
    let uses : List Use := [.wG d, .rG 1 a, .rG 2 b, .rG 3 c]
    let target (s : State) : Nat := if (s.readG a).bit 63 then s.lcore.toNat else (s.readG a).bits 0 29
    CompletesIf (.kick d a b c) .ordered uses false (fun s => (s.readG c).bits 0 24 = 0) (fun s => s.writeG d 1) ∧
    ∀ t, AsksIf (.kick d a b c) .ordered uses false
      (fun s => (s.readG c).bits 0 24 ≠ 0 ∧ s.kickSource (s.readG b) ((s.readG c).bits 0 24) = .ok t ∧ s.storesTo t.ga = false ∧
        ((s.readG a).bit 63 = true ∨ s.coreOfJob (target s) = true) ∧ s.inFlight < Config.outstanding)
      (fun s => s.install t.x)
      (fun s => ⟨s.readG b, coreHome (target s), .kick (BitVec.ofNat 64 (target s)) ⟨BitVec.ofNat 64 t.ga, BitVec.ofNat 24 ((s.readG c).bits 0 24),
        (s.readG c).bit 40, BitVec.ofNat 8 ((s.readG c).bits 32 8), s.lcore⟩, false, false⟩) (fun _ => .write d)) ∧
  ∀ (m : BitVec 4), (∀ s, s.canIssue .ordered [] false = true → ∃ t : State, exec (.qfence m) s = .next (t.completed []) ∧ t.ctxs = s.ctxs ∧
    t.mem = s.mem ∧ t.eng.copy = s.eng.copy ∧ t.mx = s.mx ∧
    (∀ q : Fin 4, m.toNat.testBit q.val = false → t.joined q.val = s.joined q.val) ∧
    ∀ q : Fin 4, m.toNat.testBit q.val = true → ∀ id, id ∈ t.joined q.val ↔ id ∈ s.joined q.val ∨
      (m.toNat.testBit 0 = true ∧ id ∈ s.eng.copy.map EngCmd.id) ∨ (m.toNat.testBit 1 = true ∧ id ∈ s.eng.gather.map EngCmd.id) ∨
      (m.toNat.testBit 2 = true ∧ id ∈ s.mx.queue.map MxCmd.id) ∨ (m.toNat.testBit 3 = true ∧ id ∈ s.eng.event.map EvCmd.id))

/-- R38, R244, R251, R252, R254 to R256: semaphores, their additions from outside, notices, and the layout table. An update leaves the
tests of its semaphore due; they then let a waiting context that passes go on, its threshold taken. -/
def Obligations.SemaphoresAndLayouts : Prop :=
  (∀ (s : State) n k, n < 256 → k < 2 ^ 16 → (s.addSem n k).sem n = min (s.sem n + k) 65535 ∧
    (∀ m, m ≠ n → (s.addSem n k).sem m = s.sem m) ∧
    (65535 < s.sem n + k → s.regs.semstat.bit 8 = false → (s.addSem n k).regs.semstat = BitVec.ofNat 64 (256 + n)) ∧
    (s.sem n + k ≤ 65535 ∨ s.regs.semstat.bit 8 = true → (s.addSem n k).regs.semstat = s.regs.semstat) ∧
    (s.semAdd n k).sems = (s.addSem n k).sems ∧ (s.semAdd n k).regs = (s.addSem n k).regs ∧ n ∈ (s.semAdd n k).dueSems ∧
    (s.semAdd n k).ctxs = s.ctxs ∧ (s.semAdd n k).mem = s.mem ∧
    (s.eng.copy = [] → s.eng.gather = [] → s.eng.event = [] → s.mx.queue = [] →
      (s.serve n).dueSems = setOut s.dueSems n ∧
      ((∀ j, (s.at j).block = none) → (s.serve n).sems = s.sems ∧ (s.serve n).ctxs = s.ctxs) ∧
      ∀ i m q, (s.at i).live = true → (s.at i).block = some ⟨.sem n m, q, []⟩ → (∀ j, j ≠ i → (s.at j).block = none) →
        (m ≤ s.sem n → ((s.serve n).at i).block = none ∧ ((s.serve n).at i).pc = (s.at i).next ∧ (s.serve n).sem n = s.sem n - m) ∧
        (s.sem n < m → (s.serve n).at i = s.at i ∧ (s.serve n).sems = s.sems))) ∧
  (∀ (n : BitVec 8) (k : BitVec 16),
    Completes (.sinc n k) .stall [] false (fun s => s.semAdd n.toNat k.toNat) ∧
    CompletesIf (.swait n k) .stall [] false (fun s => k.toNat ≤ s.sem n.toNat) (fun s => s.putSem n.toNat (s.sem n.toNat - k.toNat)) ∧
    WaitsIf (.swait n k) .stall [] false (fun s => s.sem n.toNat < k.toNat) id (fun _ => .sem n.toNat k.toNat) ∧
    (∀ d, CompletesIf (.swaitNb d n k) .stall [.wG d] false (fun s => k.toNat ≤ s.sem n.toNat)
        (fun s => (s.putSem n.toNat (s.sem n.toNat - k.toNat)).writeG d 1) ∧
      CompletesIf (.swaitNb d n k) .stall [.wG d] false (fun s => s.sem n.toNat < k.toNat) (fun s => s.writeG d 0) ∧
      Completes (.sget d n) .free [.wG d] false (fun s => s.writeG d (BitVec.ofNat 64 (s.sem n.toNat)))) ∧
    Completes (.sset n k) .stall [] false (fun s => (s.putSem n.toNat k.toNat).markDue n.toNat) ∧
    (∀ a, Completes (.ssetReg a n) .stall [.rG 1 a] false (fun s => (s.putSem n.toNat ((s.readG a).bits 0 16)).markDue n.toNat)) ∧
    (∀ s : State, (s.markDue n.toNat).sems = s.sems ∧ n.toNat ∈ (s.markDue n.toNat).dueSems) ∧
    (∀ (s : State) v, v < 2 ^ 16 → (s.putSem n.toNat v).sem n.toNat = v ∧ ∀ m, m ≠ n.toNat → (s.putSem n.toNat v).sem m = s.sem m) ∧
    ∀ (s : State) v, exec (.deviceSemaphoreAdd n v) s = .next (s.semAdd n.toNat (v.bits 0 16)) ∧
      exec (.pullAckArrival n) s = .next (s.semAdd n.toNat 1)) ∧
  (∀ n (s : State), s.closedAt s.pkg s.core = none → s.ownOff = false →
    (s.eng.kicks.length < Config.kickDepth → ∃ t : State, exec (.kickNoticeArrival n none) s = .next t ∧ t.eng.kicks = s.eng.kicks ++ [n] ∧
      t.sent = s.sent ++ [.reply n.sender.toNat (.data 1)] ∧ t.ctxs = s.ctxs ∧ t.mem = s.mem) ∧
    (Config.kickDepth ≤ s.eng.kicks.length → exec (.kickNoticeArrival n none) s =
      .next { s with sent := s.sent ++ [.reply n.sender.toNat (.data 0)] })) ∧
  (∀ a (lt : BitVec 6) s ps, s.canIssue .ordered [.rG 1 a] false = true →
    s.translateAll .load 0xBB 0 (.plain 128) (pieces 9 (s.readG a) 128) = .ok ps → (∀ p ∈ ps, Claims.own s p ∧ Claims.clean s p.ga p.n) →
    let bytes := ps.flatMap fun p => bytesOf (s.mem.read p.ga p.n) p.n
    let l : Layout := .ofFn fun i => BitVec.ofNat 64 (ofBytes ((bytes.drop (8 * i.val)).take 8))
    (l.loads = true → ∃ t : State, exec (.lyt a lt) s = .next ((t.withEng fun e => { e with layouts := upd e.layouts lt.toNat l.clean }).completed [.rG 1 a]) ∧
      Claims.accessed s t ∧ Claims.sameMemory s t) ∧
    (l.loads = false → exec (.lyt a lt) s = .next ((s.raise ⟨13, 0, none, 5, none⟩).issued s.cur [.rG 1 a]))) ∧
  ∀ d (lt : BitVec 6) (w : BitVec 4), Completes (.lytq d lt w) .free [.wG d] false fun s => s.writeG d (nth (s.layout lt.toNat) w.toNat 0)

namespace Sys2Proof.Claims

/-- R242: the element at coordinates, of an entry in the scratchpad; zero outside the entry. -/
def fetched (s : State) (l : Layout) (cs : List Nat) : Nat :=
  match l.locate cs with
  | some p => s.spadElem l.es p
  | none => 0

/-- A command between entries in the scratchpad, no word poisoned, none of its elements out of range, and none that it reads among
those it writes: it runs to its end without a fault and leaves in each element of its destination the value given; `reads` are the
entries it reads and their coordinates. -/
def transfers (s : State) (v : Via) (x : EngOp) (box : List Nat) (es : Nat) (reads : List (Layout × List Nat))
    (spot : Nat → Option Place) (value : Nat → Nat) (done : Nat) : Prop :=
  s.spad.poison = [] → cellsWf s.spad.cells = true →
  (∀ r ∈ reads, ∀ p, r.1.locate r.2 = some p → inSpad p.addr = true) →
  (∀ j ∈ box, ∀ p, spot j = some p → inSpad p.addr = true ∧ ∀ r ∈ reads, ∀ q, r.1.locate r.2 = some q → apart q r.1.es p es) →
  let r := s.engVisit v x (x.size - x.skip) x.skip x.skip
  r.fault = none ∧ r.pos = x.size ∧ r.done = done ∧ r.state.mem = s.mem ∧ r.state.ctxs = s.ctxs ∧
    boxWritten s r.state es box spot value

/-- R246: a completion record; its cause by the table of the rule. -/
def completionRecord (c : EngCmd) : Word :=
  BitVec.ofNat 64 (c.seq.toNat * 2 ^ 48 + c.op.toNat * 2 ^ 40 + c.done % 2 ^ 32 + match c.fault with
    | none => 0
    | some e => 2 ^ 39 + (([(16, 1), (7, 2), (6, 3), (8, 4), (9, 5), (17, 6), (19, 7), (18, 8)].lookup e.cause).getD 3) * 2 ^ 35)

/-- R37, R162, R239, R246, R250, R252: a command that has nothing left to do, its accesses made in `r`, leaves the queue in `t` once its
record, if it has one, has room in q4: its fault is reported imprecisely, its signal is added, PACK.KEPT gains what it wrote, and a
`pull` without a fault is acknowledged to the notice's sender. -/
def engineEnds (r t : State) (gather : Bool) (c : EngCmd) (l : List EngCmd) : Prop :=
  let ack : Option Notice := match c.what, c.fault with | .pull _ _ _ (some n), none => if n.ack then some n else none | _, _ => none
  (c.rpt = true → Config.queueDepth 4 ≤ (nth r.eng.ret 0 []).length →
    (t.eng.queueOf gather).map EngCmd.id = c.id :: l.map EngCmd.id ∧ t.eng.ret = r.eng.ret ∧ t.sems = r.sems ∧ t.ctxs = r.ctxs ∧ t.sent = r.sent) ∧
  ((c.rpt = true → (nth r.eng.ret 0 []).length < Config.queueDepth 4) →
    (t.eng.queueOf gather).map EngCmd.id = l.map EngCmd.id ∧
    nth t.eng.ret 0 [] = nth r.eng.ret 0 [] ++ (if c.rpt then [completionRecord c] else []) ∧
    (∀ k, t.sem k = min 65535 (r.sem k + (if c.y.se = true ∧ k = c.y.ss.toNat then c.y.sk.toNat else 0) +
      if ack.any (fun n => n.sender == r.lcore && n.sem.toNat == k) then 1 else 0)) ∧
    t.sent = r.sent ++ (match ack with | some n => if n.sender = r.lcore then [] else [.semaphore n.sender n.sem 1] | none => []) ∧
    t.regs.packKept = (match c.what with | .pack .. => BitVec.ofNat 64 ((r.regs.packKept.toNat + c.done) % 2 ^ 32) | _ => r.regs.packKept) ∧
    t.regs.bankcnt = (if c.beatBits = 0 then r else r.countBeats [c.beat]).regs.bankcnt ∧
    (c.fault = none → t.ctxs = r.ctxs) ∧
    ∀ e i gen, c.fault = some e → c.owner = some (i, gen) → t.ctxs = (r.addFault i gen ⟨c.id, true, e.cause, e.sub, e.faddr.getD 0,
      BitVec.ofNat 64 (c.seq.toNat + c.op.toNat * 2 ^ 16 + c.done % 2 ^ 32 * 2 ^ 32)⟩).ctxs)

/-- R239, R249: a word that `gath.q` has read goes to q5 when there is room, and its command goes on to the next index; else the engine
holds it. -/
def gathers (s u : State) (c : EngCmd) (l : List EngCmd) (x : Word) : Prop :=
  ((nth s.eng.ret 1 []).length < Config.queueDepth 5 → nth s.pumpGather.eng.ret 1 [] = nth s.eng.ret 1 [] ++ [x] ∧
    ∃ d, s.pumpGather.eng.gather = d :: l ∧ d.id = c.id ∧ d.done = c.done + 1 ∧ d.word = none) ∧
  (Config.queueDepth 5 ≤ (nth s.eng.ret 1 []).length → s.pumpGather.eng.ret = s.eng.ret ∧
    ∃ d, s.pumpGather.eng.gather = d :: l ∧ d.id = c.id ∧ d.done = c.done ∧ d.word = some x) ∧
  s.pumpGather.mem = u.mem ∧ s.pumpGather.spad = u.spad

/-- A piece's frame is where its address says, and holds no poisoned word. -/
def atHome (s : State) (p : Piece) : Prop := s.moved p.ga = p.ga ∧ s.mem.poisoned p.ga p.n = false ∧ gaSpace p.ga = 0

end Sys2Proof.Claims

/-- R37, R164, R237, R239, R242, R245, R246, R248 to R250, R252, R408: the head of a queue that is unblocked starts, paying its
semaphore; a started one makes its next elements' accesses up to the first that faults, those before it in any order, tries again an
element that its home refuses while RNRLIM allows it, counts its bank conflicts (16 consecutive words meet none), and after the last
pushes its record and leaves the queue, its signal added and its fault reported; `gath.q` pushes each word to q5, or holds it. A copy leaves the source elements in the destination's, a gather those that its
indices name, `pack` those whose mask is not zero, and `pull` the bytes of its notice; a `cpyr` updates an element at its home. (What
the rules leave open here is settled as in log entries 71, 72, 85 and 105.) -/
def Obligations.EnginesRun : Prop :=
  (∀ gather (s : State), s.eng.queueOf gather = [] →
    exec (.engineCommandStart gather) s = .next s ∧ exec (.engineCommandComplete gather) s = .next s) ∧
  (∀ gather (s : State) c l, s.eng.queueOf gather = c :: l → c.started = false → c.after = [] → s.met c.y = true →
    (∀ dst c0 c1, c.what = .pull dst c0 c1 none → s.eng.kicks ≠ []) →
    ∃ t : State, exec (.engineCommandStart gather) s = .next t ∧ t.ctxs = s.ctxs ∧ t.mem = s.mem ∧ t.spad = s.spad ∧
      (∃ d, t.eng.queueOf gather = d :: l ∧ d.started = true ∧ d.id = c.id ∧ d.failed = s.lacks d.what.buffers ∧
        ((∀ dst c0 c1, c.what ≠ .pull dst c0 c1 none) → d.what = c.what ∧ t.eng.kicks = s.eng.kicks) ∧
        ∀ dst c0 c1 n ns, c.what = .pull dst c0 c1 none → s.eng.kicks = n :: ns → d.what = .pull dst c0 c1 (some n) ∧ t.eng.kicks = ns) ∧
      ∀ k, t.sem k = if c.y.we ∧ k = c.y.ws.toNat then s.sem k - c.y.wt.toNat else s.sem k) ∧
  (∀ gather (s : State) c l x, s.eng.queueOf gather = c :: l → c.started = true → c.finished = false → c.what = x → (∀ a b w k, x ≠ .gathQ a b w k) →
    s.dbg.clusterHalted = false → (s.backsOff c = true → exec (.engineCommandComplete gather) s = .next s) ∧ (s.backsOff c = false →
    let v : Via := ⟨c.root, c.pl, c.op.toNat⟩
    let r := s.engVisit v x (min (x.size - c.pos) (Config.burst s.tick + 1)) c.pos c.done
    let tries := if r.pos = c.pos then c.tries else 0
    let fault := match r.fault with | some e => if e.cause = 18 ∧ tries < s.regs.rnrlim.bits 0 8 then none else some e | none => none
    let b := s.countElems v c (r.pos - c.pos)
    let u := r.state.countBeats b.2
    ∃ t : State, exec (.engineCommandComplete gather) s = .next t ∧ t.mem = r.state.mem ∧ t.spad = r.state.spad ∧
      (r.pos < x.size → fault = none → (∃ d, t.eng.queueOf gather = d :: l ∧ d.id = c.id ∧ d.what = x ∧ d.pos = r.pos ∧ d.done = r.done ∧
        d.started = true ∧ d.ran = false ∧ d.tries = if r.fault = none then 0 else tries + 1) ∧
        t.regs.bankcnt = u.regs.bankcnt ∧ t.ctxs = r.state.ctxs ∧ t.sems = r.state.sems ∧ t.eng.ret = s.eng.ret) ∧
      (x.size ≤ r.pos ∨ fault ≠ none →
        Claims.engineEnds u t gather { c with done := r.done, fault := fault, beat := b.1.beat, beatBits := b.1.beatBits } l))) ∧
  (∀ gather (s : State) c l, s.eng.queueOf gather = c :: l → c.started = true → c.finished = true → s.dbg.clusterHalted = false →
    ∃ t : State, exec (.engineCommandComplete gather) s = .next t ∧ t.mem = s.mem ∧ t.spad = s.spad ∧ Claims.engineEnds s t gather c l) ∧
  (∀ (s : State) c l src idx w k, s.eng.gather = c :: l → c.what = .gathQ src idx w k → c.started = true → c.finished = false →
    s.dbg.clusterHalted = false →
    (∀ x, c.word = some x → Claims.gathers s s c l x) ∧
    ∀ u x, c.word = none → s.backsOff c = false → s.gathered ⟨c.root, c.pl, c.op.toNat⟩ src idx w c.done = .ok (u, x) →
      Claims.gathers s u c l (BitVec.ofNat 64 x)) ∧
  (∀ (s : State) v src idx w j, src.space = 1 → idx.space = 1 → src.rank = 1 → s.spad.poison = [] →
    (∀ p, idx.locate [gathIc w + j] = some p → inSpad p.addr = true) →
    (∀ p, src.locate [Claims.fetched s idx [gathIc w + j]] = some p → inSpad p.addr = true) →
    s.gathered v src idx w j = .ok (s, Claims.fetched s src [Claims.fetched s idx [gathIc w + j]])) ∧
  (∀ (s : State) v x n j kept, let r := s.engVisit v x n j kept
    r.pos = (s.engRun v x n j kept).pos ∧ r.done = (s.engRun v x n j kept).done ∧ r.fault = (s.engRun v x n j kept).fault ∧
    ∃ order : List (Nat × Nat), order.Perm (s.engSteps v x n j kept) ∧
      r.state = order.foldl (fun s e => ((s.engElem v x e.1 e.2).toOption.map (·.1)).getD s) s) ∧
  (∀ (s : State) v x j kept, (s.engVisit v x 1 j kept).state = (s.engRun v x 1 j kept).state) ∧
  (∀ core ws, (ws.map bankOf).Nodup → sideExtra core ws = 0) ∧ (∀ core a, sideExtra core ((List.range 16).map (a + ·)) = 0) ∧
  (∀ (s : State) v src dst dims k, src.space = 1 → dst.space = 1 → src.es = dst.es → k ≤ boxSize dims →
    let box := List.range' k (boxSize dims - k)
    Claims.transfers s v (.cpy src dst dims k) box dst.es (box.map fun j => (src, boxSource dims j)) (fun j => dst.locate (boxDest dims j))
      (fun j => Claims.fetched s src (boxSource dims j)) (boxSize dims)) ∧
  (∀ (s : State) v src idx dst w k, src.space = 1 → idx.space = 1 → dst.space = 1 → src.es = dst.es → idx.es = 3 →
    let two : Bool := src.rank == 2
    let x : EngOp := .gath src idx dst w k
    let row (j : Nat) : Nat := if two then j / src.ext 0 else j
    let index (j : Nat) : Nat := Claims.fetched s idx [gathIc w + row j]
    let source (j : Nat) : List Nat := if two then [j % src.ext 0, index j] else [index j]
    x.size = (if two then gathCount w * src.ext 0 else gathCount w) ∧ (k ≤ x.size →
      let box := List.range' k (x.size - k)
      Claims.transfers s v x box dst.es ((box.map fun j => (idx, [gathIc w + row j])) ++ box.map fun j => (src, source j))
        (fun j => dst.locate (if two then [j % src.ext 0, gathDc w + j / src.ext 0] else [gathDc w + j]))
        (fun j => Claims.fetched s src (source j)) x.size)) ∧
  (∀ (s : State) v src mask dst w, src.space = 1 → mask.space = 1 → dst.space = 1 → src.es = dst.es → mask.es = 1 →
    let kept := (List.range (gathCount w)).filter fun k => Claims.fetched s mask [gathIc w + k] != 0
    let box := List.range kept.length
    let spot (i : Nat) : Option Place := dst.locate [gathDc w + i]
    Claims.transfers s v (.pack src mask dst w) box dst.es
      (((List.range (gathCount w)).map fun k => (mask, [gathIc w + k])) ++ kept.map fun k => (src, [gathIc w + k])) spot
      (fun i => Claims.fetched s src [gathIc w + (kept[i]?).getD 0]) (box.filter fun i => (spot i).isSome).length) ∧
  (∀ (s : State) v dst c0 c1 (n : Notice), dst.space = 1 → dst.es = 1 →
    (∀ j < n.len.toNat, let q : Piece := ⟨0, 1, n.ga.toNat + j, ⟨0, 0, 0, 0, []⟩⟩
      gaSpace q.ga = 0 ∧ s.engHome q true = none ∧ s.moved q.ga = q.ga ∧ s.mem.poison.contains (q.ga / 8) = false) →
    let box := List.range n.len.toNat
    let spot (j : Nat) : Option Place := dst.locate [c0 + j, c1]
    Claims.transfers s v (.pull dst c0 c1 (some n)) box 1 [] spot (fun j => (s.mem.byte (n.ga.toNat + j)).toNat)
      (box.filter fun j => (spot j).isSome).length) ∧
  (∀ (s : State) v src dst dims k j kept p q a b, src.space = 0 → dst.space = 0 → src.es = dst.es → 1 ≤ src.es → s.mem.wf = true →
    src.locate (boxSource dims j) = some p → dst.locate (boxDest dims j) = some q → let n := esBytes src.es
    s.engPieces v p.addr n .load = .ok [a] → ((s.installAll [a]).touchAll [a]).engPieces v q.addr n .store = .ok [b] →
    a.n = n → b.n = n → Claims.atHome s a → Claims.atHome s b → (∀ i < n, s.mem.isSealed (b.ga + i) = false) →
    ∃ u, s.engElem v (.cpy src dst dims k) j kept = .ok (u, kept + 1) ∧ u.mem.read b.ga n = s.mem.read a.ga n ∧ u.spad = s.spad ∧
      ∀ addr, ¬ (b.ga ≤ addr ∧ addr < b.ga + n) → u.mem.byte addr = s.mem.byte addr) ∧
  (∀ (s : State) v op (fmt : BitVec 4) src dst dims k j kept p q, src.space = 1 → dst.space = 0 → s.mem.wf = true → s.spad.poison = [] →
    (∀ r, src.locate (boxSource dims j) = some r → inSpad r.addr = true) → dst.locate (boxDest dims j) = some p →
    let n := esBytes (cpyrEs fmt.toNat)
    s.engPieces v p.addr n .atomic = .ok [q] → q.n = n → Claims.atHome s q → (∀ i < n, s.mem.isSealed (q.ga + i) = false) →
    ∃ u, s.engElem v (.cpyr op fmt src dst dims k) j kept = .ok (u, kept + 1) ∧ u.spad = s.spad ∧
      u.mem.read q.ga n = cpyrValue op.toNat fmt.toNat (s.mem.read q.ga n) (Claims.fetched s src (boxSource dims j)) % 256 ^ n ∧
      ∀ addr, ¬ (q.ga ≤ addr ∧ addr < q.ga + n) → u.mem.byte addr = s.mem.byte addr) ∧
  (∀ old x, (∀ f ∈ [(0, fp32), (1, fp16), (2, bf16)],
      cpyrValue 0 f.1 old x = (finishNum f.2 0 false 0 ((Format.read f.2 old).add 0 (Format.read f.2 x))).1 ∧
      cpyrValue 1 f.1 old x = (minMax f.2 false old x).1 ∧ cpyrValue 2 f.1 old x = (minMax f.2 true old x).1) ∧
    ∀ f ∈ [(10, 32, true), (11, 32, false), (12, 64, true), (13, 64, false)], old < 2 ^ f.2.1 → x < 2 ^ f.2.1 →
      let less (a b : Nat) : Prop := Claims.elem (!f.2.2) (BitVec.ofNat f.2.1 a) < Claims.elem (!f.2.2) (BitVec.ofNat f.2.1 b)
      cpyrValue 0 f.1 old x = (old + x) % 2 ^ f.2.1 ∧ (cpyrValue 1 f.1 old x = if less x old then x else old) ∧
      (cpyrValue 2 f.1 old x = if less old x then x else old) ∧ cpyrValue 3 f.1 old x = old &&& x ∧ cpyrValue 4 f.1 old x = old ||| x ∧
      cpyrValue 5 f.1 old x = old ^^^ x)

/-! ### The Drone -/

namespace Sys2Proof.Claims

/-- R284: an instruction on an object of the issuing core traps PROT precisely when the index is free, and else has its effect where
its own check passes. -/
def object (i : Instr) (cls : Machine.Class) (uses : List Use) (op : Nat) (who : State → Word) (when : State → Nat → Prop)
    (f : State → Nat → State) : Prop :=
  CompletesIf i cls uses false (fun s => dirSt (s.dir (objIndex (who s))) ≠ 0 ∧ when s (objIndex (who s)))
    (fun s => f s (objIndex (who s))) ∧
  TrapsIf i cls uses false (fun s => dirSt (s.dir (objIndex (who s))) = 0)
    (fun s => ⟨6, 4, none, BitVec.ofNat 64 (objIndex (who s) * 2 ^ 16 + op * 2 ^ 8), none⟩)

/-- The words of a block of an object of so many state words, from word `k` on, as a vector register holds them. -/
def block (s : State) (idx b k : Nat) : VWord := vecOf 32 16 fun i => if k + i < hdSw (s.hd idx 0) then s.word32 idx b (k + i) else 0

/-- R284, R285: a block goes to a vector register, and to the next one for an object of more than 16 words, which must be there. -/
def reads (i : Instr) (d : Field) (uses : List Use) (op : Nat) (who : State → Word) (when : State → Nat → Prop) (b : State → Nat) : Prop :=
  object i .free uses op who (fun s idx => when s idx ∧ hdSw (s.hd idx 0) ≤ 16) (fun s idx => s.writeV d (block s idx (b s) 0)) ∧
  object i .free uses op who (fun s idx => when s idx ∧ 16 < hdSw (s.hd idx 0) ∧ d.toNat < 31 ∧ d.toNat + 1 < 8 * s.ctx.vn)
    (fun s idx => (s.writeV d (block s idx (b s) 0)).writeV (d + 1) (block s idx (b s) 16)) ∧
  TrapsIf i .free uses false (fun s => dirSt (s.dir (objIndex (who s))) ≠ 0 ∧ when s (objIndex (who s)) ∧
      16 < hdSw (s.hd (objIndex (who s)) 0) ∧ (31 ≤ d.toNat ∨ 8 * s.ctx.vn ≤ d.toNat + 1))
    (fun _ => ⟨3, 1, none, BitVec.ofNat 64 ((d.toNat + 1) * 2 ^ 16 + op * 2 ^ 8 + 1 * 2 ^ 4), none⟩)

/-- R278 to R282: a queued event command whose checks pass joins its queue, or waits for room there. -/
def queued (i : Instr) (uses : List Use) (op : Nat) (when : State → Prop) (u : State → State) (x : State → EvOp) (y : Sync) (rpt : Bool) :
    Prop :=
  CompletesIf i .ordered uses false (fun s => when s ∧ s.eng.event.length < Config.stageDepth) (fun s => (u s).acceptEv op (x s) y rpt) ∧
  WaitsIf i .ordered uses false (fun s => when s ∧ Config.stageDepth ≤ s.eng.event.length) u (fun _ => .cmdFull 3)

/-- R269: Round(·, FP32, RNE) of the Drone's banks, with SAT 0 and no flag. -/
def bank (x : Machine.Num) : Nat := (finishNum fp32 0 false 0 (x, .none)).1

/-- The exact difference of two FP32 words, rounded once. -/
def bankLess (a b : Nat) : Nat := bank ((fp32.read a).add 0 (fp32.read b).neg).1

/-- R270: RESID as Residual() sets it: the largest of the rounded distances, or +∞ when a word is NaN. -/
def residOf (s : State) (idx : Nat) : Nat :=
  let ds := (List.range (hdSw (s.hd idx 0))).map fun i => bankLess (s.word32 idx 0 i) (s.word32 idx 1 i) % 2 ^ 31
  if ds.any (fun w => (fp32.read w).isNan) then 0x7F800000 else ds.foldl (fun a w => if bankGt w a then w else a) 0

/-- R272: an event of a fan-out entry, sent by a neuron that fired at TS. -/
def fanEvent (s : State) (idx ts i : Nat) : Ev :=
  let a := s.ownBase + slice (s.hd idx 3) 0 24 + 16 * i
  let x := s.peek a 8
  let y := s.peek (a + 8) 8
  ⟨BitVec.ofNat 41 x, BitVec.ofNat 8 (slice x 48 8), BitVec.ofNat 6 (slice x 41 6), BitVec.ofNat 41 (s.lcore.toNat * 4096 + idx), false,
    BitVec.ofNat 8 (dirGen (s.dir idx)), BitVec.ofNat 32 (ts + slice y 32 32), [BitVec.ofNat 32 y], false, 0⟩

/-- R273: an entry stands in the residual queue behind those of a larger RESID, and behind equal ones that entered before it. -/
def ranked (e : BitVec 12 × BitVec 32 × Nat) (q q' : List (BitVec 12 × BitVec 32 × Nat)) : Prop :=
  let gt (x y : BitVec 12 × BitVec 32 × Nat) : Bool := bankGt x.2.1.toNat y.2.1.toNat
  ∃ l r, q = l ++ r ∧ q' = l ++ e :: r ∧ (∀ x ∈ l, gt e x = false ∧ (gt x e = true ∨ x.2.2 ≤ e.2.2)) ∧
    ∀ y, r.head? = some y → gt e y = true ∨ (gt y e = false ∧ e.2.2 < y.2.2)

/-- The core that an identity register names. -/
def names (s : State) (w : Word) : Nat := if w.bit 63 then s.lcore.toNat else w.bits 12 29

/-- It is a core of the job. -/
def named (s : State) (w : Word) : Prop := w.bit 63 = true ∨ s.coreOfJob (w.bits 12 29) = true

end Sys2Proof.Claims

/-- R278, R279, R283 to R285, R382: what `ocfg`, `oget`, `oput` and `eslot` read and write of an object of the core; creation and deletion
at the target, with their status, and the record and directory entry that a creation writes where nothing stands in the way; a closed
cluster answers RMTDEAD; a deletion is answered once the retractions it sends have been accepted (R237). (What the rules leave open here is settled as in
log entry 19.) -/
def Obligations.DroneObjects : Prop :=
  (∀ a b,
    let uses : List Use := [.rG 1 a, .rG 2 b]
    let who (s : State) : Word := s.readG a
    let v (s : State) : Word := s.readG b
    let word (s : State) (idx n lo len x : Nat) : State := s.setHd idx n (putBits (s.hd idx n) lo len x)
    Claims.object (.ocfgLeak a b) .ordered uses 0xC2 who (fun s _ => leakBad ((v s).bits 0 32) = false)
      (fun s idx => word s idx 2 32 32 ((v s).bits 0 32)) ∧
    TrapsIf (.ocfgLeak a b) .ordered uses false (fun s => dirSt (s.dir (objIndex (who s))) ≠ 0 ∧ leakBad ((v s).bits 0 32) = true)
      (fun _ => ⟨13, 0, none, 0xC205, none⟩) ∧
    Claims.object (.ocfgTheta a b) .ordered uses 0xC2 who (fun _ _ => True) (fun s idx => word s idx 2 0 32 ((v s).bits 0 32)) ∧
    Claims.object (.ocfgUser a b) .ordered uses 0xC2 who (fun _ _ => True) (fun s idx => s.setHd idx 4 (v s).toNat) ∧
    Claims.object (.ocfgType a b) .ordered uses 0xC2 who (fun _ _ => True) (fun s idx => word s idx 0 19 6 ((v s).bits 0 6)) ∧
    let slot (s : State) (idx : Nat) : Prop := (v s).toNat < hdNs (s.hd idx 0)
    Claims.object (.eslotFree a b) .ordered uses 0xC4 who slot
      (fun s idx => ((s.subtractSlot idx (v s).toNat).setTag idx (v s).toNat 0).residual idx) ∧
    TrapsIf (.eslotFree a b) .ordered uses false (fun s => dirSt (s.dir (objIndex (who s))) ≠ 0 ∧ ¬ slot s (objIndex (who s)))
      (fun s => ⟨6, 4, none, BitVec.ofNat 64 (objIndex (who s) * 2 ^ 16 + 0xC400), none⟩) ∧
    ∀ d, Claims.object (.eslotTag d a b) .free (.wG d :: uses) 0xC4 who slot
        (fun s idx => s.writeG d (BitVec.ofNat 64 (s.tagOf idx (v s).toNat))) ∧
      Claims.reads (.eslot d a b) d (.wV d :: uses) 0xC4 who slot (fun s => 3 + (v s).toNat)) ∧
  (∀ d a (w : BitVec 5) (n : BitVec 3),
    let who (s : State) : Word := s.readG a
    Claims.reads (.oget d a) d [.wV d, .rG 1 a] 0xC3 who (fun _ _ => True) (fun _ => 0) ∧
    Claims.reads (.ogetRef d a) d [.wV d, .rG 1 a] 0xC3 who (fun _ _ => True) (fun _ => 1) ∧
    Claims.reads (.ogetSh d a) d [.wV d, .rG 1 a] 0xC3 who (fun _ _ => True) (fun _ => 2) ∧
    Claims.object (.ogetW d a w) .free [.wF d, .rG 1 a] 0xC3 who (fun _ _ => True)
      (fun s idx => s.writeF d (BitVec.ofNat 64 (if w.toNat < hdSw (s.hd idx 0) then s.word32 idx 0 w.toNat else 0))) ∧
    Claims.object (.ogetHd d a n) .free [.wG d, .rG 1 a] 0xC3 who (fun _ _ => True)
      (fun s idx => s.writeG d (BitVec.ofNat 64 (s.hd idx n.toNat))) ∧
    Claims.object (.oput d a) .ordered [.rV 0 d, .rG 1 a] 0xC3 who
      (fun s idx => hdSw (s.hd idx 0) ≤ 16 ∨ (d.toNat < 31 ∧ d.toNat + 1 < 8 * s.ctx.vn))
      (fun s idx => (s.setBlock idx 0 (hdSw (s.hd idx 0)) fun i =>
        if i < 16 then vecElem (s.readV d) 32 i else vecElem (nth s.ctx.v (d.toNat + 1) 0) 32 (i - 16)).residual idx) ∧
    Claims.object (.oputW d a w) .ordered [.rF 0 d, .rG 1 a] 0xC3 who (fun _ _ => True)
      (fun s idx => (if w.toNat < hdSw (s.hd idx 0) then s.setWord32 idx 0 w.toNat ((s.readF d).bits 0 32) else s).residual idx)) ∧
  (∀ (idx : BitVec 12) (off : BitVec 24) cfg sender (s : State),
    let r := s.create idx.toNat off.toNat cfg
    let gen := dirGen (s.dir idx.toNat)
    (∀ i, s.closedAt s.pkg s.core = some i → exec (.onewAtTarget idx off cfg sender none) s =
      .next { s with sent := s.sent ++ [.reply sender.toNat (.fail 19 0 i 0)] }) ∧
    (s.closedAt s.pkg s.core = none → s.ownOff = true → exec (.onewAtTarget idx off cfg sender none) s = .next s) ∧
    (s.closedAt s.pkg s.core = none → s.ownOff = false →
      exec (.onewAtTarget idx off cfg sender none) s = .next { r.1 with sent := r.1.sent ++ [.reply sender.toNat (.data r.2)] }) ∧
    (dirSt (s.dir idx.toNat) ≠ 0 → r = (s, 2 ^ 56 + gen)) ∧
    (dirSt (s.dir idx.toNat) = 0 → r.2 = gen ∧ r.1.ctxs = s.ctxs ∧ r.1.drone = s.drone ∧ r.1.regs = s.regs ∧
      let n := recordSize (cfg.bits 8 5) (cfg.bits 13 6)
      let a := s.ownBase + off.toNat
      let d := s.dirAddr idx.toNat
      s.mem.wf = true → s.migrations = [] → off.toNat % 32 = 0 → off.toNat + n ≤ 2 ^ 24 → (d + 8 ≤ a ∨ a + n ≤ d) →
      (∀ addr, (a ≤ addr ∧ addr < a + n) ∨ (d ≤ addr ∧ addr < d + 8) → s.mem.isSealed addr = false ∧ s.mem.poison.contains (addr / 8) = false) →
      r.1.dir idx.toNat = gen * 2 ^ 56 + 2 ^ 54 + off.toNat ∧
      (∀ k, 8 * k + 8 ≤ n → r.1.peek (a + 8 * k) 8 =
        if k = 0 then (if s.regs.esnap.bit 40 then s.regs.esnap.bits 32 8 * 2 ^ 40 + 2 * 2 ^ 38 else 0) + 2 ^ 37 + cfg.bits 8 5 * 2 ^ 31 +
          cfg.bits 13 6 * 2 ^ 25 + cfg.bits 2 6 * 2 ^ 19 + cfg.bits 0 2 * 2 ^ 17
        else if k = 1 then s.regs.etime.bits 0 32 * 2 ^ 32 else if k = 2 then 0x7F800000 else 0) ∧
      ∀ addr, ¬ (a ≤ addr ∧ addr < a + n) → ¬ (d ≤ addr ∧ addr < d + 8) → r.1.mem.byte addr = s.mem.byte addr)) ∧
  ∀ (idx : BitVec 12) sender (s : State),
    let r := s.delete idx.toNat
    (∀ i, s.closedAt s.pkg s.core = some i → exec (.odelAtTarget idx sender none) s =
      .next { s with sent := s.sent ++ [.reply sender.toNat (.fail 19 0 i 0)] }) ∧
    (s.closedAt s.pkg s.core = none → s.ownOff = true → exec (.odelAtTarget idx sender none) s = .next s) ∧
    (s.closedAt s.pkg s.core = none → s.ownOff = false → r.1.seqNo = s.seqNo →
      exec (.odelAtTarget idx sender none) s = .next { r.1 with sent := r.1.sent ++ [.reply sender.toNat (.data r.2)] }) ∧
    (s.closedAt s.pkg s.core = none → s.ownOff = false → s.seqNo < r.1.seqNo → exec (.odelAtTarget idx sender none) s = .next { r.1 with
      owed := r.1.owed ++ [⟨sender.toNat, (List.range (r.1.seqNo - s.seqNo)).map (s.seqNo + ·), .data r.2⟩] }) ∧
    (∀ m ∈ r.1.net, m ∈ s.net ∨ (s.seqNo ≤ m.id ∧ m.id < r.1.seqNo)) ∧
    (dirSt (s.dir idx.toNat) ≠ 1 → r = (s, 2 * 2 ^ 56 + dirGen (s.dir idx.toNat))) ∧
    (dirSt (s.dir idx.toNat) = 1 → r.2 = (dirGen (s.dir idx.toNat) + 1) % 256 ∧ r.1.ctxs = s.ctxs ∧ r.1.regs = s.regs)

namespace Sys2Proof.Claims

/-- R277 to R279, R281, R282: the queued commands and their checks. -/
def queuedCommands : Prop :=
  (∀ d (b c : BitVec 6) rpt y t,
    let who (s : State) : Word := s.readG d
    let cfg (s : State) : Word := s.readG c
    let uses : List Use := [.rG 0 d, .rG 2 b, .rG 3 c]
    let legal (s : State) : Prop := (cfg s).bits 0 2 ≠ 3 ∧ 1 ≤ (cfg s).bits 8 5 ∧ (cfg s).bits 8 5 ≤ 28 ∧
      ((cfg s).bits 0 2 = 2 → (cfg s).bits 8 5 = 1 ∧ (cfg s).bits 13 6 = 0)
    Claims.queued (.onew d b c rpt y) uses 0xC0 (fun s => Claims.named s (who s) ∧ legal s ∧
        s.translate s.cur (s.readG b) 1 .store 0xC0 0 = .ok t ∧ t.ga % 32 = 0 ∧
        inSlice (s.sliceOf (Claims.names s (who s))) t.ga (recordSize ((cfg s).bits 8 5) ((cfg s).bits 13 6)) = true)
      (fun s => s.install t.x)
      (fun s => .onew (BitVec.ofNat 64 (Claims.names s (who s))) (BitVec.ofNat 12 ((who s).bits 0 12)) (BitVec.ofNat 24 (gaOffset t.ga)) (cfg s))
      y rpt ∧
    TrapsIf (.onew d b c rpt y) .ordered uses false (fun s => ¬ Claims.named s (who s)) (fun _ => ⟨6, 2, none, 0xC000, none⟩) ∧
    TrapsIf (.onew d b c rpt y) .ordered uses false (fun s => Claims.named s (who s) ∧ ¬ legal s) (fun _ => ⟨13, 0, none, 0xC005, none⟩) ∧
    Claims.queued (.efan d b c y) uses 0xC8 (fun s => (cfg s).toNat ≤ 65535 ∧ s.translate s.cur (s.readG b) 1 .load 0xC8 0 = .ok t ∧
        t.ga % 16 = 0 ∧ inSlice s.ownBase t.ga (16 * (cfg s).toNat) = true ∧ dirSt (s.dir ((who s).bits 0 12)) ≠ 0)
      (fun s => s.install t.x) (fun s => .efan (BitVec.ofNat 12 ((who s).bits 0 12)) (gaOffset t.ga) (cfg s).toNat) y false ∧
    TrapsIf (.efan d b c y) .ordered uses false (fun s => 65535 < (cfg s).toNat) (fun _ => ⟨13, 0, none, 0xC805, none⟩) ∧
    Claims.queued (.odel d rpt y) [.rG 0 d] 0xC1 (fun s => Claims.named s (who s)) id
      (fun s => .odel (BitVec.ofNat 64 (Claims.names s (who s))) (BitVec.ofNat 12 ((who s).bits 0 12))) y rpt ∧
    ∀ cut cur, Claims.queued (.esread d b cut cur y) [.rG 0 d, .rG 2 b] 0xCC (fun s => Claims.named s (who s)) id
      (fun s => .esread (BitVec.ofNat 64 (Claims.names s (who s))) (BitVec.ofNat 12 ((who s).bits 0 12))
        (min (s.readG b).toNat (4096 - (who s).bits 0 12)) cut cur) y false)

/-- R280: `esend` and `esendv`. -/
def eventsSent : Prop :=
  (∀ d (b c : BitVec 6) (n : BitVec 5) y,
    let who (s : State) : Word := s.readG d
    let h (s : State) : Word := s.readG b
    let sends (i : Instr) (uses : List Use) (op : Nat) (when : State → Prop) (words : State → List (BitVec 32)) : Prop :=
      Claims.queued i uses op (fun s => Claims.named s (who s) ∧ when s) id (fun s => .esend (BitVec.ofNat 64 (Claims.names s (who s)))
        ⟨BitVec.ofNat 41 (Claims.names s (who s) * 4096 + (who s).bits 0 12), BitVec.ofNat 8 ((h s).bits 24 8), BitVec.ofNat 6 ((h s).bits 16 6),
          BitVec.ofNat 41 (s.lcore.toNat * 4096 + if s.ctx.hobj.bit 40 then s.ctx.hobj.bits 0 12 else 0), !s.ctx.hobj.bit 40,
          if s.ctx.hobj.bit 40 then BitVec.ofNat 8 (s.ctx.hobj.bits 32 8) else 0,
          BitVec.ofNat 32 ((h s).bits 32 32 + if (h s).bit 15 then s.regs.etime.bits 0 32 else 0), words s, false, 0⟩) y false
    sends (.esend d b c y) [.rG 0 d, .rG 2 b, .rF 3 c] 0xC5 (fun _ => True) (fun s => [BitVec.ofNat 32 (s.readF c).toNat]) ∧
    sends (.esendv d b c n y) [.rG 0 d, .rG 2 b, .rV 3 c] 0xC6
      (fun s => n.toNat < 16 ∨ (c.toNat < 31 ∧ c.toNat + 1 < 8 * s.ctx.vn))
      (fun s => (List.range (n.toNat + 1)).map fun i => BitVec.ofNat 32
        (if i < 16 then vecElem (s.readV c) 32 i else vecElem (nth s.ctx.v (c.toNat + 1) 0) 32 (i - 16))))

/-- R286: `edamp`, the blend of an element in two roundings, and BETA. -/
def damping : Prop :=
  (∀ d a b c (fc z : Bool) (k : BitVec 3),
    Completes (.edamp d a b c fc z k) .free ([.wV d, .rV 1 a, .rV 2 b] ++ if fc then [.rF 3 c] else []) false fun s =>
      let beta := if fc then (s.readF c).bits 0 32 else s.beta
      let one (i : Nat) := dampOne s.ctx.sat beta (vecElem (s.readV a) 32 i) (vecElem (s.readV b) 32 i)
      (s.mergeV d 32 (s.active k) z fun i => (one i).1).flag (flagsOf 16 (s.active k) fun i => (one i).2)) ∧
  (∀ sat beta a b,
    let round (x : Machine.Num) : Nat × Flags := finishNum fp32 0 sat 0 (x, .none)
    let num (x : Nat) : Machine.Num := fp32.read x
    let d := round ((((Machine.Num.fin false 1 0).add 0 (num beta).neg).1.mul ((num b).add 0 (num a).neg).1).1)
    let y := round ((num a).add 0 (num d.1)).1
    (dampOne sat beta a b).1 = y.1 ∧
    ((∀ x ∈ [a, b, beta, d.1], ∃ n m e, num x = .fin n m e) → (dampOne sat beta a b).2 = d.2.or y.2)) ∧
  (∀ s : State,
    let h := s.ctx.hobj
    let d := s.dir (h.bits 0 12)
    let runs := dirQ d = 3 ∧ (dirSt d = 1 ∧ dirGen d = h.bits 32 8 ∨ dirSt d = 2 ∧ dirGen d = (h.bits 32 8 + 1) % 256)
    (h.bit 40 = true → runs → s.beta = (s.handler (hdType (s.hd (h.bits 0 12) 0))).damp.toNat) ∧
    (h.bit 40 = false ∨ ¬ runs → s.beta = 0))

/-- R287, R288: NOW and the cut. -/
def timeAndCuts : Prop :=
  (∀ d a b,
    let at' (s : State) (t : Nat) : State := { s with regs := { s.regs with etime := BitVec.ofNat 64 t } }
    let past (x y : Nat) : Prop := 1 ≤ (y + 2 ^ 32 - x) % 2 ^ 32 ∧ (y + 2 ^ 32 - x) % 2 ^ 32 < 2 ^ 31
    let now (s : State) : Nat := s.regs.etime.bits 0 32
    let v (s : State) : Nat := (s.readG a).bits 0 32
    Completes (.etick d a) .ordered [.wG d, .rG 1 a] false (fun s =>
      (at' s ((now s + v s) % 2 ^ 32)).writeG d (BitVec.ofNat 64 ((now s + v s) % 2 ^ 32))) ∧
    CompletesIf (.etickSet d a) .ordered [.wG d, .rG 1 a] false (fun s => past (v s) (now s)) (fun s => s.writeG d (BitVec.ofNat 64 (now s))) ∧
    CompletesIf (.etickSet d a) .ordered [.wG d, .rG 1 a] false (fun s => ¬ past (v s) (now s))
      (fun s => (at' s (v s)).writeG d (BitVec.ofNat 64 (v s))) ∧
    Completes (.enow d) .free [.wG d] false (fun s => s.writeG d (BitVec.ofNat 64 (now s))) ∧
    CompletesIf (.esnap d a b) .ordered [.wG d, .rG 1 a, .rG 2 b] false (fun s => past (now s) (v s)) (fun s =>
      ({ s with regs := { s.regs with esnap := BitVec.ofNat 64 (2 ^ 40 + (s.readG b).bits 0 8 * 2 ^ 32 + v s) }
                drone := { s.drone with snaplate := 0 } } : State).writeG d 1) ∧
    CompletesIf (.esnap d a b) .ordered [.wG d, .rG 1 a, .rG 2 b] false (fun s => ¬ past (now s) (v s)) (fun s => s.writeG d 0) ∧
    Completes (.esnapClose d) .ordered [.wG d] false (fun s =>
      ({ s with regs := { s.regs with esnap := s.regs.esnap.setBits 40 1 0 } } : State).writeG d (if s.regs.esnap.bit 40 then 1 else 0)))

/-- R290: the convergence values. -/
def convergence : Prop :=
  (∀ d,
    let reads (i : Instr) (f : State → Word) : Prop := Completes i .free [.wG d] false fun s => s.writeG d (f s)
    reads (.cvqUn d) (fun s => BitVec.ofNat 64 ((List.range 4096).countP fun i => dirQ (s.dir i) != 0)) ∧
    reads (.cvqRes d) (fun s => BitVec.ofNat 64 s.largestResidual) ∧ reads (.cvqLate d) (·.drone.late) ∧ reads (.cvqStale d) (·.drone.stale) ∧
    reads (.cvqDrop d) (·.drone.drop) ∧ reads (.cvqPend d) (fun s => BitVec.ofNat 64 s.drone.pending.length) ∧
    reads (.cvqSent d) (·.drone.sent) ∧ reads (.cvqRecv d) (·.drone.received) ∧ reads (.cvqSlate d) (·.drone.snaplate) ∧
    (∀ s : State, ((∀ i < 4096, dirQ (s.dir i) = 0) → s.largestResidual = 0) ∧
      ∀ j < 4096, dirQ (s.dir j) ≠ 0 → ∃ i < 4096, dirQ (s.dir i) ≠ 0 ∧ s.largestResidual = s.resid i) ∧
    let clears (i : Instr) (f : Drone → Word) (g : Drone → Drone) : Prop :=
      Completes i .free [.wG d] false fun s => (s.withDrone g).writeG d (f s.drone)
    clears (.cvqLateC d) (·.late) (fun x => { x with late := 0 }) ∧ clears (.cvqStaleC d) (·.stale) (fun x => { x with stale := 0 }) ∧
    clears (.cvqDropC d) (·.drop) (fun x => { x with drop := 0 }) ∧ clears (.cvqSlateC d) (·.snaplate) (fun x => { x with snaplate := 0 }))

/-- R291: `hnd`. -/
def handlersSet : Prop :=
  (∀ a b c (t : BitVec 6),
    let uses : List Use := [.rG 1 a, .rG 2 b, .rF 3 c]
    let cfg (s : State) : Word := s.readG b
    let bad (s : State) : Prop := (cfg s).bits 0 3 = 0 ∨ 4 < (cfg s).bits 0 3 ∨ 4 < (cfg s).bits 4 3 ∨ (cfg s).bits 12 2 = 3
    let puts (s : State) (h : Handler) : State := s.withDrone fun d => { d with handlers := upd d.handlers t.toNat h }
    CompletesIf (.hnd a b c t) .ordered uses false (fun s => s.readG a = 0) (fun s => puts s { s.handler t.toNat with valid := false }) ∧
    CompletesIf (.hnd a b c t) .ordered uses false (fun s => s.readG a ≠ 0 ∧ ¬ bad s) (fun s => puts s
      ⟨true, s.readG a, (cfg s).bits 0 3, (cfg s).bits 4 3, BitVec.ofNat 2 ((cfg s).bits 8 2), (cfg s).bits 12 2,
        BitVec.ofNat 32 ((s.readF c).bits 0 32), BitVec.ofNat 32 ((s.readF c).bits 32 32), s.ctx.pl⟩) ∧
    TrapsIf (.hnd a b c t) .ordered uses false (fun s => s.readG a ≠ 0 ∧ bad s) (fun _ => ⟨13, 0, none, 0xCE05, none⟩))

/-- R293: `ehold` and its forms. -/
def deliveryHeld : Prop :=
  ∀ d,
    CompletesIf (.ehold d) .ordered [.wG d] false (fun s => s.regs.etcfg.bit 16 = true ∧ s.writingBack = false) (fun s => s.writeG d 1) ∧
    WaitsIf (.ehold d) .ordered [.wG d] false (fun s => s.regs.etcfg.bit 16 = false ∨ s.writingBack = true)
      (fun s => { s with regs := { s.regs with etcfg := putBit s.regs.etcfg 16 true } }) (fun s => .writeBack d (s.regs.etcfg.bit 16)) ∧
    CompletesIf (.eholdRel d) .ordered [.wG d] false (fun s => s.regs.etcfg.bit 16 = true) (fun s =>
      ({ s with regs := { s.regs with etcfg := putBit s.regs.etcfg 16 false } } : State).restoreQueue.writeG d 1) ∧
    CompletesIf (.eholdRel d) .ordered [.wG d] false (fun s => s.regs.etcfg.bit 16 = false) (fun s => s.writeG d 0) ∧
    Completes (.eholdQ d) .free [.wG d] false (fun s => s.writeG d (if s.regs.etcfg.bit 16 then 1 else 0))

end Sys2Proof.Claims

/-- R277 to R282, R286 to R288, R290, R291, R293: the event commands join the event queue; `edamp`; time, cuts, counters, handlers and
the holding of delivery. (What the rules leave open here is settled as in
log entries 51 and 52.) -/
def Obligations.DroneInstructions : Prop :=
  Claims.queuedCommands ∧ Claims.eventsSent ∧ Claims.damping ∧ Claims.timeAndCuts ∧ Claims.convergence ∧ Claims.handlersSet ∧
  Claims.deliveryHeld
namespace Sys2Proof.Claims

/-- R267, R268: acceptance. -/
def eventsAccepted : Prop :=
  (∀ e (s : State), let c := e.src.toNat / 4096
    (∀ i, s.closedAt s.pkg s.core = some i → exec (.eventAccept e none) s = .next { s with sent := s.sent ++ [.reply c (.fail 19 0 i 0)] }) ∧
    (s.closedAt s.pkg s.core = none → s.ownOff = true → exec (.eventAccept e none) s = .next s) ∧
    (s.closedAt s.pkg s.core = none → s.ownOff = false → s.drone.pending.length < pendingDepth → ∃ p : PendingEv, p.ev = e ∧
      exec (.eventAccept e none) s = .next { s.withDrone fun d => { d with
          pending := d.pending ++ [p], seq := d.seq + 1, received := BitVec.ofNat 64 ((d.received.toNat + 1) % 2 ^ 32)
          late := if p.late then BitVec.ofNat 64 ((d.late.toNat + 1) % 2 ^ 32) else d.late }
        with
          sent := s.sent ++ (if s.evRnrs.contains e then [.notice c] else []) ++ [.reply c (.data 0)]
          evRnrs := s.evRnrs.erase e } ∧
      (1 ≤ (s.now + 2 ^ 32 - e.ts.toNat) % 2 ^ 32 ∧ (s.now + 2 ^ 32 - e.ts.toNat) % 2 ^ 32 < 2 ^ 31 → p.late = true) ∧
      ((e.ts.toNat + 2 ^ 32 - s.now) % 2 ^ 32 < 2 ^ 31 → p.late = false)) ∧
    (s.closedAt s.pkg s.core = none → s.ownOff = false → pendingDepth ≤ s.drone.pending.length →
      exec (.eventAccept e none) s = .next { s with
        sent := s.sent ++ [.rnr c]
        evRnrs := if s.evRnrs.contains e then s.evRnrs else s.evRnrs ++ [e] }))

/-- R268: delivery, in its order. -/
def eventsDelivered : Prop :=
  (∀ s : State, (s.held = true ∨ s.dbg.clusterHalted = true ∨ s.nextDue = none → exec .eventDelivery s = .next s) ∧
    ∀ p, s.nextDue = some p →
      (s.held = false → s.dbg.clusterHalted = false → exec .eventDelivery s =
        .next ((s.withDrone fun d => { d with pending := d.pending.filter (·.seq != p.seq) }).integrate p.ev)) ∧
      p ∈ s.drone.pending ∧ s.due p = true ∧
      (∀ q ∈ s.drone.pending, q.late = true → p.late = true ∧ p.seq ≤ q.seq) ∧
      ∀ q ∈ s.drone.pending, s.due q = true → p.late = false →
        let age (e : PendingEv) : Nat := (s.now + 2 ^ 32 - e.ev.ts.toNat) % 2 ^ 32
        age q ≤ age p ∧ (age q = age p → p.seq ≤ q.seq))

/-- R269 to R272: what is dropped, or stale. -/
def eventsDropped : Prop :=
  (∀ (s : State) e,
    let idx := e.dest.toNat % 4096
    let h := s.hd idx 0
    (dirSt (s.dir idx) ≠ 1 ∨ dirGen (s.dir idx) ≠ e.dgen.toNat → s.integrate e = s.countStale) ∧
    (hdNs h ≤ e.slot.toNat ∨ e.payload.length ≠ hdSw h → s.slotEvent idx e = s.countDrop) ∧
    (hdKind h = 2 ∨ hdNs h ≤ e.slot.toNat → s.retraction idx e = s.countDrop) ∧
    (hdKind h ≠ 2 → e.slot.toNat < hdNs h → slice (s.tagOf idx e.slot.toNat) 62 2 ≠ 1 ∨ slice (s.tagOf idx e.slot.toNat) 54 8 ≠ e.sgen.toNat →
      s.retraction idx e = s.countStale) ∧
    (e.payload.length ≠ 1 → s.neuronEvent idx e = s.countDrop) ∧
    s.countDrop = (s.withDrone fun d => { d with drop := BitVec.ofNat 64 ((d.drop.toNat + 1) % 2 ^ 32) }) ∧
    s.countStale = s.withDrone fun d => { d with stale := BitVec.ofNat 64 ((d.stale.toNat + 1) % 2 ^ 32) })

/-- R269, R275: the shadow of an open cut, and the steps of an integration. -/
def shadowsKept : Prop :=
  (∀ (s : State) e,
    let idx := e.dest.toNat % 4096
    let ts := e.ts.toNat
    let before (a b : Nat) : Prop := 1 ≤ (b + 2 ^ 32 - a % 2 ^ 32) % 2 ^ 32 ∧ (b + 2 ^ 32 - a % 2 ^ 32) % 2 ^ 32 < 2 ^ 31
    let cutOpen := s.regs.esnap.bit 40 = true
    let cutTime := s.regs.esnap.bits 0 32
    let ours := slice (s.hd idx 0) 40 8 = s.regs.esnap.bits 32 8
    let h := s.hd idx 0
    let st := slice h 38 2
    (cutOpen → ¬ before ts cutTime → ¬ (ours ∧ st ≠ 0) → ∃ u : State,
      u = s.setBlock idx 2 (8 * ((hdSw h + 7) / 8)) (fun i => s.word32 idx 0 i) ∧
      s.shadow idx ts = (u.setHd idx 5 (putBits (u.hd idx 5) 32 32 (slice (s.hd idx 1) 32 32))).setHd idx 0
        (putBits (putBits h 40 8 (s.regs.esnap.bits 32 8)) 38 2 1)) ∧
    (cutOpen → before ts cutTime → ours → st = 1 →
      s.shadow idx ts = s.withDrone fun d => { d with snaplate := BitVec.ofNat 64 ((d.snaplate.toNat + 1) % 2 ^ 32) }) ∧
    (¬ cutOpen ∨ (¬ before ts cutTime ∧ ours ∧ st ≠ 0) ∨ (before ts cutTime ∧ ¬ (ours ∧ st = 1)) → s.shadow idx ts = s) ∧
    (dirSt (s.dir idx) = 1 → dirGen (s.dir idx) = e.dgen.toNat →
      let t := s.shadow idx ts
      let u := if e.ret then t.retraction idx e else if hdKind (t.hd idx 0) = 2 then t.neuronEvent idx e else t.slotEvent idx e
      (before (slice (u.hd idx 1) 32 32) ts → s.integrate e = u.setHd idx 1 (putBits (u.hd idx 1) 32 32 ts)) ∧
      (¬ before (slice (u.hd idx 1) 32 32) ts → s.integrate e = u)))

/-- R270, R271: slot events, retractions and Residual(). -/
def slotsIntegrated : Prop :=
  (∀ (s : State) (idx : Nat) e,
    let h := s.hd idx 0
    let j := e.slot.toNat
    let tag := s.tagOf idx j
    let same : Prop := slice tag 0 41 = e.src.toNat ∧ slice tag 41 1 = e.n.toNat
    let st := slice tag 62 2
    let fits : Prop := j < hdNs h ∧ e.payload.length = hdSw h
    (fits → st = 1 → ¬ same → s.slotEvent idx e = s.countDrop) ∧
    (fits → st = 1 ∨ st = 2 → same → slice tag 54 8 ≠ e.sgen.toNat → s.slotEvent idx e = s.countStale) ∧
    (fits → (st = 1 → same ∧ slice tag 54 8 = e.sgen.toNat) → (st = 2 → same → slice tag 54 8 = e.sgen.toNat) →
      let u := s.setTag idx j (2 ^ 62 + e.sgen.toNat * 2 ^ 54 + e.n.toNat * 2 ^ 41 + e.src.toNat)
      let p (i : Nat) : Nat := ((e.payload[i]?).getD 0).toNat
      s.slotEvent idx e = ((u.setBlock idx 0 (hdSw h) fun i => Claims.bank ((((fp32.read (u.word32 idx 0 i)).add 0 (fp32.read (p i))).1).add 0
        (fp32.read (u.word32 idx (3 + j) i)).neg).1).setBlock idx (3 + j) (hdSw h) p).residual idx) ∧
    (s.subtractSlot idx j = (s.setBlock idx 0 (hdSw h) fun i => Claims.bankLess (s.word32 idx 0 i) (s.word32 idx (3 + j) i)).setBlock idx (3 + j)
      (hdSw h) fun _ => 0) ∧
    (hdKind h ≠ 2 → j < hdNs h → st = 1 → same → slice tag 54 8 = e.sgen.toNat → s.retraction idx e =
      ((s.subtractSlot idx j).setTag idx j (2 ^ 63 + e.rgen.toNat * 2 ^ 54 + e.n.toNat * 2 ^ 41 + e.src.toNat)).residual idx) ∧
    let r := Claims.residOf s idx
    let u := s.setResid idx r
    (dirQ (u.dir idx) = 0 → bankGt r (if (s.handler (hdType h)).valid then (s.handler (hdType h)).thr.toNat else 0x7F800000) = true →
      s.residual idx = u.join idx) ∧
    (dirQ (u.dir idx) = 0 → bankGt r (if (s.handler (hdType h)).valid then (s.handler (hdType h)).thr.toNat else 0x7F800000) = false →
      s.residual idx = u) ∧
    (dirQ (u.dir idx) = 3 → s.residual idx = u) ∧
    (dirQ (u.dir idx) = 1 ∨ dirQ (u.dir idx) = 2 → s.residual idx = u.replace idx))

/-- R272: neuron events and their leak. -/
def neuronsIntegrated : Prop :=
  (∀ (s : State) (idx : Nat) e w, e.payload = [w] →
    let last := slice (s.hd idx 1) 32 32
    let delta := (e.ts.toNat + 2 ^ 32 - last) % 2 ^ 32
    let old := s.word32 idx 0 0
    let leaked := if 1 ≤ delta ∧ delta < 2 ^ 31 then leakOf old (slice (s.hd idx 2) 32 32) delta else old
    let v := Claims.bank ((fp32.read leaked).add 0 (fp32.read w.toNat)).1
    (bankGe v (slice (s.hd idx 2) 0 32) = false → s.neuronEvent idx e = s.setWord32 idx 0 0 v) ∧
    (bankGe v (slice (s.hd idx 2) 0 32) = true → s.neuronEvent idx e = ((s.setResid idx v).fire idx e.ts.toNat).setWord32 idx 0 0 0)) ∧
  (∀ v leak delta p m x q n y, fp32.read v = .fin p m x →
    (fp32.read leak = .fin q n y → let low := min x y
      leakOf v leak delta = Claims.bank (.fin p (((m : Int) * 2 ^ (x - low).toNat - signed q (n * delta * 2 ^ (y - low).toNat)).toNat) low)) ∧
    (0 < delta → fp32.read leak = .inf false → leakOf v leak delta = Claims.bank (.fin p 0 0)))

/-- R272, R267: Fire(), and the events that the front end sends. -/
def neuronsFire : Prop :=
  (∀ (s : State) (idx ts : Nat),
    let y := s.handler (hdType (s.hd idx 0))
    let mode := if y.valid then y.mode else 0
    let u := if mode = 0 ∨ mode = 2 then (List.range (slice (s.hd idx 3) 48 16)).foldl (fun t i => t.emit (Claims.fanEvent s idx ts i)) s else s
    (dirQ (u.dir idx) = 0 ∨ dirQ (u.dir idx) = 3 → mode = 0 → s.fire idx ts = u) ∧
    (dirQ (u.dir idx) = 0 → mode ≠ 0 → s.fire idx ts = u.join idx) ∧
    (dirQ (u.dir idx) = 3 → mode ≠ 0 → s.fire idx ts = u.setHd idx 0 (putBits (u.hd idx 0) 36 1 1)) ∧
    (dirQ (u.dir idx) = 1 ∨ dirQ (u.dir idx) = 2 → s.fire idx ts = u.replace idx)) ∧
  (∀ (s : State) e,
    let core := e.dest.toNat / 4096
    (s.jobCores ≤ core → s.emit e = s.countDrop) ∧
    (core < s.jobCores → ∃ m : Request, m.id = s.seqNo ∧ m.stage = .sent ∧ m.msg = .event (BitVec.ofNat 64 core) e ∧
      s.emit e = { s with net := s.net ++ [m], seqNo := s.seqNo + 1 }))

/-- R273: the residual queue and the overflow ring. -/
def objectsJoin : Prop :=
  (∀ (s : State) (idx : Nat),
    let i := BitVec.ofNat 12 idx
    let q := s.drone.residual
    let d := (s.join idx).drone
    let entry (t : State) : BitVec 12 × BitVec 32 × Nat := (i, BitVec.ofNat 32 (t.resid idx), s.drone.seq)
    (s.regs.etcfg.bit 16 = true → d.ring = s.drone.ring ++ [i] ∧ d.residual = q) ∧
    (s.regs.etcfg.bit 16 = false → q.length < 64 → d.ring = s.drone.ring ∧ Claims.ranked (entry s) q d.residual) ∧
    ∀ m, s.regs.etcfg.bit 16 = false → 64 ≤ q.length → q.getLast? = some m →
      (bankGt (s.resid idx) m.2.1.toNat = true → d.ring = s.drone.ring ++ [m.1] ∧
        Claims.ranked (entry s.displaceLast) q.dropLast d.residual) ∧
      (bankGt (s.resid idx) m.2.1.toNat = false → d.ring = s.drone.ring ++ [i] ∧ d.residual = q))

/-- R274: the exit and the start of a handler. -/
def handlersRun : Prop :=
  (∀ (s : State) (idx : Nat),
    let d := s.dir idx
    let h := s.hd idx 0
    let y := s.handler (hdType h)
    let above : Prop := bankGt (s.resid idx) (if y.valid then y.thr.toNat else 0x7F800000) = true
    (dirSt d = 2 → ∃ u : State, u = s.setQ idx 0 ∧ s.handlerExit idx = u.poke (u.dirAddr idx) 8 (putBits (u.dir idx) 54 2 0)) ∧
    (dirSt d ≠ 2 → hdKind h ≠ 2 → above → s.handlerExit idx = s.join idx) ∧
    (dirSt d ≠ 2 → hdKind h = 2 → slice h 36 1 = 1 → s.handlerExit idx = (s.setHd idx 0 (putBits h 36 1 0)).join idx) ∧
    (dirSt d ≠ 2 → (hdKind h ≠ 2 → ¬ above) → (hdKind h = 2 → slice h 36 1 ≠ 1) → s.handlerExit idx = s.setQ idx 0)) ∧
  (∀ s : State, (s.startableHandler = none → exec .handlerStart s = .next s) ∧
    ∀ idx k, s.startableHandler = some (idx, k) →
      let h := (s.leaveQueue idx).hd idx 0
      let y := (s.leaveQueue idx).handler (hdType h)
      y.valid = true → ∃ t : State, exec .handlerStart s = .next t ∧ (t.at k).live = true ∧ (t.at k).pc = y.entry ∧
        (t.at k).status = (if y.pl then 1 else 0) ∧ (t.at k).pri = y.pri ∧ (t.at k).sn = y.sn ∧ (t.at k).vn = y.vn ∧
        (t.at k).frm = 0 ∧ (t.at k).vstart = 0 ∧ (t.at k).hobj.bit 40 = true ∧ (t.at k).hobj.bits 0 12 = idx ∧
        (t.at k).srcount.bits 48 16 = 0x8000 + idx ∧ (t.at k).srcount.bits 0 32 = 0 ∧ (nth (t.at k).g 1 0).bits 0 16 = idx ∧
        ∀ j, j ≠ k → t.at j = s.at j)

/-- R237, R239, R277, R282: the head of the event queue: it starts, pushes the words it read to q7 while there is room, and completes with
its signal and its fault. -/
def eventQueueMoves : Prop :=
  (∀ s : State, (s.eng.event = [] → exec .eventQueueCommandStart s = .next s ∧ exec .eventQueueCommandComplete s = .next s) ∧
    ∀ c l, s.eng.event = c :: l →
      (c.started = true ∨ c.after ≠ [] ∨ s.met c.y = false → exec .eventQueueCommandStart s = .next s) ∧
      (c.started = false → c.after = [] → s.met c.y = true → ∃ t d, exec .eventQueueCommandStart s = .next t ∧
        t.eng.event = d :: l ∧ d.started = true ∧ d.id = c.id ∧ d.what = c.what ∧ t.ctxs = s.ctxs) ∧
      (c.started = false ∨ c.req ≠ none ∨ c.results ≠ [] → exec .eventQueueCommandComplete s = .next s) ∧
      (c.started = true → c.req = none → c.results = [] →
        ∃ t : State, exec .eventQueueCommandComplete s = .next t ∧ t.eng.event.map EvCmd.id = l.map EvCmd.id ∧ t.mem = s.mem ∧
          (∀ k, t.sem k = min 65535 (s.sem k + if c.y.se = true ∧ k = c.y.ss.toNat then c.y.sk.toNat else 0)) ∧
          (c.fault = none → t.ctxs = s.ctxs) ∧
          ∀ cause i g, c.fault = some cause → c.owner = some (i, g) → t.ctxs = (s.addFault i g ⟨c.id, true, cause, 0, 0,
            BitVec.ofNat 64 (c.seq.toNat + c.op.toNat * 2 ^ 16)⟩).ctxs) ∧
      (∀ w ws, c.results = w :: ws →
        ((nth s.eng.ret 3 []).length < Config.queueDepth 7 → nth s.pumpEvent.eng.ret 3 [] = nth s.eng.ret 3 [] ++ [w] ∧
          ∃ d, s.pumpEvent.eng.event = d :: l ∧ d.id = c.id ∧ d.results = ws) ∧
        (Config.queueDepth 7 ≤ (nth s.eng.ret 3 []).length → s.pumpEvent = s)))

/-- R282, R287, R293: NOW advances, `esread` at its target, and the write-back. -/
def frontEndMoves : Prop :=
  (∀ s : State,
    let rate := s.regs.etcfg.bits 0 16
    (rate = 0 ∨ s.drone.phase < rate → exec .nowAdvance s = .next s) ∧
    (rate ≠ 0 → rate ≤ s.drone.phase → ∃ t : State, exec .nowAdvance s = .next t ∧
      t.regs.etime = BitVec.ofNat 64 ((s.now + 1) % 2 ^ 32) ∧ t.drone.phase = s.drone.phase - rate ∧ t.ctxs = s.ctxs ∧ t.mem = s.mem)) ∧
  (∀ first count cut cur sender (s : State),
    (∀ i, s.closedAt s.pkg s.core = some i → exec (.esreadAtTarget first count cut cur sender none) s =
      .next { s with sent := s.sent ++ [.reply sender.toNat (.fail 19 0 i 0)] }) ∧
    (s.closedAt s.pkg s.core = none → s.ownOff = false → exec (.esreadAtTarget first count cut cur sender none) s =
      .next { s with sent := s.sent ++ [.reply sender.toNat (.data (ofBytes
        ((s.readObjects first.toNat count cut.toNat cur).flatMap fun w => bytesOf w.toNat 8)))] })) ∧
  ∀ s : State, (s.writingBack = false → exec .droneWritebackDone s = .next s) ∧
    (s.writingBack = true → ∃ t : State, exec .droneWritebackDone s = .next t ∧ (s.held = true → t.drone.residual = []) ∧ t.regs = s.regs)

end Sys2Proof.Claims

/-- R237, R239, R267 to R274, R277, R282, R287, R293, R382: the front end. Events are accepted or refused, delivered in their order and integrated; handlers start;
the event queue's head starts and completes; NOW advances. -/
def Obligations.FrontEndRuns : Prop :=
  Claims.eventsAccepted ∧ Claims.eventsDelivered ∧ Claims.eventsDropped ∧ Claims.shadowsKept ∧ Claims.slotsIntegrated ∧
  Claims.neuronsIntegrated ∧ Claims.neuronsFire ∧ Claims.objectsJoin ∧ Claims.handlersRun ∧ Claims.eventQueueMoves ∧
  Claims.frontEndMoves

/-! ### Tasks and work queues -/

namespace Sys2Proof.Claims

/-- R324, R329: a waited request to the controller of the queue that A names; an identifier with bits 15:13 set is PROT. -/
def asksQueue (i : Instr) (cls : Machine.Class) (uses : List Use) (a : Field) (op : State → QOp) (k : State → After) : Prop :=
  let qid (s : State) : BitVec 16 := BitVec.ofNat 16 ((s.readG a).bits 0 16)
  AsksIf i cls uses false (fun s => (s.readG a).bits 13 3 = 0 ∧ s.inFlight < Config.outstanding) id
    (fun s => ⟨0, controllerHome (qid s), .queue (qid s) (op s), false, false⟩) k ∧
  TrapsIf i cls uses false (fun s => (s.readG a).bits 13 3 ≠ 0) (fun _ => ⟨6, 4, none, 0, none⟩)

/-- R398, R382: the home of a task record answers: its package has not failed, its cluster has power and is not closed. -/
def answers (s : State) (ga : Nat) : Prop := s.silent ga = false ∧ s.closedAt (gaPkg ga) (gaCore ga) = none

/-- R164, R369: it performs requests: its granule is not frozen and its core is not saved. -/
def performs (s : State) (ga : Nat) : Prop :=
  s.mem.frozen.contains (granule ga) = false ∧ (s.launch.acked = false ∨ s.ownSlice ga = false)

/-- R420: an answer to a request that was refused before goes out behind its acceptance notice. -/
def answered (s : State) (r : ForeignReq) (a : Reply) : State :=
  let t : State := if s.rnrs.contains r then { s with sent := s.sent ++ [.notice r.src], rnrs := s.rnrs.erase r } else s
  { t with sent := t.sent ++ [.reply r.src a] }

end Sys2Proof.Claims

namespace Sys2Proof.Claims

/-- R161, R327, R328: `tnew` and `tdec`, which stall behind the context's own adaptive stores to the record. -/
def recordsNamed : Prop :=
  (∀ d a b t,
    let at' (s : State) : Prop := s.translate s.cur (s.readG a) 8 .atomic 0xD0 0 = .ok t ∧ (s.readG a).toNat % 64 = 0 ∧ gaSpace t.ga = 0 ∧
      s.deadHome t.ga = none ∧ s.inFlight < Config.outstanding ∧ s.overtakes [(t.ga, 64)] = false
    AsksIf (.tnew d a b) .ordered [.wG d, .rG 1 a, .rG 2 b] false at' (fun s => s.install t.x)
      (fun s => ⟨s.readG a, t.ga, .access (.tnew (s.readG b)), false, false⟩) (fun _ => .write d) ∧
    TrapsIf (.tnew d a b) .ordered [.wG d, .rG 1 a, .rG 2 b] false
      (fun s => s.translate s.cur (s.readG a) 8 .atomic 0xD0 0 = .ok t ∧ ((s.readG a).toNat % 64 ≠ 0 ∨ gaSpace t.ga ≠ 0))
      (fun s => ⟨6, 4, some (s.readG a), 0, none⟩) ∧
    CompletesIf (.tdec a) .ordered [.rG 1 a] false
      (fun s => s.translate s.cur (s.readG a) 8 .atomic 0xD1 0 = .ok t ∧ (s.readG a).toNat % 64 = 0 ∧ gaSpace t.ga = 0 ∧
        s.deadHome t.ga = none ∧ s.inFlight < Config.outstanding ∧ s.ownSlice t.ga = false ∧ s.overtakes [(t.ga, 64)] = false)
      (fun s => (s.install t.x).asked ⟨s.readG a, t.ga, .access .tdec, true, false⟩) ∧
    AsksIf (.tdec a) .ordered [.rG 1 a] false
      (fun s => s.translate s.cur (s.readG a) 8 .atomic 0xD1 0 = .ok t ∧ (s.readG a).toNat % 64 = 0 ∧ gaSpace t.ga = 0 ∧
        s.deadHome t.ga = none ∧ s.inFlight < Config.outstanding ∧ s.ownSlice t.ga = true ∧ s.overtakes [(t.ga, 64)] = false)
      (fun s => s.install t.x) (fun s => ⟨s.readG a, t.ga, .access .tdec, true, false⟩) (fun _ => .nothing) ∧
    TrapsIf (.tdec a) .ordered [.rG 1 a] false
      (fun s => s.translate s.cur (s.readG a) 8 .atomic 0xD1 0 = .ok t ∧ ((s.readG a).toNat % 64 ≠ 0 ∨ gaSpace t.ga ≠ 0))
      (fun s => ⟨6, 4, some (s.readG a), 0, none⟩) ∧
    ∀ s, (s.readG a).toNat % 64 = 0 → gaSpace t.ga = 0 → s.overtakes [(t.ga, 64)] = true →
      (s.canIssue .ordered [.wG d, .rG 1 a, .rG 2 b] false = true → s.translate s.cur (s.readG a) 8 .atomic 0xD0 0 = .ok t →
        exec (.tnew d a b) s = .next ((s.install t.x).stall.issued s.cur [.wG d, .rG 1 a, .rG 2 b])) ∧
      (s.canIssue .ordered [.rG 1 a] false = true → s.translate s.cur (s.readG a) 8 .atomic 0xD1 0 = .ok t →
        exec (.tdec a) s = .next ((s.install t.x).stall.issued s.cur [.rG 1 a])))

/-- R329 to R333: the queue instructions. -/
def queueInstructions : Prop :=
  (∀ d a b,
    let one : List Use := [.wG d, .rG 1 a]
    let two : List Use := [.wG d, .rG 1 a, .rG 2 b]
    let qid (s : State) : BitVec 16 := BitVec.ofNat 16 ((s.readG a).bits 0 16)
    Claims.asksQueue (.qclaim d a) .ordered one a (fun _ => .claim) (fun s => .claim d (qid s)) ∧
    Claims.asksQueue (.qsteal d a) .ordered one a (fun _ => .steal) (fun s => .claim d (qid s)) ∧
    Claims.asksQueue (.qpub d a b) .ordered two a (fun s => .pub (s.readG b)) (fun _ => .write d) ∧
    Claims.asksQueue (.qlen d a) .free one a (fun _ => .len) (fun _ => .write d) ∧
    Claims.asksQueue (.qlenClaims d a) .free one a (fun _ => .claims) (fun _ => .write d) ∧
    Claims.asksQueue (.qlenSteals d a) .free one a (fun _ => .steals) (fun _ => .write d) ∧
    Claims.asksQueue (.qlenFail d a) .free one a (fun _ => .fail) (fun _ => .write d) ∧
    Claims.asksQueue (.qreset d a) .ordered one a (fun _ => .reset) (fun _ => .write d) ∧
    Claims.asksQueue (.qresetUnbind d a) .ordered one a (fun _ => .unbind) (fun _ => .write d) ∧
    Claims.asksQueue (.fcastQ d a) .ordered one a (fun _ => .fcast) (fun _ => .forecast d) ∧
    TrapsIf (.qresetBind d a b) .ordered two false (fun s => (s.readG a).bits 13 3 ≠ 0) (fun _ => ⟨6, 4, none, 0, none⟩) ∧
    (∀ s ps, s.canIssue .ordered two false = true → (s.readG a).bits 13 3 = 0 →
      s.translateAll .load 0xD6 0 (.plain 64) (pieces 9 (s.readG b) 64) = .ok ps → (∀ p ∈ ps, Claims.own s p ∧ Claims.clean s p.ga p.n) →
      let next := ((ps.find? fun p => p.va.toNat / 65536 != (s.readG b).toNat / 65536).map Piece.ga).getD 0
      ∃ t, Claims.accessed s t ∧ Claims.sameMemory s t ∧ exec (.qresetBind d a b) s = .next (t.finish (sources two)
        (t.settleBind d (qid s) ((ps.head?.map Piece.ga).getD 0) next (ps.flatMap fun p => bytesOf (s.mem.read p.ga p.n) p.n)))) ∧
    Completes (.fcast d a) .ordered one false (fun s =>
      let v : Word := BitVec.ofNat 64 (min 11 ((s.readG a).bits 16 8) * 2 ^ 16 + (s.readG a).bits 0 16)
      ({ s with regs := { s.regs with forecast := v } } : State).writeG d s.regs.forecast) ∧
    CompletesIf .tstamp .ordered [] false (fun s => s.ctx.qlast.bit 63 = false ∨ s.ctx.qlast.bit 62 = true) id ∧
    CompletesIf .tstamp .ordered [] false
      (fun s => s.ctx.qlast.bit 63 = true ∧ s.ctx.qlast.bit 62 = false ∧ s.inFlight < Config.outstanding) (fun s =>
        let q : BitVec 16 := BitVec.ofNat 16 (s.ctx.qlast.bits 32 16)
        let t := s.asked ⟨0, controllerHome q, .queue q (.done (BitVec.ofNat 32 (s.ctx.qlast.bits 0 32)) s.units.pcyc), true, false⟩
        t.put { t.ctx with qlast := 0 }) ∧
    Completes (.tstampNow d) .free [.wG d] false (fun s => s.writeG d s.units.pcyc) ∧
    Completes (.tstampQ d) .free [.wG d] false (fun s => s.writeG d s.ctx.qlast))

/-- R325, R330, R382, R398: requests of other cores at the controller. -/
def controllerAnswers : Prop :=
  (∀ (s : State) qid op claimer,
    (∀ i, s.closedAt s.pkg s.core = some i → exec (.queueRequestAtController (.foreign qid op claimer)) s =
      .next { s with sent := s.sent ++ [.reply (claimer.toNat % 2 ^ 29) (.fail 19 0 i 0)] }) ∧
    (s.closedAt s.pkg s.core = none → s.ownOff = true → exec (.queueRequestAtController (.foreign qid op claimer)) s = .next s) ∧
    (s.closedAt s.pkg s.core = none → s.ownOff = false → op ≠ QOp.reset →
      let r := s.controller qid op claimer.toNat
      exec (.queueRequestAtController (.foreign qid op claimer)) s =
        .next { r.1 with sent := r.1.sent ++ [.reply (claimer.toNat % 2 ^ 29) r.2] })) ∧
  (∀ (s : State) qid q claimer, s.closedAt s.pkg s.core = none → s.ownOff = false → s.queueOf qid = some q →
    let n := (q.tail - q.head).toNat
    ∃ t : State, exec (.queueRequestAtController (.foreign qid .reset claimer)) s = .next t ∧
      t.owed = s.owed ++ [⟨claimer.toNat % 2 ^ 29, [], .data n⟩] ∧ t.queueOf qid = some { q with head := q.tail } ∧
      .termination qid ∈ t.sent ∧ t = State.terminated
        { (s.controller qid .reset claimer.toNat).1 with sent := s.sent ++ [.termination qid], owed := t.owed } qid)

/-- R324, R325, R329 to R331: what the controller does, and what it writes of a ring slot; the error of the slot's home is its answer. -/
def controllerOperates : Prop :=
  (∀ (s : State) qid q claimer, s.queueOf qid = some q →
    let place := q.base + 64 * (q.head.toNat % 2 ^ q.log2)
    let error (a n : Nat) (read : Bool) := s.homeError (s.moved a) n read
    let usable (a : Nat) : Prop := s.mem.wf = true ∧ s.migrations = [] ∧ a % 64 = 0 ∧ s.mem.isSealed a = false
    (q.head = q.tail → (s.controller qid .claim claimer).2 = .data 0 ∧ (s.controller qid .steal claimer).2 = .data 0 ∧
      (s.controller qid .steal claimer).1.queueOf qid = some { q with fail := q.fail + 1 }) ∧
    (∀ cause sub info, q.head ≠ q.tail → error place 8 true = some (cause, sub, info) →
      s.controller qid .claim claimer = (s, .fail cause sub info 0) ∧ s.controller qid .steal claimer = (s, .fail cause sub info 0)) ∧
    (q.head ≠ q.tail → error place 8 true = none → usable place → ∀ op ∈ [QOp.claim, QOp.steal], let u := (s.controller qid op claimer).1
      u.peek (place + 24) 8 = s.units.pcyc.toNat ∧ u.peek (place + 40) 8 = claimer % 2 ^ 64 ∧
      ∀ a, ¬ (place + 24 ≤ a ∧ a < place + 32) → ¬ (place + 40 ≤ a ∧ a < place + 48) → u.mem.byte a = s.mem.byte a) ∧
    (q.head ≠ q.tail → error place 8 true = none → (s.controller qid .claim claimer).2 =
        .data (s.peek place 8 + q.head.toNat % 2 ^ 32 * 2 ^ 64 + 2 ^ 96) ∧
      (s.controller qid .claim claimer).1.queueOf qid = some { q with head := q.head + 1, claims := q.claims + 1 } ∧
      (s.controller qid .steal claimer).1.queueOf qid = some { q with head := q.head + 1, steals := q.steals + 1 }) ∧
    (∀ item, (item = 0 → (s.controller qid (.pub item) claimer).2 = .data 2) ∧
      (item ≠ 0 → q.tail - q.head = BitVec.ofNat 64 (2 ^ q.log2) → (s.controller qid (.pub item) claimer).2 = .data 0) ∧
      (item ≠ 0 → q.tail - q.head ≠ BitVec.ofNat 64 (2 ^ q.log2) →
        let a := q.base + 64 * (q.tail.toNat % 2 ^ q.log2)
        let r := s.controller qid (.pub item) claimer
        (∀ cause sub info, error a 64 false = some (cause, sub, info) → r = (s, .fail cause sub info 0)) ∧
        (error a 64 false = none → r.2 = .data 1 ∧ r.1.queueOf qid = some { q with tail := q.tail + 1 } ∧
          (usable a → r.1.peek a 8 = item.toNat ∧ r.1.peek (a + 8) 8 = q.tail.toNat ∧ r.1.peek (a + 16) 8 = s.units.pcyc.toNat ∧
            (∀ k, 3 ≤ k → k < 8 → r.1.peek (a + 8 * k) 8 = 0) ∧ ∀ b, ¬ (a ≤ b ∧ b < a + 64) → r.1.mem.byte b = s.mem.byte b)))) ∧
    (s.controller qid .len claimer) = (s, .data (q.tail - q.head).toNat) ∧ (s.controller qid .claims claimer) = (s, .data q.claims.toNat) ∧
    (s.controller qid .steals claimer) = (s, .data q.steals.toNat) ∧ (s.controller qid .fail claimer) = (s, .data q.fail.toNat) ∧
    (s.controller qid .reset claimer).2 = .data (q.tail - q.head).toNat ∧
    (s.controller qid .reset claimer).1.queueOf qid = some { q with head := q.tail } ∧
    (∀ (pos : BitVec 32) (stamp : Word),
      let a := q.base + 64 * (pos.toNat % 2 ^ q.log2)
      (∀ cause sub info, error (a + 8) 8 true = some (cause, sub, info) →
        s.controller qid (.done pos stamp) claimer = (s, .fail cause sub info 0)) ∧
      (error (a + 8) 8 true = none → s.peek (a + 8) 8 % 2 ^ 32 = pos.toNat →
        s.controller qid (.done pos stamp) claimer = (s.poke (a + 32) 8 stamp.toNat, .data 0)) ∧
      (error (a + 8) 8 true = none → s.peek (a + 8) 8 % 2 ^ 32 ≠ pos.toNat →
        s.controller qid (.done pos stamp) claimer = (s.touch (s.moved a), .data 0))) ∧
    (∀ desc next base words, s.controller qid (.bind desc next base words) claimer = (s, .data 0)) ∧
    (s.controller qid .unbind claimer).2 = .data 1 ∧ (s.controller qid .unbind claimer).1.queueOf qid = none) ∧
  (∀ (s : State) qid claimer, s.queueOf qid = none →
    (∀ op, (∀ a b c d, op ≠ QOp.bind a b c d) → (∀ a b, op ≠ QOp.done a b) → s.controller qid op claimer = (s, .fail 6 4 0 0)) ∧
    (∀ pos stamp, s.controller qid (.done pos stamp) claimer = (s, .data 0)) ∧
    ∀ desc next base w0 w1 w2 w3 w4 w5 w6 w7,
      let r := s.controller qid (.bind desc next base [w0, w1, w2, w3, w4, w5, w6, w7]) claimer
      r.2 = .data 1 ∧ r.1.queueOf qid = some ⟨qid, base.toNat, w1.bits 0 5, w2, w3, w4, w5, w6, desc, next⟩)

/-- R321, R327, R328: records at their home, and the list that a ready one joins. (PCYC of another package: log entry 106.) -/
def recordHomes : Prop :=
  (∀ (s : State) (r : ForeignReq) n, r.op = .tnew n →
    let ga := s.moved r.ga.toNat
    Claims.answers s ga →
    (¬ Claims.performs s ga → exec (.tnewAtHome (.foreign r)) s =
      .next { s with sent := s.sent ++ [.rnr r.src], rnrs := if s.rnrs.contains r then s.rnrs else s.rnrs ++ [r] }) ∧
    (∀ e, Claims.performs s ga → s.recordError ga = some e → exec (.tnewAtHome (.foreign r)) s = .next (Claims.answered s r e)) ∧
    (Claims.performs s ga → s.recordError ga = none →
      let w := s.taskWord ga 4
      (recState w = 1 ∨ recState w = 2 ∨ recState w = 3 → exec (.tnewAtHome (.foreign r)) s = .next (Claims.answered s r (.data 2))) ∧
      (recState w ≠ 1 → recState w ≠ 2 → recState w ≠ 3 → recSn w = 0 ∨ 4 < recSn w ∨ 4 < recVn w →
        exec (.tnewAtHome (.foreign r)) s = .next (Claims.answered s r (.data 3))) ∧
      (recState w ≠ 1 → recState w ≠ 2 → recState w ≠ 3 → ¬ (recSn w = 0 ∨ 4 < recSn w ∨ 4 < recVn w) → ∃ t : State,
        exec (.tnewAtHome (.foreign r)) s = .next (Claims.answered t r (.data (if n.bits 0 32 = 0 then 1 else 0))) ∧
        t.ctxs = s.ctxs ∧ t.sent = s.sent ∧ t.rnrs = s.rnrs ∧ (n.bits 0 32 ≠ 0 ∨ s.ownSlice ga = false → t.tasks = s.tasks ∧
          (s.mem.wf = true → s.migrations = [] → ga % 64 = 0 →
            t.taskWord ga 3 = putBits (s.taskWord ga 3) 32 32 (n.bits 0 32) ∧
            t.taskWord ga 4 = putBits w 45 3 (if n.bits 0 32 = 0 then 2 else 1) ∧
            t.taskWord ga 5 = (if n.bits 0 32 = 0 then (s.cycleAt (gaPkg ga)).toNat else 0) ∧ t.taskWord ga 6 = 0 ∧ t.taskWord ga 7 = 0 ∧
            (∀ k < 3, t.taskWord ga k = s.taskWord ga k) ∧ ∀ a, ¬ (ga ≤ a ∧ a < ga + 64) → t.mem.byte a = s.mem.byte a))))) ∧
  (∀ (s : State) (r : ForeignReq), r.op = .tdec →
    let ga := s.moved r.ga.toNat
    Claims.answers s ga → Claims.performs s ga → s.recordError ga = none →
    (recState (s.taskWord ga 4) ≠ 1 → exec (.taskDecrement (.foreign r)) s =
      .next (Claims.answered (if s.ownSlice ga then s.countTaskDrop else s) r (.data 0))) ∧
    (recState (s.taskWord ga 4) = 1 →
      let n := (recPred (s.taskWord ga 3) + 2 ^ 32 - 1) % 2 ^ 32
      let u := s.poke (ga + 24) 8 (putBits (s.taskWord ga 3) 32 32 n)
      (n ≠ 0 → exec (.taskDecrement (.foreign r)) s = .next (Claims.answered u r (.data 0))) ∧
      (n = 0 → exec (.taskDecrement (.foreign r)) s = .next (Claims.answered (u.makeReady ga) r (.data 0))))) ∧
  (∀ (s : State) ga,
    let u := s.poke (ga + 32) 8 (putBits (s.taskWord ga 4) 45 3 2)
    let v := u.poke (ga + 40) 8 (if gaPkg ga = s.pkg then s.units.pcyc else s.cycleAt (gaPkg ga)).toNat
    (s.ownSlice ga = true → s.makeReady ga = v.appendTask ga) ∧ (s.ownSlice ga = false → s.makeReady ga = v) ∧
    let p := recPri (s.taskWord ga 4)
    let chain := nth s.tasks.chains p []
    (chain = [] → s.tasks.used < 64 → s.appendTask ga =
      { s with tasks := { s.tasks with lists := upd s.tasks.lists p (nth s.tasks.lists p [] ++ [ga]) } }) ∧
    (p < 4 → chain ≠ [] ∨ 64 ≤ s.tasks.used → nth (s.appendTask ga).tasks.chains p [] = chain ++ [ga] ∧
      (s.appendTask ga).tasks.lists = s.tasks.lists))

/-- R322: the start of a task. -/
def tasksStart : Prop :=
  (∀ s : State, (s.startableTask = none → exec .runListStart s = .next s) ∧
    ∀ p ga k, s.startableTask = some (p, ga, k) → ∃ t : State, exec .runListStart s = .next t ∧
      let w := s.taskWord ga 4
      (t.at k).live = true ∧ (t.at k).sn = recSn w ∧ (t.at k).vn = recVn w ∧ (t.at k).pri = BitVec.ofNat 2 (recPri w) ∧
      (t.at k).status = 0 ∧ (t.at k).frm = 0 ∧ (t.at k).vstart = 0 ∧ (t.at k).hobj = 0 ∧ (t.at k).task = BitVec.ofNat 64 ga ∧
      (∀ j, j ≠ k → t.at j = s.at j) ∧
      (s.mem.wf = true → s.migrations = [] → (t.at k).pc = BitVec.ofNat 64 (s.taskWord ga 0) ∧
        nth (t.at k).g 1 0 = BitVec.ofNat 64 (s.taskWord ga 1)))

/-- R330: a termination notice; a helper already at its end is left so. -/
def terminationNotices : Prop :=
  ∀ (s : State) qid,
    ((∀ i, (s.at i).works qid = false) → (∀ i ids got d n l, (s.at i).block ≠ some ⟨.reply ids got (.claim d qid), n, l⟩) →
      exec (.terminationNotice qid) s = .next s) ∧
    ∃ t : State, exec (.terminationNotice qid) s = .next t ∧ ((s.at 0).works qid = true → (t.at 0).qlast = 0) ∧
      ∀ k : Fin 11, k ≠ 0 → (s.at k).live = true →
        ((s.at k).works qid = true → (∀ n l, (s.at k).block ≠ some ⟨.ending, n, l⟩) →
          ∃ n, (t.at k).block = some ⟨.ending, n, []⟩ ∧ (t.at k).pending = none ∧ (t.at k).imprecise = [] ∧ (t.at k).inGroup = false) ∧
        (∀ n l, (s.at k).works qid = true → (s.at k).spec = [] → (s.at k).block = some ⟨.ending, n, l⟩ → (t.at k).block = some ⟨.ending, n, l⟩) ∧
        ∀ ids got d n l, (s.at k).works qid = false → (s.at k).block = some ⟨.reply ids got (.claim d qid), n, l⟩ →
          (t.at k).block = some ⟨.reply ids got .terminate, n, l⟩

end Sys2Proof.Claims

/-- R325, R327 to R332: the task and queue instructions, what the home of a record and the controller of a queue do with their
requests, the start of a task, and the end of what a termination notice reaches. (What the rules leave open here is settled as in
log entries 54, 55 and 106.) -/
def Obligations.TasksAndQueues : Prop :=
  Claims.recordsNamed ∧ Claims.queueInstructions ∧ Claims.controllerAnswers ∧ Claims.controllerOperates ∧ Claims.recordHomes ∧
  Claims.tasksStart ∧ Claims.terminationNotices

/-! ### Messages, migration, interrupts -/

namespace Sys2Proof.Claims

/-- R60, R344, R386, R392: channel entries, the doorbell and the pre-emption interrupt. -/
def entriesAndInterrupts : Prop :=
  (∀ (ch : BitVec 3) v (s : State), ∃ t : State, exec (.channelEntryArrival ch v) s = .next t ∧
    nth t.chans ch.toNat [] = nth s.chans ch.toNat [] ++ [if ch.toNat < 4 then (v.truncate 64).zeroExtend 512 else v] ∧
    (∀ c, c ≠ ch.toNat → nth t.chans c [] = nth s.chans c []) ∧ t.ctxs = s.ctxs ∧ t.mem = s.mem ∧ t.regs = s.regs) ∧
  (∀ v (s : State), ∃ t : State, exec (.doorbell v) s = .next t ∧ (t.at 0).hres = BitVec.ofNat 64 (0xFFFF * 2 ^ 48 + v.bits 0 48) ∧
    (t.at 0).status.bit 10 = true ∧ (∀ k : Fin 11, k ≠ 0 → t.at k = s.at k) ∧ t.mem = s.mem ∧ t.regs = s.regs) ∧
  (∀ s : State, s.dbg.clusterHalted = true → exec .preemptInterrupt s = .next { s with launch := { s.launch with preemptHeld := true } }) ∧
  (∀ s : State, s.dbg.clusterHalted = false → ∃ t : State, exec .preemptInterrupt s = .next t ∧ (t.at 0).status.bit 11 = true ∧
    (∀ b, b ≠ 11 → (t.at 0).status.bit b = (s.at 0).status.bit b) ∧ (∀ k : Fin 11, k ≠ 0 → t.at k = s.at k) ∧ t.mem = s.mem)

/-- R345, R363, R365: delays that end, and contexts that reach their quiet point. -/
def delaysAndSaves : Prop :=
  (∀ (k : Fin 11) (s : State),
    let due : Prop := (s.at k).live = true ∧ (s.at k).dtime ≠ 0 ∧ (s.at k).dtime.toNat ≤ s.units.pcyc.toNat
    (due → ∃ t : State, exec (.delayedExpiry k.val) s = .next t ∧ (t.at k).status.bit 9 = true ∧ (t.at k).dtime = 0 ∧
      (∀ j, j ≠ k → t.at j = s.at j) ∧ t.mem = s.mem) ∧
    (¬ due → exec (.delayedExpiry k.val) s = .next s)) ∧
  (∀ (k : Fin 11) (s : State),
    (s.stopped k = false ∨ s.atQuiet k = false → exec (.quietPointReached k.val) s = .next s) ∧
    ∀ (j : Fin 11) d image n l, (s.at j).live = true → (s.at j).block = some ⟨.save d k image, n, l⟩ →
      (∀ i, i ≠ j → ∀ d image n l, (s.at i).block ≠ some ⟨.save d k image, n, l⟩) → s.atQuiet k = true →
      ((s.at k).live = true → exec (.quietPointReached k.val) s = .next (
        let u := s.settlePartial k
        let v := (u.writeImage image { u.at k with pending := (u.at k).report, imprecise := [] } k).endTrace k 14
        (((v.setAside k image true).moveGaps k.val (imageKey image)).free k).completeG j d 1)) ∧
      ((s.at k).live = false → exec (.quietPointReached k.val) s = .next (s.completeG j d 0))) ∧
  (∀ (s : State) (j : Fin 11) d v, (0 < d.toNat → d.toNat < 32 → nth ((s.completeG j d v).at j).g d.toNat 0 = v) ∧
    ((s.completeG j d v).at j).block = none)

/-- R158, R164, R167, R362, R369, R382, R420: requests of other cores at home memory. -/
def homesServe : Prop :=
  (∀ (s : State) (r : ForeignReq),
    let ga := r.ga.toNat
    let notices : List Sent := if s.rnrs.contains r then [.notice r.src] else []
    gaSpace ga = 0 → s.closedAt (gaPkg ga) (gaCore ga) = none → s.unserved ga = false → s.moved ga = ga →
    (((s.launch.acked = true ∧ s.ownSlice ga = true) ∨ s.mem.frozen.contains (granule ga) = true) → (∀ n, r.op ≠ .tnew n) → r.op ≠ .tdec →
      exec (.requestAtHome (.foreign r)) s =
        .next { s with sent := s.sent ++ [.rnr r.src], rnrs := if s.rnrs.contains r then s.rnrs else s.rnrs ++ [r] }) ∧
    ((s.launch.acked = false ∨ s.ownSlice ga = false) → s.mem.frozen.contains (granule ga) = false →
      (∀ n, r.op = .read n → Claims.clean s ga n → ∃ t : State, exec (.requestAtHome (.foreign r)) s = .next t ∧
        t.sent = s.sent ++ notices ++ [.reply r.src (.data (s.mem.read ga n))] ∧ t.ctxs = s.ctxs ∧ Claims.sameMemory s t) ∧
      (∀ n, r.op = .read n → (∃ i < n, s.mem.poison.contains ((ga + i) / 8) = true) → ∃ t : State, ∃ i < n,
        exec (.requestAtHome (.foreign r)) s = .next t ∧ t.sent = s.sent ++ notices ++ [.reply r.src (.fail 17 0 0 i)] ∧
        Claims.sameMemory s t) ∧
      ∀ bytes, r.op = .write bytes → ∃ t : State, exec (.requestAtHome (.foreign r)) s = .next t ∧
        t.sent = s.sent ++ notices ++ [.reply r.src (s.mem.store ga bytes).2] ∧ t.ctxs = s.ctxs ∧
        ∀ a, t.mem.byte a = (s.mem.store ga bytes).1.byte a)) ∧
  (∀ (s : State) (r : ForeignReq) info, gaSpace r.ga.toNat = 0 ∨ gaSpace r.ga.toNat = 2 → s.closedAt (gaPkg r.ga.toNat) (gaCore r.ga.toNat) = some info →
    (∀ n, r.op ≠ .tnew n) → r.op ≠ .tdec →
    exec (.requestAtHome (.foreign r)) s = .next { s with sent := s.sent ++ [.reply r.src (.fail 19 0 info 0)] }) ∧
  (∀ (s : State) r, exec (.forwardedAccess r) s = .next (s.requestArrives r) ∧ exec (.requestAtHome r) s = .next (s.requestArrives r))

/-- R160, R351, R384: a service request leaves, and a reply is taken in. -/
def repliesTaken : Prop :=
  (∀ (s : State) id q code arg ctx gen ticket, s.arriving id = some q → q.msg = .hcall code arg ctx gen ticket →
    let x : ToHost := .request code arg s.lcore ctx gen ticket
    let net := s.net.filter (·.id != q.id)
    (s.service.queue = [] → exec (.requestAtHome (.own id)) s = .next { s with net := net, toHost := s.toHost ++ [x] }) ∧
    ∀ v l, s.service.queue = .interrupt v :: l → s.service.unacked ≠ 0 → exec (.requestAtHome (.own id)) s =
      .next { s with net := net, service := { s.service with queue := s.service.queue ++ [x] } }) ∧
  (∀ (s : State) id, s.arriving id = none → exec (.requestAtHome (.own id)) s = .next s) ∧
  (∀ (s : State) id q v d n srcs, s.net.find? (·.id == id) = some q → q.stage = .replied (.data v) → q.posted = false → q.tries = 0 →
    (∀ x ∈ s.net, ∀ ids, x.stage ≠ .after ids) →
    (∀ a e, q.msg ≠ .event a e) → (∀ c ∈ s.eng.event, c.req ≠ some id) → (s.at q.ctx).live = true → (s.at q.ctx).gen = q.gen →
    (s.at q.ctx).block = some ⟨.reply [id] [] (.write d), n, srcs⟩ → (∀ j, j ≠ q.ctx → (s.at j).block = none) →
    exec (.replyArrival id none) s = .next (({ s with net := s.net.filter (·.id != id) } : State).completeG q.ctx d (BitVec.ofNat 64 v)))

/-- R164, R267, R420: refusals, their retries and acceptance notices. -/
def refusalsRetried : Prop :=
  (∀ (s : State) id e, s.net.find? (·.id == id) = none → exec (.replyArrival id e) s = .next s ∧ exec (.rnrRetry id) s = .next s) ∧
  (∀ (s : State) id q, s.net.find? (·.id == id) = some q →
    let refused : Prop := q.stage = .refused ∨ (q.stage = .listed ∧ ∃ a e, q.msg = .event a e ∧ a.toNat ≠ s.lcore.toNat)
    let again : State := { s with net := s.net.map fun r => if r.id = id then { r with tries := r.tries + 1, stage := .sent } else r }
    let endless : Prop := (∃ a e, q.msg = .event a e) ∧ ∀ c ∈ s.eng.event, c.req ≠ some id
    (¬ refused → exec (.rnrRetry id) s = .next s) ∧
    (refused → q.tries < s.regs.rnrlim.bits 0 8 ∨ endless → exec (.rnrRetry id) s = .next again) ∧
    (refused → s.regs.rnrlim.bits 0 8 ≤ q.tries → ¬ endless → exec (.rnrRetry id) s = .next (State.deliver
      { s with net := s.net.map fun r => if r.id = id then { r with tries := 0 } else r
               mem := { s.mem with refusals := s.mem.refusals.filter fun e => e.src != .own id } } id (.fail 18 0 0 0)))) ∧
  (∀ (s : State) id, exec (.acceptanceNotice id) s = .next { s with
    net := (s.net.filter fun r => r.id != id || r.stage != .answered).map fun r =>
      if r.id = id ∧ r.stage ≠ .sent ∧ r.stage ≠ .refused then { r with tries := 0 } else r })

/-- R183, R356 to R359: sector buffers, walks and invalidations. -/
def buffersAndWalks : Prop :=
  (∀ (s : State) (u : Word), (∀ q ∈ s.net, q.stage ≠ .listed) → ∃ t : State, exec (.cxlDeviceReadComplete u) s = .next t ∧
    t.buffered u.toNat = true ∧ t.ctxs = s.ctxs ∧ t.mem = s.mem ∧ t.net = s.net) ∧
  (∀ (s : State) (u : Word), exec (.sectorBufferExpiry u) s = .next { s with
    sectors := s.sectors.filter fun x => decide (x.unit ≠ u.toNat ∨ s.units.pcyc.toNat < x.expires.toNat) }) ∧
  (∀ (s : State) va k,
    (∀ e, s.translate s.cur va 1 k 0 0 = .error e → exec (.translationWalk va k) s = .next s) ∧
    ∀ t, s.translate s.cur va 1 k 0 0 = .ok t → (s.leaving t.x = true → exec (.translationWalk va k) s = .next s) ∧
      (s.leaving t.x = false → exec (.translationWalk va k) s = .next (s.install t.x))) ∧
  (∀ (s : State) base len, ∃ t : State, exec (.tlbInvalidation base len false) s = .next t ∧ t.units.sdseq = s.units.sdseq + 1 ∧
    (∃ q, t.net = s.net ++ [q] ∧ q.msg = .shootdown base len 0) ∧ t.ctxs = s.ctxs ∧ t.mem = s.mem)

/-- R356: the bit of a leaf that each kind of access needs, and its code in FINFO. -/
def permits (k : Access) (leaf : Nat) : Prop :=
  match k with
  | .load => leaf.testBit 2 = true
  | .store => leaf.testBit 3 = true
  | .atomic => leaf.testBit 2 = true ∧ leaf.testBit 3 = true
  | .fetch => leaf.testBit 4 = true
def codeOf (k : Access) : Nat := match k with | .load => 0 | .store => 1 | .atomic => 2 | .fetch => 3

/-- R356: an entry whose V is 1 is malformed at a level. -/
def illFormed (level e : Nat) : Prop :=
  let home : Prop := e / 2 ^ 62 % 4 = 0
  if e.testBit 1 then
    slice e 8 8 ≠ 0 ∨ level < 2 ∨ slice e 16 (if level = 2 then 14 else if level = 3 then 5 else 0) ≠ 0 ∨
      (home ∧ (slice e 24 9 ≠ 0 ∨ level = 2))
  else slice e 2 6 ≠ 0 ∨ level = 4 ∨ (level < 3 ∧ slice e 8 4 ≠ 0) ∨ (home ∧ slice e 24 9 ≠ 0)

/-- R360: filter `f` watches byte `b` for a kind. -/
def watches (s : State) (k : Access) (b f : Nat) : Prop :=
  let a := nth s.units.wfa f 0
  f < 8 ∧ b / 64 = a.bits 6 58 ∧ (nth s.units.wfm f 0).bit (b % 64) = true ∧
    match k with
    | .load => a.bit 0 = true
    | .store => a.bit 1 = true
    | .atomic => a.bit 0 = true ∨ a.bit 1 = true
    | .fetch => a.bit 2 = true

/-- R356, R360: what the checks of a leaf at a level answer, in their order. -/
def leafAnswers (s : State) (i : Fin 11) (va : Word) (n : Nat) (k : Access) (info : Nat) (leaf level size : Nat) (r : Except TrapInfo Trans) :
    Prop :=
  let ga := leaf / 2 ^ 16 * 2 ^ 16 + va.toNat % size
  let trap (cause sub : Nat) : Except TrapInfo Trans := .error ⟨cause, sub, some va, BitVec.ofNat 64 (info + level * 2 ^ 12), none⟩
  let job := s.jobPackage (gaPkg ga) = true
  let may := ((s.at i).pl = true ∨ leaf.testBit 5 = true) ∧ permits k leaf
  let sealed := (k = .store ∨ k = .atomic) ∧ leaf.testBit 6 = true
  (¬ job → r = trap 6 2) ∧ (job → ¬ may → r = trap 6 0) ∧ (job → may → sealed → r = trap 9 0) ∧
  (∀ b f, job → may → ¬ sealed → leaf.testBit 7 = true → va.toNat ≤ b → b < va.toNat + n → watches s k b f →
    (∀ c g, va.toNat ≤ c → c < b → ¬ watches s k c g) → (∀ g < f, ¬ watches s k b g) →
    r = .error ⟨8, 0, some (BitVec.ofNat 64 b), BitVec.ofNat 64 (info + level * 2 ^ 12) + BitVec.ofNat 64 (f * 2 ^ 24), none⟩) ∧
  (job → may → ¬ sealed → leaf.testBit 7 = false ∨ (∀ b f, va.toNat ≤ b → b < va.toNat + n → ¬ watches s k b f) →
    ∃ x, r = .ok ⟨ga, x⟩ ∧ x.leaf = leaf ∧ x.level = level ∧ x.size = size)

/-- R353 to R357, R360: what a translation answers: canonical form, a leaf that the TLBs hold, or the walk level by level to a missing,
unreadable or malformed entry or to a leaf, whose checks follow. (Whether a TLB holds a leaf, and a walker is free: log entry 10.) -/
def translations : Prop :=
  (∀ (s : State) i (va : Word) n k op elem, s.walkWaits va = false →
    let r := s.translate i va n k op elem
    let info := elem % 64 + codeOf k * 2 ^ 8 + op * 2 ^ 16
    let canonical : Prop := ∀ b, 56 < b → b < 64 → va.bit b = va.bit 56
    let held := s.tlb.find? fun x => x.base ≤ va.toNat && va.toNat < x.base + x.size && Config.tlbHeld s.tick && !s.leaving x
    let fails (sub level : Nat) : Prop := r = .error ⟨7, sub, some va, BitVec.ofNat 64 (info + level * 2 ^ 12), none⟩
    let place (level : Nat) : Nat := (match level with
      | 0 => va.bits 48 9 | 1 => va.bits 39 9 | 2 => va.bits 30 9 | 3 => va.bits 21 9 | _ => va.bits 16 5)
    (¬ canonical → fails 3 0) ∧
    (∀ x, canonical → held = some x → leafAnswers s i va n k info x.leaf x.level x.size r) ∧
    ∀ (table entry : Nat → Nat) level, canonical → held = none → level ≤ 4 → table 0 = (s.at i).root.bits 12 52 * 2 ^ 12 →
      (∀ j < level, s.tableRead (table j + 8 * place j) = some (entry j) ∧ (entry j).testBit 0 = true ∧ (entry j).testBit 1 = false ∧
        ¬ illFormed j (entry j) ∧ table (j + 1) = entry j / 2 ^ 8 * 2 ^ 8) →
      (s.tableRead (table level + 8 * place level) = none → fails 2 level) ∧
      ∀ e, s.tableRead (table level + 8 * place level) = some e →
        (e.testBit 0 = false → fails 0 level) ∧
        (e.testBit 0 = true → illFormed level e → fails 1 level) ∧
        (e.testBit 0 = true → e.testBit 1 = true → ¬ illFormed level e →
          leafAnswers s i va n k info e level (if level = 2 then 2 ^ 30 else if level = 3 then 2 ^ 21 else 2 ^ 16) r)) ∧
  ∀ (s : State) a, gaSpace a = 0 → s.moved a = a → s.deadHome a = none → s.closedAt (gaPkg a) (gaCore a) = none →
    (s.mem.poisoned a 8 = true → s.tableRead a = none) ∧ (s.mem.poisoned a 8 = false → s.tableRead a = some (s.mem.read a 8))

/-- R361, R362: migrations. -/
def pagesMigrate : Prop :=
  (∀ (s : State) m,
    ((∃ x ∈ s.migrations, x.m.va = m.va ∨ x.m.old = m.old ∨ x.m.new = m.old) → exec (.migrationRequest m none) s =
      .next { s with sent := s.sent ++ [.reply m.sender.toNat (.data 1)] }) ∧
    ((∀ x ∈ s.migrations, x.m.va ≠ m.va ∧ x.m.old ≠ m.old ∧ x.m.new ≠ m.old) → ∃ t : State, exec (.migrationRequest m none) s = .next t ∧
      t.sent = s.sent ++ [.reply m.sender.toNat (.data 0)] ∧ t.ctxs = s.ctxs ∧
      (s.mem.wf = true → 5 ≤ m.bits → m.old + 2 ^ m.bits ≤ m.new ∨ m.new + 2 ^ m.bits ≤ m.old →
        ∀ i < 2 ^ m.bits, t.mem.byte (m.new + i) = s.mem.byte (m.old + i)))) ∧
  (∀ (s : State) page, s.migration page = none → exec (.migrationRoundEnd page) s = .next s ∧
    exec (.migrationFinalCopy page) s = .next s ∧ exec (.migrationComplete page) s = .next s) ∧
  ∀ (s : State) page x, s.migration page = some x →
    (x.frozen = false → x.forwarding = false → x.marked.length ≤ 64 ∨ 8 ≤ x.rounds → ∃ t : State,
      exec (.migrationRoundEnd page) s = .next t ∧ (∃ y, t.migration page = some y ∧ y.frozen = true ∧ y.m = x.m) ∧
      (∀ a, t.mem.byte a = s.mem.byte a) ∧ t.ctxs = s.ctxs) ∧
    (x.frozen = false → exec (.migrationFinalCopy page) s = .next s) ∧
    (x.frozen = true → x.forwarding = false → ∃ t : State, exec (.migrationFinalCopy page) s = .next t ∧
      (∃ y, t.migration page = some y ∧ y.frozen = false ∧ y.forwarding = true) ∧ t.units.sdseq = s.units.sdseq + 1 ∧ t.ctxs = s.ctxs) ∧
    (x.forwarding = false → exec (.migrationComplete page) s = .next s) ∧
    (x.forwarding = true → s.shotDown page = true → x.m.sem = none → exec (.migrationComplete page) s =
      .next { s with migrations := s.migrations.filter fun m => m.m.va != page }) ∧
    ∀ n, x.forwarding = true → s.shotDown page = true → x.m.sem = some n →
      let t : State := { s with migrations := s.migrations.filter fun m => m.m.va != page }
      (x.m.sender = s.lcore → exec (.migrationComplete page) s = .next (t.semAdd n.toNat 1)) ∧
      (x.m.sender ≠ s.lcore → exec (.migrationComplete page) s = .next { t with sent := t.sent ++ [.semaphore x.m.sender n 1] })

end Sys2Proof.Claims

/-- R60, R158 to R164, R183, R344, R345, R351, R353 to R362, R382, R386: what reaches the core or a home of the machine: channel entries,
the doorbell, requests, replies, refusals and acceptances, walks and what a translation answers, invalidations, migrations, interrupts and
delays. (What the rules leave open here is settled as in
log entries 10, 25 and 38.) -/
def Obligations.MessagesArrive : Prop :=
  Claims.entriesAndInterrupts ∧ Claims.delaysAndSaves ∧ Claims.homesServe ∧ Claims.repliesTaken ∧ Claims.refusalsRetried ∧
  Claims.buffersAndWalks ∧ Claims.translations ∧ Claims.pagesMigrate

/-! ### Resets, failures, the host -/

namespace Sys2Proof.Claims

/-- R384, R385: host transactions of the service core that an address selects wait there. -/
def hostBusy (s : State) (ga : Nat) : Prop := ∃ y ∈ s.service.waiting, y.what.ofPort = false ∧ serviceOf y.ga = serviceOf ga

/-- R390: commands of the management port wait for a home that refused one. -/
def portBusy (s : State) : Prop := ∃ y ∈ s.service.waiting, y.what.ofPort = true

/-- No arrival waits for the next episode of a barrier, and no context is blocked at one. -/
def noArrivals (s : State) : Prop := (∀ k n, (s.at k).atBarrier n = false) ∧ ∀ n, (s.barrier n).waiting = []

/-- R362, R369, R385: the home refuses an access of the host: its granule is frozen, or its core is saved. -/
def refusesHost (s : State) (ga : Nat) : Prop :=
  gaSpace ga < 2 ∧ (s.mem.frozen.contains (granule ga) = true ∨ (s.launch.acked = true ∧ s.ownSlice ga = true))

/-- R160: one request is in flight, and a context waits for its reply alone, to write a register. -/
def alone (s : State) (q : Request) : Prop :=
  s.net = [q] ∧ q.posted = false ∧ q.tries = 0 ∧ (∀ a e, q.msg ≠ .event a e) ∧ s.eng.event = [] ∧ (s.at q.ctx).live = true ∧
    (s.at q.ctx).gen = q.gen ∧ (∃ d n srcs, (s.at q.ctx).block = some ⟨.reply [q.id] [] (.write d), n, srcs⟩) ∧
    ∀ j, j ≠ q.ctx → (s.at j).block = none

/-- R377, R382: it ends, and its context takes RMTDEAD with this FINFO. -/
def dies (s t : State) (q : Request) (info : Word) : Prop :=
  t.net = [] ∧ ∃ u : State, u.ctxs = s.ctxs ∧ u.regs = s.regs ∧ u.cur = q.ctx ∧
    t.at q.ctx = (u.raise ⟨19, 0, none, info, none⟩).at q.ctx

/-- R384: nothing that the core's service core has taken waits to go out. -/
def hostDrained (s : State) : Prop := s.service.queue = []

end Sys2Proof.Claims

namespace Sys2Proof.Claims

/-- R375 to R377, R379: links, failures and their announcements. -/
def linksAndFailures : Prop :=
  (∀ (s : State) (l : BitVec 3), ∃ t : State, exec (.flitReplay l) s = .next t ∧
    nth t.links.replays l.toNat 0 = nth s.links.replays l.toNat 0 + 1 ∧
    (l ∈ t.links.retraining ↔ l ∈ s.links.retraining ∨ 16 ≤ nth s.links.replays l.toNat 0 + 1) ∧ t.ctxs = s.ctxs ∧ t.mem = s.mem) ∧
  (∀ (s : State) (l : BitVec 3) ok, (l ∉ s.links.retraining → exec (.linkRetrain l ok) s = .next s) ∧
    (l ∈ s.links.retraining → ∃ t : State, exec (.linkRetrain l ok) s = .next t ∧ l ∉ t.links.retraining ∧
      nth t.links.replays l.toNat 0 = 0 ∧ t.links.failed = (if ok then s.links.failed else s.links.failed ++ [l]) ∧
      (nth s.links.retrains l.toNat 0 ≠ BitVec.allOnes 64 → nth t.links.retrains l.toNat 0 = nth s.links.retrains l.toNat 0 + 1) ∧
      t.ctxs = s.ctxs ∧ t.mem = s.mem)) ∧
  (∀ (s : State) (port cls : BitVec 3), (cls = 7 → exec (.allowanceReturn port cls) s = .next s) ∧
    (cls ≠ 7 → ∃ t : State, exec (.allowanceReturn port cls) s = .next t ∧ t.ctxs = s.ctxs ∧ t.mem = s.mem ∧
      nth t.links.allowance (port.toNat * 7 + cls.toNat) 0 =
        min ((Links.buffers[cls.toNat]?).getD 0) (nth s.links.allowance (port.toNat * 7 + cls.toNat) 0 + 1))) ∧
  (∀ (s : State) pkg l, ∃ t : State, exec (.linkFailure pkg (some l) []) s = .next t ∧ t.ctxs = s.ctxs ∧ t.mem = s.mem ∧ t.net = s.net ∧
    (pkg.toNat = s.pkg → l ∈ t.links.failed) ∧ (pkg.toNat ≠ s.pkg → t.links = s.links)) ∧
  (∀ (s : State) pkg, (pkg ∈ s.launch.failed → exec (.failureAnnouncement pkg) s = .next s) ∧
    (pkg ∉ s.launch.failed → Claims.noArrivals s → s.groups = [] → ∃ t : State,
      exec (.failureAnnouncement pkg) s = .next t ∧ t.launch.failed = s.launch.failed ++ [pkg] ∧ t.ctxs = s.ctxs ∧ t.mem = s.mem)) ∧
  (∀ (s : State) pkg, ((∀ q ∈ s.net, pkg ∉ q.doubt) → exec (.inDoubtTimeout pkg) s = .next s) ∧
    ∀ q, Claims.alone s q → pkg ∈ q.doubt → ∃ t : State, exec (.inDoubtTimeout pkg) s = .next t ∧
      Claims.dies s t q (deadInfo pkg.toNat (if pkg ∈ s.launch.failed then 0x7FF else 0x7FE)))

/-- R369, R389: the dump, its restore, and the end of a job. -/
def jobsDumped : Prop :=
  (∀ s : State, (s.launch.acked = false ∨ s.launch.state ≠ 2 → exec .clusterDump s = .next s) ∧
    (s.launch.acked = true → s.launch.state = 2 → ∃ t : State, exec .clusterDump s = .next t ∧ t.launch.state = 3 ∧ t.ctxs = s.ctxs ∧
      (s.mem.wf = true → (∀ c < 16, s.units.dumpaddr.toNat + 2 ^ 29 ≤ s.clusterSlice c ∨ s.clusterSlice c + 2 ^ 24 ≤ s.units.dumpaddr.toNat) →
        ∀ c < 16, ∀ i < 2 ^ 24, t.mem.byte (s.units.dumpaddr.toNat + c * 2 ^ 24 + i) = s.mem.byte (s.clusterSlice c + i)))) ∧
  (∀ s : State, (s.launch.state ≠ 3 → exec .jobRestore s = .next s) ∧
    (s.launch.state = 3 → ∃ t : State, exec .jobRestore s = .next t ∧ t.launch.state = 2 ∧ t.launch.acked = false ∧ (t.at 0).live = true ∧
      (t.at 0).status = 1 ∧ nth (t.at 0).g 1 0 = BitVec.ofNat 64 s.launch.image)) ∧
  (∀ s : State, ∃ t : State, exec .jobEnded s = .next t ∧ t.launch.state = 5 ∧ t.ctxs = s.ctxs ∧ t.mem = s.mem)

/-- R382: the reset of a cluster, and its end. -/
def clustersReset : Prop :=
  (∀ (s : State) (cluster : BitVec 7) (pkg : BitVec 18),
    (pkg.toNat ≠ s.pkg ∨ cluster.toNat ≠ s.core / 16 → Claims.noArrivals s → s.groups = [] →
      (∀ q ∈ s.net, s.waitsOn q pkg.toNat cluster.toNat = false ∨ q.safe = true) → ∃ t : State, exec (.clusterReset cluster pkg) s = .next t ∧
      t.ctxs = s.ctxs ∧ Claims.sameMemory s t ∧ t.regs = s.regs ∧ t.net = s.net ∧
      (pkg.toNat = s.pkg → cluster ∈ t.guard.closedClusters ∧ t.launch.resets = s.launch.resets + 1) ∧
      (pkg.toNat ≠ s.pkg → (pkg, cluster) ∈ t.guard.closedElsewhere ∧ t.launch = s.launch)) ∧
    (∀ q, pkg.toNat ≠ s.pkg ∨ cluster.toNat ≠ s.core / 16 → Claims.noArrivals s → s.groups = [] → Claims.alone s q →
      s.waitsOn q pkg.toNat cluster.toNat = true → q.safe = false →
      ∃ t : State, exec (.clusterReset cluster pkg) s = .next t ∧ Claims.dies s t q (deadInfo pkg.toNat (cluster.toNat * 16))) ∧
    (pkg.toNat = s.pkg → cluster.toNat = s.core / 16 → ∃ t : State, exec (.clusterReset cluster pkg) s = .next t ∧
      cluster ∈ t.guard.closedClusters ∧ t.ctxs = State.reset.ctxs ∧ t.regs = State.reset.regs ∧ t.eng = State.reset.eng ∧
      t.mx = State.reset.mx ∧ t.drone = State.reset.drone ∧ t.sems = State.reset.sems ∧ t.spad = State.reset.spad ∧ (∀ q ∈ t.net, q ∈ s.net ∧ q.ofPackage = true) ∧
      t.units.pcyc = s.units.pcyc ∧
      (s.drone.residual = [] → s.drone.ring = [] → (∀ k, (s.at k).live = true → (s.at k).hobj.bit 40 = false) → Claims.sameMemory s t))) ∧
  (∀ (s : State) (cluster : BitVec 7), (cluster ∉ s.guard.closedClusters → exec (.boundaryReopen cluster) s = .next s) ∧
    (cluster ∈ s.guard.closedClusters → ∃ t : State, exec (.boundaryReopen cluster) s = .next t ∧ cluster ∉ t.guard.closedClusters ∧
      (cluster.toNat ≠ s.core / 16 → t.ctxs = s.ctxs) ∧
      (cluster.toNat = s.core / 16 → (t.at 0).live = true ∧ (t.at 0).status = 1 ∧
        (t.at 0).pc = BitVec.ofNat 64 (s.peek (s.launch.record.toNat + 16) 8) ∧ nth (t.at 0).g 1 0 = s.launch.record ∧
        ∀ k : Fin 11, k ≠ 0 → t.at k = s.at k)))

/-- R28, R158, R399, R407: reset and loss of power, and the scrubber. -/
def packagesReset : Prop :=
  (∀ s : State, ∃ t u : State, exec .packageReset s = .next t ∧ exec .lossOfPower s = .next u ∧ ∀ v : State, v = t ∨ v = u →
    v.ctxs = State.reset.ctxs ∧ v.regs = State.reset.regs ∧ v.units = State.reset.units ∧ v.eng = State.reset.eng ∧ v.mx = State.reset.mx ∧
      v.drone = State.reset.drone ∧ v.spad = State.reset.spad ∧ v.sems = State.reset.sems ∧ v.chans = State.reset.chans ∧ v.net = [] ∧
      (∀ a, gaSpace a = 0 → gaPkg a = s.pkg → v.mem.byte a = 0 ∧ v.mem.full a = true) ∧
      ∀ a, gaSpace a ≠ 0 ∨ gaPkg a ≠ s.pkg → v.mem.byte a = s.mem.byte a) ∧
  (∀ (s : State) b ga, exec (.scrub b ga 0) s = .next s) ∧
  (∀ (s : State) (ga : Word) n, 2 ≤ n → ∃ t : State, exec (.scrub false ga n) s = .next t ∧ ga.toNat / 8 ∈ t.mem.poison ∧ t.ctxs = s.ctxs ∧
    Claims.sameMemory s t)

/-- R398, R399: a transaction of the host wakes the package; in recovery it has no other effect. -/
def hostHeard : Prop :=
  (∀ s : State, (s.guard.asleep = false → s.woken = s) ∧ (s.guard.asleep = true →
    s.woken = { s with guard := { s.guard with asleep := false }, links := { s.links with standby := false } })) ∧
  (∀ (s : State) seq (ga : Word) len data rec core ctx gen ticket value, s.guard.security ≠ 0 →
    exec (.hostRead seq ga len) s = .next s.woken ∧ exec (.hostWrite seq ga data) s = .next s.woken ∧ exec (.hostLaunch rec) s = .next s.woken ∧
    exec (.hostResync rec) s = .next s.woken ∧ exec (.hcallAnswer core ctx gen ticket value) s = .next s.woken)

/-- R383 to R386: host reads; a refused one is tried 64 times. -/
def hostReadsServed : Prop :=
  (∀ (s : State) seq (ga : Word) len, s.guard.security = 0 → ¬ Claims.hostBusy s ga.toNat →
    let u := s.woken
    let own := u.ownService ga.toNat
    (u.hostStatus ga.toNat true ≠ 0 ∨ ¬ Claims.refusesHost s ga.toNat → (Claims.hostDrained s ∨ own = false) → ∃ t : State,
      exec (.hostRead seq ga len) s = .next t ∧
      t.toHost = s.toHost ++ [.readData seq (u.hostReads ga.toNat len).1 (u.hostReads ga.toNat len).2] ∧
      (own = true → t.service.received = seq ∧ t.service.performed = seq) ∧ t.ctxs = s.ctxs ∧ t.mem = s.mem) ∧
    (u.hostStatus ga.toNat true = 0 → Claims.refusesHost s ga.toNat → ∃ t : State, exec (.hostRead seq ga len) s = .next t ∧
      t.service.waiting = s.service.waiting ++ [⟨seq, ga.toNat, .read len, 0⟩] ∧ t.toHost = s.toHost ∧ t.ctxs = s.ctxs ∧ t.mem = s.mem)) ∧
  (∀ (s : State) seq (ga : Word) len, s.guard.security = 0 → Claims.hostBusy s ga.toNat → ∃ t : State, exec (.hostRead seq ga len) s = .next t ∧
    t.service.waiting = s.service.waiting ++ [⟨seq, ga.toNat, .read len, 0⟩] ∧ t.toHost = s.toHost ∧ t.ctxs = s.ctxs ∧ t.mem = s.mem) ∧
  (∀ (s : State) x n, s.service.waiting = [x] → x.what = .read n → s.hostRefused x = true →
    (Config.backOffEnds s.tick = false → s.retryHost = s) ∧
    (Config.backOffEnds s.tick = true → x.tries + 1 < 64 → s.retryHost =
      { s with service := { s.service with waiting := [{ x with tries := x.tries + 1 }] } }) ∧
    (Config.backOffEnds s.tick = true → 64 ≤ x.tries + 1 → (Claims.hostDrained s ∨ s.ownService x.ga = false) →
      s.retryHost.toHost = s.toHost ++ [.readData x.seq 5 []] ∧ s.retryHost.service.waiting = [] ∧ s.retryHost.mem = s.mem)) ∧
  (∀ (s : State) (ga : Nat) len, s.hostStatus ga true = 0 →
    (gaSpace ga ≠ 2 → s.mem.poisoned (s.moved ga) len = false → s.hostReads ga len = (0, bytesOf (s.mem.read (s.moved ga) len) len)) ∧
    (gaSpace ga ≠ 2 → s.mem.poisoned (s.moved ga) len = true → s.hostReads ga len = (3, [])) ∧
    (gaSpace ga = 2 → len ≠ 8 → s.hostReads ga len = (1, [])) ∧
    (gaSpace ga = 2 → len = 8 → ∀ c sub info b, s.deviceRead ga = .fail c sub info b → s.hostReads ga len = (1, [])) ∧
    (gaSpace ga = 2 → len = 8 → s.ownDevice ga = true → ∀ v, s.deviceRead ga = .data v → s.hostReads ga len = (0, bytesOf v 8)) ∧
    (gaSpace ga = 2 → len = 8 → s.ownDevice ga = false → ga / 2 ^ 16 % 2 ^ 17 = 1 → ∀ v, s.deviceRead ga = .data v →
      s.hostReads ga len = (0, bytesOf 0 8)))

/-- R383 to R385: the status of a request, and host writes. -/
def hostWritesServed : Prop :=
  (∀ (s : State) (ga : Nat) b,
    let gone : Prop := s.hostPackage (gaPkg ga) = false ∨ (s.deadPackage (gaPkg ga)).isSome = true
    let shut : Prop := gaSpace ga ≠ 1 ∧ (s.closedAt (gaPkg ga) (gaCore ga)).isSome = true
    let off : Prop := gaSpace ga = 0 ∧ gaPkg ga = s.pkg ∧ BitVec.ofNat 7 (gaCore ga / 16) ∈ s.guard.offClusters
    let absent : Prop := gaSpace ga = 1 ∧ s.cxlAbsent ga b = true
    (gone → s.hostStatus ga b = 2) ∧ (¬ gone → shut → s.hostStatus ga b = 4) ∧ (¬ gone → ¬ shut → off → s.hostStatus ga b = 5) ∧
    (¬ gone → ¬ shut → ¬ off → absent → s.hostStatus ga b = 1) ∧ (¬ gone → ¬ shut → ¬ off → ¬ absent → s.hostStatus ga b = 0)) ∧
  (∀ (s : State) seq (ga : Word) data, s.guard.security = 0 → ¬ Claims.hostBusy s ga.toNat →
    let u := s.woken
    let st := u.hostStatus ga.toNat false
    (st ≠ 0 → (Claims.hostDrained s ∨ u.ownService ga.toNat = false) → ∃ t : State, exec (.hostWrite seq ga data) s = .next t ∧
      t.toHost = s.toHost ++ [.error seq 0 st] ∧ t.ctxs = s.ctxs ∧ t.mem = s.mem) ∧
    (st = 0 → Claims.refusesHost s ga.toNat → ∃ t : State, exec (.hostWrite seq ga data) s = .next t ∧
      t.service.waiting = s.service.waiting ++ [⟨seq, ga.toNat, .write data, 0⟩] ∧ t.toHost = s.toHost ∧ t.ctxs = s.ctxs ∧ t.mem = s.mem) ∧
    (st = 0 → ¬ Claims.refusesHost s ga.toNat → gaSpace ga.toNat = 0 → data ≠ [] → data.length ≤ 32 → ∃ t : State,
      exec (.hostWrite seq ga data) s = .next t ∧ t.ctxs = s.ctxs ∧
      ∀ a, t.mem.byte a = (s.mem.store (s.moved ga.toNat) (numbered data)).1.byte a))

/-- R351, R387 to R389: launch, resync and the answer to `hcall`. -/
def hostCommands : Prop :=
  (∀ (s : State) rec, s.guard.security = 0 →
    let u := s.woken
    let l := u.jobOf rec
    (u.launchable = false ∨ l.nx ≤ u.chassisX l.lx0 ∨ l.ny ≤ u.chassisY l.ly0 → exec (.hostLaunch rec) s = .next u) ∧
    (u.launchable = true → u.chassisX l.lx0 < l.nx → u.chassisY l.ly0 < l.ny → ∃ t : State,
      exec (.hostLaunch rec) s = .next t ∧ t.launch = l ∧ t.regs = u.launchRegs rec l ∧ t.units.dumpaddr = u.recordWord rec 8 ∧
      (t.at 0).live = true ∧ (t.at 0).status = 1 ∧ (t.at 0).pc = u.recordWord rec 0 ∧ nth (t.at 0).g 1 0 = rec ∧ t.mem = s.mem ∧
      ∀ k : Fin 11, k ≠ 0 → t.at k = s.at k)) ∧
  (∀ (s : State) a, s.guard.security = 0 →
    exec (.hostResync a) s = .next { s.woken with toHost := s.toHost ++ [.summary a (wordBytes s.woken.summary)] }) ∧
  (∀ (s : State) core (k : Fin 11) gen ticket value, s.guard.security = 0 → ¬ Claims.hostBusy s (s.sliceOf core.toNat) →
    let own := s.woken.ownService (s.sliceOf core.toNat)
    (core ≠ s.lcore ∨ (s.at k).live = false ∨ (s.at k).gen ≠ gen → ∃ t : State,
      exec (.hcallAnswer core (BitVec.ofNat 4 k.val) gen ticket value) s = .next t ∧ t.ctxs = s.ctxs ∧ t.regs = s.regs ∧ t.mem = s.mem) ∧
    (core = s.lcore → (s.at k).live = true → (s.at k).gen = gen → (s.at k).block = none → ∃ t : State,
      exec (.hcallAnswer core (BitVec.ofNat 4 k.val) gen ticket value) s = .next t ∧ (t.at k).token = true ∧
      (t.at k).hres = BitVec.ofNat 64 (ticket.toNat * 2 ^ 48 + value.toNat) ∧ (∀ j, j ≠ k → t.at j = s.at j) ∧
      (own = true → t.service.received = t.service.performed)))

/-- R384, R185: acknowledgements of the host, and the fabric manager. -/
def hostAcknowledges : Prop :=
  (∀ (s : State) id v, (∀ q ∈ s.net, q.stage ≠ .listed) →
    (s.service.unacked = 0 → exec (.hostAcknowledgement id v) s = .next s) ∧
    ∀ n, s.service.unacked = n + 1 →
      (s.service.queue = [] → exec (.hostAcknowledgement id v) s = .next { s with service := { s.service with unacked := n } }) ∧
      ∀ x, s.service.queue = [.interrupt x] →
        (n ≠ 0 → exec (.hostAcknowledgement id v) s = .next { s with service := { s.service with unacked := n } }) ∧
        (n = 0 → exec (.hostAcknowledgement id v) s =
          .next { s with toHost := s.toHost ++ [.interrupt x], service := { s.service with unacked := 0, queue := [] } })) ∧
  (∀ (s : State) (id : Nat) (v : Word) q n, (s.net.find? fun q => q.id == id && q.stage == .listed && gaSpace q.ga == 3 && q.msg.op.isSome) = some q →
    q.msg = .access (.read n) → exec (.hostAcknowledgement id v) s =
      .next { s with net := s.net.map fun r => if r.id = id then { r with stage := .replied (.data (v.toNat % 256 ^ n)) } else r }) ∧
  ∀ (s : State) port base size owner, ∃ t : State, exec (.poolRegionAssignment port base size owner) s = .next t ∧
    ⟨port, base, size, owner⟩ ∈ t.pools ∧ t.ctxs = s.ctxs ∧ t.mem = s.mem ∧
    ∀ r ∈ s.pools, r.port ≠ port → r ∈ t.pools

end Sys2Proof.Claims

/-- R158, R184, R185, R375 to R379, R382 to R389, R399, R407, R369, R28: links, failures, the dump and its restore, resets, loss of
power, the scrubber, and the host's transactions. (What the rules leave open here is settled as in
log entries 30, 31, 35, 36, 37, 49 and 105.) -/
def Obligations.LifecycleAndHost : Prop :=
  Claims.linksAndFailures ∧ Claims.jobsDumped ∧ Claims.clustersReset ∧ Claims.packagesReset ∧ Claims.hostHeard ∧
  Claims.hostReadsServed ∧ Claims.hostWritesServed ∧ Claims.hostCommands ∧ Claims.hostAcknowledges
namespace Sys2Proof.Claims

/-- R390, R393: the port while debug is locked. -/
def portLocked : Prop :=
  (∀ (s : State) (cl : BitVec 7) r (v : Word) core ctx off w ga len data va line sc tr, s.guard.debug = 0 →
    let no : Out := .next (s.woken.portAnswer 1 [])
    exec (.dbgrd cl r) s = no ∧ (r ≠ .dctl ∨ v.bit 1 = false → exec (.dbgwr cl r v) s = no) ∧
    exec (.dctlHalt cl) s = no ∧ exec (.dctlStep cl) s = no ∧ exec (.ctxrd core ctx off) s = no ∧ exec (.ctxwr core ctx off w) s = no ∧
    exec (.memrd ga len) s = no ∧ exec (.memwr ga data) s = no ∧ exec (.patch cl va line sc) s = no ∧ exec (.trace tr) s = no) ∧
  (∀ (s : State) (cl : BitVec 7), s.guard.debug = 0 → cl.toNat = s.core / 16 → cl ∉ s.guard.offClusters → s.dbg.clusterHalted = false →
    ∀ i ∈ [Instr.dctlResume cl, .dbgwr cl .dctl 2], ∃ t : State, exec i s = .next t ∧ t.toHost = s.toHost ++ [.port 0 []] ∧
      (s.dbg.halted = some .instr → t.dbg.halted = none) ∧ (s.dbg.halted ≠ some .instr → t.dbg.halted = s.dbg.halted) ∧
      (∀ x ∈ s.dbg.others, x.2 ≠ .instr → x ∈ t.dbg.others) ∧ (∀ x ∈ t.dbg.others, x.2 ≠ .instr) ∧ t.ctxs = s.ctxs ∧ t.mem = s.mem)

/-- R391 to R393, R401: the debug modules; RESUME is never refused, and a cluster without power has nothing to resume. -/
def modulesServe : Prop :=
  (∀ (s : State) (cl : BitVec 7), s.guard.debug ≠ 0 → cl.toNat = s.core / 16 → cl ∉ s.guard.offClusters →
    exec (.dbgrd cl .dctl) s = .next (s.woken.portAnswer 0 (bytesOf s.dbg.dctl.toNat 8)) ∧
    exec (.dbgrd cl .dstat) s = .next (s.woken.portAnswer 0 (bytesOf s.woken.dstat.toNat 8)) ∧
    (∀ v : Word, exec (.dbgwr cl .dstat v) s = .next (s.woken.portAnswer 0 []) ∧ ∃ t : State, exec (.dbgwr cl .dctl v) s = .next t ∧
      t.toHost = s.toHost ++ [.port 0 []] ∧ t.dbg.score = v.bits 12 4 ∧ t.dbg.xout = v.bit 8 ∧ t.dbg.xin = v.bit 7 ∧ t.dbg.brkh = v.bit 6 ∧
      t.dbg.sctx = v.bits 16 4 ∧ t.mem = s.mem ∧
      (v.bits 0 3 = 0 → t.ctxs = s.ctxs ∧ t.dbg.halted = s.dbg.halted ∧ t.dbg.clusterHalted = s.dbg.clusterHalted ∧ t.dbg.step = s.dbg.step) ∧
      (v.bits 0 3 = 1 → t.ctxs = s.ctxs ∧ t.dbg.clusterHalted = true ∧ t.dbg.halted.isSome = true ∧ t.dbg.reason = 1) ∧
      (v.bits 0 3 = 2 → t.dbg.clusterHalted = false ∧ t.dbg.halted = none ∧ t.dbg.others = []) ∧
      (v.bits 0 3 = 4 → v.bits 12 4 = s.core % 16 → t.ctxs = s.ctxs ∧ t.dbg.step = ctxOf (v.bits 16 4))) ∧
    (∃ t : State, exec (.dctlHalt cl) s = .next t ∧ t.dbg.halted.isSome ∧ t.dbg.clusterHalted = true ∧ t.dbg.reason = 1 ∧
      (∀ c < 16, c ≠ s.core % 16 → ∃ x ∈ t.dbg.others, x.1 = c) ∧ t.ctxs = s.ctxs ∧ t.mem = s.mem) ∧
    (∃ t : State, exec (.dctlResume cl) s = .next t ∧ t.dbg.halted = none ∧ t.dbg.clusterHalted = false ∧ t.dbg.others = [] ∧ t.mem = s.mem ∧
      (s.launch.preemptHeld = false → t.ctxs = s.ctxs) ∧ (s.launch.preemptHeld = true → (t.at 0).status.bit 11 = true)) ∧
    (s.dbg.score = s.core % 16 → ∃ t : State, exec (.dctlStep cl) s = .next t ∧ t.dbg.step = ctxOf s.dbg.sctx ∧ t.ctxs = s.ctxs) ∧
    (s.dbg.score ≠ s.core % 16 → ∃ t : State, exec (.dctlStep cl) s = .next t ∧ t.dbg.otherStep = some (s.dbg.score, s.dbg.sctx) ∧
      t.dbg.step = s.dbg.step ∧ t.ctxs = s.ctxs)) ∧
  (∀ (s : State) (cl : BitVec 7) r v va line sc, s.guard.debug ≠ 0 → cl ∈ s.guard.offClusters →
    let no : Out := .next (s.woken.portAnswer 1 [])
    exec (.dbgrd cl r) s = no ∧ (r ≠ .dctl ∨ v.bit 1 = false → exec (.dbgwr cl r v) s = no) ∧ exec (.dctlHalt cl) s = no ∧
    exec (.dctlStep cl) s = no ∧ exec (.patch cl va line sc) s = no) ∧
  (∀ (s : State) (cl : BitVec 7) v, cl ∈ s.guard.offClusters →
    exec (.dctlResume cl) s = .next (s.woken.portAnswer 0 []) ∧
    (v.bit 1 = true → exec (.dbgwr cl .dctl v) s = .next (s.woken.portAnswer 0 [])))

/-- R362, R369, R390, R392, R401: CTXRD and CTXWR of a context that the halt has stopped; MEMRD and MEMWR, which wait for a home that refuses
them. -/
def imagesAndMemory : Prop :=
  (∀ (s : State) (core : BitVec 11) (k : Fin 11) (off : BitVec 12), s.guard.debug ≠ 0 → core.toNat = s.core →
    (off.toNat % 8 ≠ 0 ∨ s.dbg.halted = none ∨ s.ownOff = true ∨ s.takesHalt k = false →
      exec (.ctxrd core (BitVec.ofNat 4 k.val) off) s = .next (s.woken.portAnswer 1 []) ∧
      ∀ v, exec (.ctxwr core (BitVec.ofNat 4 k.val) off v) s = .next (s.woken.portAnswer 1 [])) ∧
    ((s.at k).live = false → s.takesHalt k = false) ∧ ((s.at k).live = true → (s.at k).block = none → s.takesHalt k = true) ∧
    (∀ b, (s.at k).live = true → (s.at k).block = some b → s.takesHalt k = s.waitOver k b.wait) ∧
    (off.toNat % 8 = 0 → s.dbg.halted ≠ none → s.ownOff = false → s.takesHalt k = true →
      exec (.ctxrd core (BitVec.ofNat 4 k.val) off) s =
        .next (s.woken.portAnswer 0 (bytesOf ((s.at k).recorded.imageWord k (off.toNat / 8)).toNat 8)) ∧
      ∀ v, ∃ t : State, exec (.ctxwr core (BitVec.ofNat 4 k.val) off v) s = .next t ∧ t.toHost = s.toHost ++ [.port 0 []] ∧
        (off.toNat / 8 = 0x3F → (t.at k).pc = v) ∧ (off.toNat / 8 = 2 → (t.at k).epc = v) ∧ ∀ j, j ≠ k → t.at j = s.at j)) ∧
  (∀ (s : State) (ga : Word) len data, s.guard.debug ≠ 0 →
    (len < 8 ∨ 256 < len → exec (.memrd ga len) s = .next (s.woken.portAnswer 1 [])) ∧
    (8 ≤ len → len ≤ 256 →
      let u := s.woken
      let refused : Prop := Claims.portBusy s ∨ (u.hostStatus ga.toNat true = 0 ∧ Claims.refusesHost s ga.toNat)
      (refused → ∃ t : State, exec (.memrd ga len) s = .next t ∧ t.service.waiting = s.service.waiting ++ [⟨0, ga.toNat, .portRead len, 0⟩] ∧
        t.toHost = s.toHost ∧ t.ctxs = s.ctxs ∧ t.mem = s.mem) ∧
      (¬ refused → ∃ t : State, exec (.memrd ga len) s = .next t ∧
        t.toHost = s.toHost ++ [.port (portStatus (u.hostReads ga.toNat len).1) (u.hostReads ga.toNat len).2] ∧ t.ctxs = s.ctxs ∧ t.mem = s.mem)) ∧
    (data.length < 8 ∨ 256 < data.length → exec (.memwr ga data) s = .next (s.woken.portAnswer 1 [])) ∧
    (8 ≤ data.length → data.length ≤ 256 →
      let st := s.woken.hostStatus ga.toNat false
      let refused : Prop := Claims.portBusy s ∨ (st = 0 ∧ Claims.refusesHost s ga.toNat)
      (refused → ∃ t : State, exec (.memwr ga data) s = .next t ∧ t.service.waiting = s.service.waiting ++ [⟨0, ga.toNat, .portWrite data, 0⟩] ∧
        t.toHost = s.toHost ∧ t.ctxs = s.ctxs ∧ t.mem = s.mem) ∧
      (¬ refused → st ≠ 0 → exec (.memwr ga data) s = .next (s.woken.portAnswer (portStatus st) [])) ∧
      (¬ refused → st = 0 → data.length ≤ 32 → gaSpace ga.toNat = 0 → ∃ t : State,
        exec (.memwr ga data) s = .next t ∧ t.ctxs = s.ctxs ∧ ∀ a, t.mem.byte a = (s.mem.store (s.moved ga.toNat) (numbered data)).1.byte a)))

/-- R395, R396: PATCH and TRACE. -/
def patchesAndTraces : Prop :=
  (∀ (s : State) (cl : BitVec 7) (va : Word) line (sc : BitVec 4), s.guard.debug ≠ 0 → cl ∉ s.guard.offClusters →
    (s.patchPlace cl va = none → exec (.patch cl va line sc) s = .next (s.woken.portAnswer 1 [])) ∧
    ∀ e ga, s.patchPlace cl va = some (e, ga) →
      (e.testBit 6 = true → exec (.patch cl va line sc) s = .next (s.woken.portAnswer 2 [])) ∧
      let refused : Prop := Claims.portBusy s ∨ (s.woken.hostStatus ga false = 0 ∧ Claims.refusesHost s ga)
      (e.testBit 6 = false → refused → ∃ t : State, exec (.patch cl va line sc) s = .next t ∧ t.toHost = s.toHost ∧ t.mem = s.mem ∧
        t.service.waiting = s.service.waiting ++ [⟨0, ga, .portPatch cl va line sc.toNat, 0⟩] ∧ t.ctxs = s.ctxs) ∧
      (e.testBit 6 = false → ¬ refused → s.woken.hostStatus ga false ≠ 0 → exec (.patch cl va line sc) s = .next (s.woken.portAnswer 1 [])) ∧
      (e.testBit 6 = false → ¬ refused → s.woken.hostStatus ga false = 0 → (s.mem.store (s.moved ga) (numbered (line.take 64))).2 = .data 0 → ∃ t : State,
        exec (.patch cl va line sc) s = .next t ∧ t.toHost = s.toHost ∧ t.ctxs = s.ctxs ∧
        (∃ q : Request, t.net = s.net ++ [q] ∧ ∃ scope, q.msg = .patch cl (BitVec.ofNat 64 (va.toNat / 64 * 64)) scope) ∧
        ∀ a, t.mem.byte a = (s.mem.store (s.moved ga) (numbered (line.take 64))).1.byte a)) ∧
  (∀ (s : State) lcore ctx gen buf log2 mask period, s.guard.debug ≠ 0 → lcore = s.lcore →
    (s.incarnation ctx gen = none ∨ s.ownOff = true ∨ bufferOk buf log2 = false →
      exec (.trace (.openSession lcore ctx gen buf log2 mask period)) s = .next (s.woken.portAnswer 1 [])) ∧
    (s.traceCluster lcore = some (s.core / 16) → 16 ≤ s.dbg.sessions.length →
      exec (.trace (.openSession lcore ctx gen buf log2 mask period)) s = .next (s.woken.portAnswer 1 [])) ∧
    (s.incarnation ctx gen ≠ none → s.ownOff = false → bufferOk buf log2 = true → s.traceCluster lcore = some (s.core / 16) → s.dbg.sessions.length < 16 →
      ∃ t : State,
      exec (.trace (.openSession lcore ctx gen buf log2 mask period)) s = .next t ∧ t.toHost = s.toHost ++ [.port 0 []] ∧
      t.dbg.sessions.length = s.dbg.sessions.length + 1 ∧ t.ctxs = s.ctxs ∧ t.mem = s.mem)) ∧
  (∀ (s : State) (k : Fin 11), ∃ t : State, exec (.traceSample k.val) s = .next t ∧ t.ctxs = s.ctxs ∧ t.mem = s.mem ∧
    ∀ (n : Nat) (x : Session), s.dbg.sessions[n]? = some x →
      let due : Prop := x.lcore = s.lcore ∧ x.ctx.toNat = k.val ∧ x.gen = (s.at k).gen ∧ x.period ≠ 0 ∧ x.period ≤ s.units.coreCycles - x.last
      let rec4 : Word × Word := (BitVec.ofNat 64 (4 * 2 ^ 60 + k.val * 2 ^ 56 + s.units.pcyc.toNat % 2 ^ 56), (s.at k).pc)
      (¬ due → t.dbg.sessions[n]? = some x) ∧ (due → t.dbg.sessions[n]? = some { x with
        last := s.units.coreCycles, staged := x.staged ++ if x.mask.getLsbD 4 then [rec4] else [] }))

/-- R390, R400, R402: CHAL, UNLOCK, RELOCK and ATTEST. -/
def tokensAndReports : Prop :=
  (∀ s : State, ∃ t : State, exec .chal s = .next t ∧ t.guard.nonce = some (bytesOf (Config.nonce s.guard.challenges).toNat 32) ∧
    t.guard.challenges = s.guard.challenges + 1 ∧ t.toHost = s.toHost ++ [.port 0 (bytesOf (Config.nonce s.guard.challenges).toNat 32)]) ∧
  (∀ (s : State) token, ∃ t : State, exec (.unlock token) s = .next t ∧ t.guard.nonce = none ∧
    (s.tokenGrants token = none → t.guard.debug = s.guard.debug ∧ t.toHost = s.toHost ++ [.port 1 []] ∧ t.mem = s.mem) ∧
    ∀ d, s.tokenGrants token = some d → t.guard.debug = d ∧ t.toHost = s.toHost ++ [.port 0 []] ∧
      (d = 2 → ∀ a, gaSpace a = 0 → gaPkg a = s.pkg → t.mem.byte a = 0)) ∧
  (∀ s : State, ∃ t : State, exec .relock s = .next t ∧ t.guard.debug = 0 ∧ t.toHost = s.toHost ++ [.port 0 []] ∧ t.ctxs = s.ctxs) ∧
  (∀ (s : State) n, (n.length ≠ 32 → exec (.attest n) s = .next (s.woken.portAnswer 1 [])) ∧
    (n.length = 32 →
      let signature := (List.range 29792).map (Config.signature (s.woken.report n))
      exec (.attest n) s = .next (s.woken.portAnswer 0 (s.woken.report n ++ signature)) ∧
      (s.woken.report n).length = 184 ∧ (s.woken.report n ++ signature).length = 29976))

/-- R403, R405, R407: PWRLIM, LIFE, the headroom and the cap. -/
def powerManaged : Prop :=
  (∀ (s : State) w, (1000 ≤ w ∧ w ≤ 3000 → ∃ t : State, exec (.pwrlim w) s = .next t ∧ t.guard.pwrlim = w ∧
      t.toHost = s.toHost ++ [.port 0 []]) ∧ (¬ (1000 ≤ w ∧ w ≤ 3000) → exec (.pwrlim w) s = .next (s.woken.portAnswer 1 []))) ∧
  (∀ s : State, exec .life s = .next (s.woken.portAnswer 0 (wordBytes s.guard.lifetime))) ∧
  (∀ s : State, (s.guard.security ≠ 0 → exec .powerManagerTick s = .next s) ∧
    (s.guard.security = 0 → ∃ t : State, exec .powerManagerTick s = .next t ∧ t.ctxs = s.ctxs ∧ t.mem = s.mem ∧
      (s.regs.forecast.bits 16 8 + s.regs.forecast.bits 0 16 ≠ 0 →
        ∃ sum, s.regs.forecast.bits 16 8 + s.regs.forecast.bits 0 16 ≤ sum ∧ t.guard.headroom = Config.headroomOf sum)) ∧
    (s.guard.capped = true → exec .powerCap s = .next s) ∧
    (s.guard.capped = false → ∃ t : State, exec .powerCap s = .next t ∧ t.guard.capped = true ∧ t.ctxs = s.ctxs) ∧
    ∃ t : State, exec .powerCapLift s = .next t ∧ t.guard.capped = false ∧ t.ctxs = s.ctxs)

/-- R398: routers, clusters and the package. -/
def powerStates : Prop :=
  (∀ (s : State) r, ∃ t u : State, exec (.routerPowerGate r) s = .next t ∧ r ∈ t.guard.gatedRouters ∧ exec (.routerWake r) s = .next u ∧
    r ∉ u.guard.gatedRouters ∧ t.ctxs = s.ctxs ∧ u.ctxs = s.ctxs ∧ t.mem = s.mem ∧ u.mem = s.mem) ∧
  (∀ (s : State) (c : BitVec 7),
    (s.launch.state ≠ 0 → s.launch.state ≠ 5 → c ∉ s.guard.closedClusters → exec (.clusterPowerOff c) s = .next s) ∧
    (let ends (t : State) : Prop := (c.toNat ≠ s.core / 16 → t.ctxs = s.ctxs ∧ t.regs = s.regs ∧ t.mem = s.mem) ∧
        (c.toNat = s.core / 16 → t.ctxs = State.reset.ctxs ∧ t.regs = State.reset.regs ∧ t.eng = State.reset.eng ∧ t.mx = State.reset.mx ∧
          t.drone = State.reset.drone ∧ t.dbg = State.reset.dbg);
      (s.launch.state = 0 ∨ s.launch.state = 5 → ∃ t : State, exec (.clusterPowerOff c) s = .next t ∧
        c ∈ t.guard.offClusters ∧ t.guard.failedClusters = s.guard.failedClusters ∧ ends t) ∧
      (s.launch.state ≠ 0 → s.launch.state ≠ 5 → c ∈ s.guard.closedClusters → exec (.clusterPowerOff c) s = .next s ∨ ∃ t : State,
        exec (.clusterPowerOff c) s = .next t ∧ c ∈ t.guard.offClusters ∧ c ∈ t.guard.failedClusters ∧ ends t)) ∧
    (s.guard.security ≠ 0 → exec (.clusterPowerOn c) s = .next s) ∧
    (c ∉ s.guard.offClusters → exec (.clusterPowerOn c) s = .next s) ∧
    (c ∈ s.guard.offClusters → s.guard.asleep = false → s.guard.security = 0 → ∃ t : State, exec (.clusterPowerOn c) s = .next t ∧ c ∉ t.guard.offClusters ∧
      (c.toNat = s.core / 16 → t.ctxs = State.reset.ctxs ∧ t.regs = State.reset.regs) ∧
      (c.toNat ≠ s.core / 16 → t.ctxs = s.ctxs ∧ t.regs = s.regs))) ∧
  (∀ s : State, (s.launch.state ≠ 0 → s.launch.state ≠ 5 → exec .packageSleep s = .next s) ∧
    (s.launch.state = 0 ∨ s.launch.state = 5 → ∃ t : State, exec .packageSleep s = .next t ∧ t.guard.asleep = true ∧ t.guard.debug = 0 ∧
      t.links.standby = true ∧ t.ctxs = State.reset.ctxs ∧ t.regs = State.reset.regs ∧ ∀ c : BitVec 7, c ∈ t.guard.offClusters) ∧
    exec .packageWake s = .next s.woken)

/-- R43, R399, R400, R406, R407: the lifetime block, firmware and ownership; an opcode that is no instruction. -/
def countersAndFirmware : Prop :=
  (∀ s : State, s.guard.hours ≠ BitVec.allOnes 64 → ∃ t : State, exec .lifetimeHoursWrite s = .next t ∧ t.guard.hours = s.guard.hours + 1 ∧
    t.guard.lifetime.length = s.guard.lifetime.length ∧ t.ctxs = s.ctxs) ∧
  (∀ s : State, ∃ t : State, exec .lifetimeCounterWrite s = .next t ∧ t.guard.lifetime.length = 64 ∧ t.guard.lifetime[43]? = some s.guard.interventions ∧
    t.guard.lifetime[44]? = some s.guard.clusterResets ∧ t.guard.lifetime[45]? = some s.guard.packageFailures ∧ t.ctxs = s.ctxs) ∧
  (∀ (s : State) i data, (s.guard.security = 0 → exec (.bootFlashImageWrite i data) s = .next (s.woken.portAnswer 1 [])) ∧
    (s.guard.security ≠ 0 → ∃ t : State, exec (.bootFlashImageWrite i data) s = .next t ∧ (i, data) ∈ t.guard.bootImages ∧
      t.toHost = s.toHost ++ [.port 0 []])) ∧
  (∀ (s : State) r, (Config.recordSigned r = false → exec (.ownershipRecord r) s = .next s) ∧
    (Config.recordSigned r = true → ∃ t : State, exec (.ownershipRecord r) s = .next t ∧ t.guard.ownerKey = bytesOf (Config.recordKey r).toNat 64)) ∧
  ∀ (s : State) op, exec (.illop op) s = .next (s.raise ⟨1, 0, none, op.zeroExtend 64, none⟩)

end Sys2Proof.Claims

/-- R390 to R407, R43, R45: the management port. Locked, the debug commands answer 1 and do nothing; unlocked, they halt, step,
read and write. Unlocking and attestation, power and the lifetime block; and an opcode that is no instruction traps. (What the rules leave open here is settled as in
log entries 40, 41, 42, 45 and 47.) -/
def Obligations.DebugAndPower : Prop :=
  Claims.portLocked ∧ Claims.modulesServe ∧ Claims.imagesAndMemory ∧ Claims.patchesAndTraces ∧ Claims.tokensAndReports ∧
  Claims.powerManaged ∧ Claims.powerStates ∧ Claims.countersAndFirmware

/-! ### Words, fetch and step -/

/-- R36, R42, R129, R153, R188, R212, R232, R258, R294, R317: worked encodings of the specification decode to their instructions,
and words it calls no instruction are refused with the reason of R45. -/
def Obligations.DecodeWords : Prop :=
  decode 0x0040 0 = .ok .nop ∧ decode 0x1240 0 = .ok .halt ∧ decode 0x480A 0x2890 = .ok (.add 10 10 9) ∧
  decode 0x480A 0x2891 = .ok (.sub 10 10 9) ∧ decode 0x480A 0x9090 = .ok (.add 10 36 9) ∧
  decode 0x4C09 0x27FF = .ok (.addi 9 9 0x3FF) ∧ decode 0x9089 0x03FFFFFE = .ok (.bnz 9 0x3FFFFFE) ∧
  decode 0x94C5 0x10308700 = .ok (.fma 5 4 3 2 7) ∧ decode 0x9647 0x10300100 = .ok (.fcmp 7 4 3 1) ∧
  decode 0xB803 0x18400040 = .ok (.vld 3 6 0 2 64) ∧ decode 0xA145 0x18700003 = .ok (.amoAdd 5 6 7 3 false) ∧
  decode 0x6440 0x0004 = .ok (.bar 4) ∧ decode 0xE841 0x8601434100000001 = .ok (.mzero 1 ⟨true, 12, 2, true, 13, 1⟩) ∧
  decode 0xADC0 0x000C0002 = .ok (.sinc 3 2) ∧ decode 0x7505 0x1800 = .ok (.qsteal 5 6) ∧
  decode 0xE841 0x0600000000000001 = .error .reservedField ∧ decode 0x0801 0 = .error .tailClass

/-- R29, R35 to R37: the encoder's code fits its head and tail class, and decoding it gives the instruction back, for every
well-formed instruction that has an encoding, with every operand. -/
def Obligations.EncodeDecode : Prop :=
  ∀ (i : Instr) (c : Code), i.wf = true → i.encode = some c →
    decode c.head c.tail = .ok i ∧ c.head < 2 ^ 16 ∧ c.bytes = tailBytes (c.head / 2 ^ 14) ∧ c.tail < 2 ^ (8 * c.bytes)

/-- R29 to R31, R33, R43 to R45: an unassigned opcode is `illop` whatever its tail class, then a wrong tail class is refused, and what
decodes is well formed; and what fetching comes to, in the order of R44: the translation's trap, poison, a line that is not well
formed, an address that is no head, a `start` in a helper, and the decoder's refusal; else the instruction of the head at the PC,
with its tail. The line is the one the context executes, or, for a follower in a gang, its leader's (R63: log entry 87). -/
def Obligations.FetchChecks : Prop :=
  (∀ head tail : Nat,
    (opcodeAssigned (BitVec.ofNat 8 (head / 64)) = false → decode head tail = .ok (.illop (BitVec.ofNat 8 (head / 64)))) ∧
    (opcodeAssigned (BitVec.ofNat 8 (head / 64)) = true →
      head / 16384 % 4 ≠ (opcodeFormat (head / 64 % 256)).tc → decode head tail = .error .tailClass) ∧
    ∀ i, decode head tail = .ok i → i.wf = true) ∧
  (∀ (s : State) (k : Fin 11) t, s.leaderLine k = none → (s.at k).line = none → s.fetchLine k (s.at k).pc = .error t → s.fetchNext k = .trap none none t) ∧
  ∀ (s : State) (k : Fin 11) (l : Line) (x : Option Xlate),
    (s.leaderLine k = some l ∧ x = none ∨ s.leaderLine k = none ∧ (s.at k).line = some l ∧ x = none ∨
      s.leaderLine k = none ∧ (s.at k).line = none ∧ ∃ y, x = some y ∧ s.fetchLine k (s.at k).pc = .ok (y, l)) →
    let n := ((s.at k).pc.toNat % 64 - 2) / 2
    let op := lineHead l.bytes n / 64 % 256
    (∀ r, lineFault l.bytes = some r → s.fetchNext k = .trap (some l) x ⟨5, 0, some l.va, BitVec.ofNat 64 r, none⟩) ∧
    (lineFault l.bytes = none →
      (isHead (s.at k).pc l.heads = false → s.fetchNext k = .trap (some l) x ⟨4, 0, some (s.at k).pc, 0, none⟩) ∧
      (isHead (s.at k).pc l.heads = true →
        (op = 0x10 ∧ k ≠ 0 → s.fetchNext k = .trap (some l) x ⟨1, 0, none, 0x10, none⟩) ∧
        (¬ (op = 0x10 ∧ k ≠ 0) →
          (∀ i, decode (lineHead l.bytes n) (lineTail l.bytes n) = .ok i → s.fetchNext k = .instr l x i) ∧
          (∀ e, decode (lineHead l.bytes n) (lineTail l.bytes n) = .error e →
            s.fetchNext k = .trap (some l) x ⟨2, 0, none, BitVec.ofNat 64 (op * 256 + e.reason), none⟩))))

namespace Sys2Proof.Claims

/-- R58: the first choice of a step comes to `r`: that is the step, unless a stall holds the instruction and the choice passes on. -/
def comesTo (s : State) (k : Fin 11) (r : Out) : Prop :=
  ((∀ t, r = .next t → t.stalled = false) → step s = r) ∧ ∀ t, r = .next t → t.stalled = true → step s = t.issueFrom 10 [k]

/-- R393: an attempt of a context that only blocks, its instruction not issued, leaves the debug module's STEP standing. -/
def stepKept (t : State) (k : Fin 11) (d : Debug) : State :=
  if d.step = some k ∧ (∃ b, (t.at k).block = some b ∧ b.wait.issued = false) then { t with dbg := d } else t

/-- R312, R314, R341, R344, R392: which interrupt reaches a context now, by its state and its block, and what taking it saves: the
pending bit is cleared, EPC is the next instruction, or the one after a `wfi` or an `exit`. -/
def interruptsReach : Prop :=
  (∀ (s : State) k,
    let c := s.at k
    let r := s.interruptOf k
    let due : Option Nat := if c.status.bit 4 then none else if c.status.bit 11 && !s.dbg.clusterHalted then some 32
      else if c.status.bit 2 && c.status.bit 9 then some 22 else if c.status.bit 2 && c.status.bit 10 then some 33 else none
    (c.live = false → r = none) ∧
    (c.live = true → c.spec = [] → c.block = none → r = due) ∧
    (c.spec ≠ [] → ∀ cause, r = some cause → cause = 32 ∧ due = some 32) ∧
    ∀ w n l, c.live = true → c.spec = [] → c.block = some ⟨w, n, l⟩ →
      (w = .park ∨ (∃ a b, w = .sem a b) ∨ (∃ m, w = .semMrd m) ∨ (∃ q, w = .queue q) ∨ (∃ h, w = .chanIn h) ∨ (∃ h, w = .chanOut h) ∨
        (∃ q, w = .stage q) ∨ (∃ q, w = .cmdFull q) ∨ (∃ a b d, w = .cwait a b d) ∨ (∃ e x, w = .order e x) ∨ (∃ b a, w = .matrix b a) ∨
        w = .idle ∨ w = .wfi → r = due) ∧
      ((∃ x v, w = .bar x v) ∨ (∃ v, w = .cred v) → r = if due = some 32 ∧ s.quiet k = true then some 32 else none) ∧
      (∀ ids got a, w = .fe ids got a → r = some 32 → due = some 32 ∧ got = [] ∧ s.cancellable ids = true) ∧
      ((∃ a b d e, w = .outstanding a b d e) ∨ (∃ v, w = .drain v) ∨ w = .exitReplies ∨ (∃ a b d, w = .reply a b d) → r = none)) ∧
  ∀ (s : State) k, ∀ x ∈ [(32, 11), (22, 9), (33, 10)], (s.at k).live = true → (s.at k).spec = [] →
    let u := (s.takeInterrupt k x.1).at k
    u.epc = (match (s.at k).block with | some ⟨.idle, _, _⟩ => (s.at k).next | some ⟨.wfi, _, _⟩ => (s.at k).next | _ => (s.at k).pc) ∧
    u.faddr = 0 ∧ u.finfo = 0 ∧ u.cause.bits 0 8 = x.1 ∧ u.cause.bit 63 = true ∧ u.cause.bit 62 = false ∧ u.status.bit x.2 = false ∧
    u.status.bit 0 = true ∧ u.status.bit 1 = (s.at k).status.bit 0 ∧ u.status.bit 2 = false ∧ u.status.bit 3 = (s.at k).status.bit 2 ∧
    u.status.bit 4 = true ∧ u.pc = s.regs.tvec ∧ u.block = none

end Sys2Proof.Claims

/-- A step is a move of one agent after time has passed. With one move possible it is that one: the event, or the issue of the
context the pipeline chooses, which runs the instruction that its PC's bytes decode to; where a stall holds that instruction the
choice passes on among the others (R58), and an interrupt that reaches the context comes first (R344). With none, only time passes; with several, it is one of them (the model's choice: one
agent moves at a time). An issue while tests of a cycle's semaphores are due is of the next cycle, once they are made (R38, R58). (What the rules leave open here is settled as in
log entries 6, 7 and 94.) -/
def Obligations.StepRunsDecoded : Prop :=
  (∀ (s : State) i l, s.inbox = i :: l → s.clock.enabled = [] → s.clock.chosen = none →
    step s = exec i { s.clock with inbox := l }) ∧
  (∀ (s : State) i, s.inbox = [] → s.clock.enabled = [i] → s.clock.chosen = none → step s = exec i s.clock) ∧
  (∀ s : State, s.inbox = [] → s.clock.enabled = [] → s.clock.chosen = none → step s = .next s.clock) ∧
  (∀ (s : State) (k : Fin 11), s.inbox = [] → s.clock.enabled = [] → s.clock.chosen = some k →
    let c := if s.clock.dueSems = [] then s.clock else s.clock.passCycles 1
    (∀ cause, c.interruptOf k = some cause → Claims.comesTo s k (.next ((c.takeInterrupt k cause).stepped k))) ∧
    (c.interruptOf k = none →
      let u := c.turnOf k
      (∀ l x i, u.fetchNext k = .instr l x i →
        let o := exec i (((u.fetchedLine k l x).keepEarly i (l.opcode (u.at k).pc)).modifyAt k fun c => { c with vectoring := false })
        (c.dbg.step ≠ some k → Claims.comesTo s k o) ∧
        ∀ t, o = .next t → Claims.comesTo s k (.next (Claims.stepKept t k c.dbg))) ∧
      (∀ l x t, u.fetchNext k = .trap l x t → Claims.comesTo s k (.next (Claims.stepKept (u.fetchTrap k l x t) k c.dbg))))) ∧
  Claims.interruptsReach ∧
  (∀ (s : State) n l, s.chosenOf l = none → s.issueFrom n l = .next s) ∧
  ∀ s : State, ∃ m, step s = s.clock.make m ∧
    ∀ x, m = some x → x = .outside ∧ s.inbox ≠ [] ∨ (∃ i ∈ s.clock.enabled, x = .unit i) ∨ ∃ k, s.clock.chosen = some k ∧ x = .issue k

/-- Every step keeps the memory and the scratchpad in their canonical form, from every state in which they have it. -/
def Obligations.StepKeepsMemory : Prop :=
  ∀ s t : State, s.mem.wf = true ∧ cellsWf s.spad.cells = true → step s = .next t → t.mem.wf = true ∧ cellsWf t.spad.cells = true

/-- R53, R55, R165, R201, R208, R214, R236, R254, R239, R59, R158, R337: the state right after reset, in what the specification
gives: context 0 live at level 1 with four granules of each kind, the helpers free; every register with a stated reset value
at that value; home memory zero and full; nothing queued, in flight or launched. (What the rules leave open here is settled as in
log entries 2 and 3.) -/
def Obligations.ResetState : Prop :=
  let s := State.reset
  (∀ k : Fin 11, (s.at k).live = (k == 0) ∧ (s.at k).gen = 0 ∧ (s.at k).pri = 0 ∧ (s.at k).sn = (if k = 0 then 4 else 0) ∧
    (s.at k).vn = (if k = 0 then 4 else 0) ∧ (s.at k).gang = none ∧ (s.at k).block = none ∧ (s.at k).token = false ∧
    (s.at k).status = (if k = 0 then 1 else 0) ∧ (s.at k).cause = 0 ∧ (s.at k).epc = 0 ∧ (s.at k).faddr = 0 ∧ (s.at k).finfo = 0 ∧
    (s.at k).frm = 0 ∧ (s.at k).vstart = 0 ∧ (s.at k).ctimeo = 1000000 ∧ (s.at k).spec = [] ∧ (s.at k).hold = []) ∧
  s.regs.rnrbase = 100 ∧ s.regs.rnrlim = 64 ∧ s.regs.barcfg = 0x11111111 ∧ s.regs.chmode = 0 ∧ s.regs.gdivcnt = 0 ∧ s.regs.ptb = 0 ∧
  (∀ t : Fin 8, s.regs.tshape[t] = 0x22040) ∧ (∀ a : Fin 4, s.regs.acfg[a] = 0) ∧ s.units.clkrate = 1250 ∧
  s.units.rampup = 0x7777777777777731 ∧ s.units.rampdn = 0x7777777777777731 ∧ s.units.pcyc = 0 ∧
  (∀ n : Fin 256, s.sems[n] = 0) ∧ (∀ n : Fin 64, ∀ w : Fin 16, s.eng.layouts[n][w] = 0) ∧ (∀ q : Fin 4, s.eng.ret[q] = []) ∧
  s.dueSems = [] ∧ s.early = [] ∧ s.replicas = [] ∧ s.owed = [] ∧ s.rnrs = [] ∧ s.stalled = false ∧ s.mx.queue = [] ∧ s.eng.copy = [] ∧ s.eng.gather = [] ∧ s.eng.event = [] ∧ s.eng.kicks = [] ∧ s.drone.pending = [] ∧ s.net = [] ∧ s.groups = [] ∧
  s.launch.state = 0 ∧ s.guard.debug = 0 ∧
  (∀ a, s.mem.byte a = 0 ∧ s.mem.full a = true ∧ s.mem.isSealed a = false) ∧ s.mem.wf = true ∧ cellsWf s.spad.cells = true
end

