-- ==== Sys2Proof/Laws/Arms.lean ====
section
/-!
SUPPORT. The arms of `exec`, one equation each.
-/

namespace Sys2Proof.Machine

@[simp] theorem exec_nop : ∀ s, exec .nop s = execNop s := fun _ => rfl
@[simp] theorem exec_trap : ∀ a code s, exec (.trap a code) s = execTrap a code s := fun _ _ _ => rfl
@[simp] theorem exec_sysc : ∀ code s, exec (.sysc code) s = execSysc code s := fun _ _ => rfl
@[simp] theorem exec_rte : ∀ s, exec .rte s = execRte s := fun _ => rfl
@[simp] theorem exec_rdc : ∀ d n s, exec (.rdc d n) s = execRdc d n s := fun _ _ _ => rfl
@[simp] theorem exec_wrc : ∀ a n s, exec (.wrc a n) s = execWrc a n s := fun _ _ _ => rfl
@[simp] theorem exec_wrcStatus : ∀ a s, exec (.wrcStatus a) s = execWrcStatus a s := fun _ _ => rfl
@[simp] theorem exec_wrcFrm : ∀ a s, exec (.wrcFrm a) s = execWrcFrm a s := fun _ _ => rfl
@[simp] theorem exec_wrcDtime : ∀ a s, exec (.wrcDtime a) s = execWrcDtime a s := fun _ _ => rfl
@[simp] theorem exec_wrcChmode : ∀ a s, exec (.wrcChmode a) s = execWrcChmode a s := fun _ _ => rfl
@[simp] theorem exec_wrcBarcfg : ∀ a s, exec (.wrcBarcfg a) s = execWrcBarcfg a s := fun _ _ => rfl
@[simp] theorem exec_wrcSemstat : ∀ a s, exec (.wrcSemstat a) s = execWrcSemstat a s := fun _ _ => rfl
@[simp] theorem exec_wrcTshape : ∀ a t s, exec (.wrcTshape a t) s = execWrcTshape a t s := fun _ _ _ => rfl
@[simp] theorem exec_wrcAcfg : ∀ a k s, exec (.wrcAcfg a k) s = execWrcAcfg a k s := fun _ _ _ => rfl
@[simp] theorem exec_wrcEtcfg : ∀ a s, exec (.wrcEtcfg a) s = execWrcEtcfg a s := fun _ _ => rfl
@[simp] theorem exec_wrcForecast : ∀ a s, exec (.wrcForecast a) s = execWrcForecast a s := fun _ _ => rfl
@[simp] theorem exec_wrcRampup : ∀ a s, exec (.wrcRampup a) s = execWrcRampup a s := fun _ _ => rfl
@[simp] theorem exec_wrcRampdn : ∀ a s, exec (.wrcRampdn a) s = execWrcRampdn a s := fun _ _ => rfl
@[simp] theorem exec_tlbinv : ∀ a b s0 s, exec (.tlbinv a b s0) s = execTlbinv a b s0 s := fun _ _ _ _ => rfl
@[simp] theorem exec_tlbinvAll : ∀ s0 s, exec (.tlbinvAll s0) s = execTlbinvAll s0 s := fun _ _ => rfl
@[simp] theorem exec_wfi : ∀ s, exec .wfi s = execWfi s := fun _ => rfl
@[simp] theorem exec_hcall : ∀ d a b s, exec (.hcall d a b) s = execHcall d a b s := fun _ _ _ _ => rfl
@[simp] theorem exec_migr : ∀ d a b se x s, exec (.migr d a b se x) s = execMigr d a b se x s := fun _ _ _ _ _ _ => rfl
@[simp] theorem exec_ssave : ∀ d a b s, exec (.ssave d a b) s = execSsave d a b s := fun _ _ _ _ => rfl
@[simp] theorem exec_ssaveCore : ∀ d b s, exec (.ssaveCore d b) s = execSsaveCore d b s := fun _ _ _ => rfl
@[simp] theorem exec_ssaveAck : ∀ d s, exec (.ssaveAck d) s = execSsaveAck d s := fun _ _ => rfl
@[simp] theorem exec_srest : ∀ d a b s, exec (.srest d a b) s = execSrest d a b s := fun _ _ _ _ => rfl
@[simp] theorem exec_srestCore : ∀ d b s, exec (.srestCore d b) s = execSrestCore d b s := fun _ _ _ => rfl
@[simp] theorem exec_resync : ∀ d a s, exec (.resync d a) s = execResync d a s := fun _ _ _ => rfl
@[simp] theorem exec_start : ∀ d a b n v p s, exec (.start d a b n v p) s = execStart d a b n v p s := fun _ _ _ _ _ _ _ => rfl
@[simp] theorem exec_startNb : ∀ d a b n v p s, exec (.startNb d a b n v p) s = execStartNb d a b n v p s := fun _ _ _ _ _ _ _ => rfl
@[simp] theorem exec_startAt : ∀ d a b c n v p s, exec (.startAt d a b c n v p) s = execStartAt d a b c n v p s := fun _ _ _ _ _ _ _ _ => rfl
@[simp] theorem exec_startAtNb : ∀ d a b c n v p s, exec (.startAtNb d a b c n v p) s = execStartAtNb d a b c n v p s := fun _ _ _ _ _ _ _ _ => rfl
@[simp] theorem exec_exit : ∀ s, exec .exit s = execExit s := fun _ => rfl
@[simp] theorem exec_cwait : ∀ d a s, exec (.cwait d a) s = execCwait d a s := fun _ _ _ => rfl
@[simp] theorem exec_yield : ∀ s, exec .yield s = execYield s := fun _ => rfl
@[simp] theorem exec_park : ∀ s, exec .park s = execPark s := fun _ => rfl
@[simp] theorem exec_wake : ∀ a s, exec (.wake a) s = execWake a s := fun _ _ => rfl
@[simp] theorem exec_grow : ∀ d n v s, exec (.grow d n v) s = execGrow d n v s := fun _ _ _ _ => rfl
@[simp] theorem exec_growNb : ∀ d n v s, exec (.growNb d n v) s = execGrowNb d n v s := fun _ _ _ _ => rfl
@[simp] theorem exec_shrink : ∀ n v s, exec (.shrink n v) s = execShrink n v s := fun _ _ _ => rfl
@[simp] theorem exec_allot : ∀ d a s, exec (.allot d a) s = execAllot d a s := fun _ _ _ => rfl
@[simp] theorem exec_gangQuad : ∀ d a s, exec (.gangQuad d a) s = execGangQuad d a s := fun _ _ _ => rfl
@[simp] theorem exec_gangClus : ∀ d a s, exec (.gangClus d a) s = execGangClus d a s := fun _ _ _ => rfl
@[simp] theorem exec_gangFormed : ∀ s, exec .gangFormed s = execGangFormed s := fun _ => rfl
@[simp] theorem exec_split : ∀ s, exec .split s = execSplit s := fun _ => rfl
@[simp] theorem exec_prio : ∀ d a s, exec (.prio d a) s = execPrio d a s := fun _ _ _ => rfl
@[simp] theorem exec_add : ∀ d a b s, exec (.add d a b) s = execAdd d a b s := fun _ _ _ _ => rfl
@[simp] theorem exec_sub : ∀ d a b s, exec (.sub d a b) s = execSub d a b s := fun _ _ _ _ => rfl
@[simp] theorem exec_mul : ∀ d a b s, exec (.mul d a b) s = execMul d a b s := fun _ _ _ _ => rfl
@[simp] theorem exec_mulh : ∀ d a b s, exec (.mulh d a b) s = execMulh d a b s := fun _ _ _ _ => rfl
@[simp] theorem exec_mulhu : ∀ d a b s, exec (.mulhu d a b) s = execMulhu d a b s := fun _ _ _ _ => rfl
@[simp] theorem exec_div : ∀ d a b s, exec (.div d a b) s = execDiv d a b s := fun _ _ _ _ => rfl
@[simp] theorem exec_divu : ∀ d a b s, exec (.divu d a b) s = execDivu d a b s := fun _ _ _ _ => rfl
@[simp] theorem exec_rem : ∀ d a b s, exec (.rem d a b) s = execRem d a b s := fun _ _ _ _ => rfl
@[simp] theorem exec_remu : ∀ d a b s, exec (.remu d a b) s = execRemu d a b s := fun _ _ _ _ => rfl
@[simp] theorem exec_and : ∀ d a b s, exec (.and d a b) s = execAnd d a b s := fun _ _ _ _ => rfl
@[simp] theorem exec_or : ∀ d a b s, exec (.or d a b) s = execOr d a b s := fun _ _ _ _ => rfl
@[simp] theorem exec_xor : ∀ d a b s, exec (.xor d a b) s = execXor d a b s := fun _ _ _ _ => rfl
@[simp] theorem exec_andn : ∀ d a b s, exec (.andn d a b) s = execAndn d a b s := fun _ _ _ _ => rfl
@[simp] theorem exec_orn : ∀ d a b s, exec (.orn d a b) s = execOrn d a b s := fun _ _ _ _ => rfl
@[simp] theorem exec_shl : ∀ d a b s, exec (.shl d a b) s = execShl d a b s := fun _ _ _ _ => rfl
@[simp] theorem exec_shr : ∀ d a b s, exec (.shr d a b) s = execShr d a b s := fun _ _ _ _ => rfl
@[simp] theorem exec_sra : ∀ d a b s, exec (.sra d a b) s = execSra d a b s := fun _ _ _ _ => rfl
@[simp] theorem exec_rot : ∀ d a b s, exec (.rot d a b) s = execRot d a b s := fun _ _ _ _ => rfl
@[simp] theorem exec_clz : ∀ d a s, exec (.clz d a) s = execClz d a s := fun _ _ _ => rfl
@[simp] theorem exec_ctz : ∀ d a s, exec (.ctz d a) s = execCtz d a s := fun _ _ _ => rfl
@[simp] theorem exec_popc : ∀ d a s, exec (.popc d a) s = execPopc d a s := fun _ _ _ => rfl
@[simp] theorem exec_abs : ∀ d a s, exec (.abs d a) s = execAbs d a s := fun _ _ _ => rfl
@[simp] theorem exec_min : ∀ d a b s, exec (.min d a b) s = execMin d a b s := fun _ _ _ _ => rfl
@[simp] theorem exec_max : ∀ d a b s, exec (.max d a b) s = execMax d a b s := fun _ _ _ _ => rfl
@[simp] theorem exec_minu : ∀ d a b s, exec (.minu d a b) s = execMinu d a b s := fun _ _ _ _ => rfl
@[simp] theorem exec_maxu : ∀ d a b s, exec (.maxu d a b) s = execMaxu d a b s := fun _ _ _ _ => rfl
@[simp] theorem exec_sext : ∀ d a n s, exec (.sext d a n) s = execSext d a n s := fun _ _ _ _ => rfl
@[simp] theorem exec_zext : ∀ d a n s, exec (.zext d a n) s = execZext d a n s := fun _ _ _ _ => rfl
@[simp] theorem exec_bfx : ∀ d a pos len s, exec (.bfx d a pos len) s = execBfx d a pos len s := fun _ _ _ _ _ => rfl
@[simp] theorem exec_bfxS : ∀ d a pos len s, exec (.bfxS d a pos len) s = execBfxS d a pos len s := fun _ _ _ _ _ => rfl
@[simp] theorem exec_bfi : ∀ d a pos len s, exec (.bfi d a pos len) s = execBfi d a pos len s := fun _ _ _ _ _ => rfl
@[simp] theorem exec_shadd : ∀ d a b s0 s, exec (.shadd d a b s0) s = execShadd d a b s0 s := fun _ _ _ _ _ => rfl
@[simp] theorem exec_mov : ∀ d a s, exec (.mov d a) s = execMov d a s := fun _ _ _ => rfl
@[simp] theorem exec_sel : ∀ d a b c s, exec (.sel d a b c) s = execSel d a b c s := fun _ _ _ _ _ => rfl
@[simp] theorem exec_cmp : ∀ d a b c s, exec (.cmp d a b c) s = execCmp d a b c s := fun _ _ _ _ _ => rfl
@[simp] theorem exec_addi : ∀ d a im s, exec (.addi d a im) s = execAddi d a im s := fun _ _ _ _ => rfl
@[simp] theorem exec_andi : ∀ d a im s, exec (.andi d a im) s = execAndi d a im s := fun _ _ _ _ => rfl
@[simp] theorem exec_ori : ∀ d a im s, exec (.ori d a im) s = execOri d a im s := fun _ _ _ _ => rfl
@[simp] theorem exec_xori : ∀ d a im s, exec (.xori d a im) s = execXori d a im s := fun _ _ _ _ => rfl
@[simp] theorem exec_shli : ∀ d a s0 s, exec (.shli d a s0) s = execShli d a s0 s := fun _ _ _ _ => rfl
@[simp] theorem exec_shri : ∀ d a s0 s, exec (.shri d a s0) s = execShri d a s0 s := fun _ _ _ _ => rfl
@[simp] theorem exec_srai : ∀ d a s0 s, exec (.srai d a s0) s = execSrai d a s0 s := fun _ _ _ _ => rfl
@[simp] theorem exec_roti : ∀ d a s0 s, exec (.roti d a s0) s = execRoti d a s0 s := fun _ _ _ _ => rfl
@[simp] theorem exec_cmpi : ∀ d a c im s, exec (.cmpi d a c im) s = execCmpi d a c im s := fun _ _ _ _ _ => rfl
@[simp] theorem exec_ldi26 : ∀ d im s, exec (.ldi26 d im) s = execLdi26 d im s := fun _ _ _ => rfl
@[simp] theorem exec_ldi64 : ∀ d im s, exec (.ldi64 d im) s = execLdi64 d im s := fun _ _ _ => rfl
@[simp] theorem exec_br : ∀ d a c im s, exec (.br d a c im) s = execBr d a c im s := fun _ _ _ _ _ => rfl
@[simp] theorem exec_bz : ∀ d im s, exec (.bz d im) s = execBz d im s := fun _ _ _ => rfl
@[simp] theorem exec_bnz : ∀ d im s, exec (.bnz d im) s = execBnz d im s := fun _ _ _ => rfl
@[simp] theorem exec_j : ∀ im s, exec (.j im) s = execJ im s := fun _ _ => rfl
@[simp] theorem exec_jal : ∀ d im s, exec (.jal d im) s = execJal d im s := fun _ _ _ => rfl
@[simp] theorem exec_jr : ∀ a s, exec (.jr a) s = execJr a s := fun _ _ => rfl
@[simp] theorem exec_jalr : ∀ d a s, exec (.jalr d a) s = execJalr d a s := fun _ _ _ => rfl
@[simp] theorem exec_jtab : ∀ d a b s, exec (.jtab d a b) s = execJtab d a b s := fun _ _ _ _ => rfl
@[simp] theorem exec_loop : ∀ d im s, exec (.loop d im) s = execLoop d im s := fun _ _ _ => rfl
@[simp] theorem exec_halt : ∀ s, exec .halt s = execHalt s := fun _ => rfl
@[simp] theorem exec_brk : ∀ code s, exec (.brk code) s = execBrk code s := fun _ _ => rfl
@[simp] theorem exec_fadd : ∀ d a b m s, exec (.fadd d a b m) s = execFadd d a b m s := fun _ _ _ _ _ => rfl
@[simp] theorem exec_fsub : ∀ d a b m s, exec (.fsub d a b m) s = execFsub d a b m s := fun _ _ _ _ _ => rfl
@[simp] theorem exec_fmul : ∀ d a b m s, exec (.fmul d a b m) s = execFmul d a b m s := fun _ _ _ _ _ => rfl
@[simp] theorem exec_fma : ∀ d a b c m s, exec (.fma d a b c m) s = execFma d a b c m s := fun _ _ _ _ _ _ => rfl
@[simp] theorem exec_fnma : ∀ d a b c m s, exec (.fnma d a b c m) s = execFnma d a b c m s := fun _ _ _ _ _ _ => rfl
@[simp] theorem exec_fdiv : ∀ d a b m s, exec (.fdiv d a b m) s = execFdiv d a b m s := fun _ _ _ _ _ => rfl
@[simp] theorem exec_fsqrt : ∀ d a m s, exec (.fsqrt d a m) s = execFsqrt d a m s := fun _ _ _ _ => rfl
@[simp] theorem exec_fmin : ∀ d a b s, exec (.fmin d a b) s = execFmin d a b s := fun _ _ _ _ => rfl
@[simp] theorem exec_fmax : ∀ d a b s, exec (.fmax d a b) s = execFmax d a b s := fun _ _ _ _ => rfl
@[simp] theorem exec_fsgnCp : ∀ d a b s, exec (.fsgnCp d a b) s = execFsgnCp d a b s := fun _ _ _ _ => rfl
@[simp] theorem exec_fsgnNeg : ∀ d a b s, exec (.fsgnNeg d a b) s = execFsgnNeg d a b s := fun _ _ _ _ => rfl
@[simp] theorem exec_fsgnXor : ∀ d a b s, exec (.fsgnXor d a b) s = execFsgnXor d a b s := fun _ _ _ _ => rfl
@[simp] theorem exec_fcmp : ∀ d a b c s, exec (.fcmp d a b c) s = execFcmp d a b c s := fun _ _ _ _ _ => rfl
@[simp] theorem exec_fclass : ∀ d a f s, exec (.fclass d a f) s = execFclass d a f s := fun _ _ _ _ => rfl
@[simp] theorem exec_fcvt : ∀ d a m dst src s, exec (.fcvt d a m dst src) s = execFcvt d a m dst src s := fun _ _ _ _ _ _ => rfl
@[simp] theorem exec_fmovFF : ∀ d a s, exec (.fmovFF d a) s = execFmovFF d a s := fun _ _ _ => rfl
@[simp] theorem exec_fmovFG : ∀ d a s, exec (.fmovFG d a) s = execFmovFG d a s := fun _ _ _ => rfl
@[simp] theorem exec_fmovGF : ∀ d a s, exec (.fmovGF d a) s = execFmovGF d a s := fun _ _ _ => rfl
@[simp] theorem exec_fldi : ∀ d im s, exec (.fldi d im) s = execFldi d im s := fun _ _ _ => rfl
@[simp] theorem exec_fsr : ∀ d a b dst src s, exec (.fsr d a b dst src) s = execFsr d a b dst src s := fun _ _ _ _ _ _ => rfl
@[simp] theorem exec_fsrDraw : ∀ d s, exec (.fsrDraw d) s = execFsrDraw d s := fun _ _ => rfl
@[simp] theorem exec_fscl : ∀ d a byte fmt s, exec (.fscl d a byte fmt) s = execFscl d a byte fmt s := fun _ _ _ _ _ => rfl
@[simp] theorem exec_vadd : ∀ v sat s, exec (.vadd v sat) s = execVadd v sat s := fun _ _ _ => rfl
@[simp] theorem exec_vsub : ∀ v sat s, exec (.vsub v sat) s = execVsub v sat s := fun _ _ _ => rfl
@[simp] theorem exec_vmul : ∀ v s, exec (.vmul v) s = execVmul v s := fun _ _ => rfl
@[simp] theorem exec_vmulh : ∀ v s, exec (.vmulh v) s = execVmulh v s := fun _ _ => rfl
@[simp] theorem exec_vmulhU : ∀ v s, exec (.vmulhU v) s = execVmulhU v s := fun _ _ => rfl
@[simp] theorem exec_vmacc : ∀ v sat s, exec (.vmacc v sat) s = execVmacc v sat s := fun _ _ _ => rfl
@[simp] theorem exec_vmin : ∀ v u s, exec (.vmin v u) s = execVmin v u s := fun _ _ _ => rfl
@[simp] theorem exec_vmax : ∀ v u s, exec (.vmax v u) s = execVmax v u s := fun _ _ _ => rfl
@[simp] theorem exec_vabs : ∀ v sat s, exec (.vabs v sat) s = execVabs v sat s := fun _ _ _ => rfl
@[simp] theorem exec_vand : ∀ v s, exec (.vand v) s = execVand v s := fun _ _ => rfl
@[simp] theorem exec_vor : ∀ v s, exec (.vor v) s = execVor v s := fun _ _ => rfl
@[simp] theorem exec_vxor : ∀ v s, exec (.vxor v) s = execVxor v s := fun _ _ => rfl
@[simp] theorem exec_vandn : ∀ v s, exec (.vandn v) s = execVandn v s := fun _ _ => rfl
@[simp] theorem exec_vshl : ∀ v s, exec (.vshl v) s = execVshl v s := fun _ _ => rfl
@[simp] theorem exec_vshr : ∀ v s, exec (.vshr v) s = execVshr v s := fun _ _ => rfl
@[simp] theorem exec_vsra : ∀ v s, exec (.vsra v) s = execVsra v s := fun _ _ => rfl
@[simp] theorem exec_vrshr : ∀ v range ev s, exec (.vrshr v range ev) s = execVrshr v range ev s := fun _ _ _ _ => rfl
@[simp] theorem exec_vdot : ∀ v f s, exec (.vdot v f) s = execVdot v f s := fun _ _ _ => rfl
@[simp] theorem exec_vcmp : ∀ v fp c s, exec (.vcmp v fp c) s = execVcmp v fp c s := fun _ _ _ _ => rfl
@[simp] theorem exec_vsel : ∀ d a b k w s, exec (.vsel d a b k w) s = execVsel d a b k w s := fun _ _ _ _ _ _ => rfl
@[simp] theorem exec_vsplat : ∀ v fp s, exec (.vsplat v fp) s = execVsplat v fp s := fun _ _ _ => rfl
@[simp] theorem exec_vmov : ∀ v s, exec (.vmov v) s = execVmov v s := fun _ _ => rfl
@[simp] theorem exec_vmovX : ∀ d a c sx w s, exec (.vmovX d a c sx w) s = execVmovX d a c sx w s := fun _ _ _ _ _ _ => rfl
@[simp] theorem exec_vmovI : ∀ d a c w s, exec (.vmovI d a c w) s = execVmovI d a c w s := fun _ _ _ _ _ => rfl
@[simp] theorem exec_vperm : ∀ v s, exec (.vperm v) s = execVperm v s := fun _ _ => rfl
@[simp] theorem exec_vperm2 : ∀ v c s, exec (.vperm2 v c) s = execVperm2 v c s := fun _ _ _ => rfl
@[simp] theorem exec_vslideDn : ∀ v c s, exec (.vslideDn v c) s = execVslideDn v c s := fun _ _ _ => rfl
@[simp] theorem exec_vslideUp : ∀ v c s, exec (.vslideUp v c) s = execVslideUp v c s := fun _ _ _ => rfl
@[simp] theorem exec_vzipLo : ∀ v s, exec (.vzipLo v) s = execVzipLo v s := fun _ _ => rfl
@[simp] theorem exec_vzipHi : ∀ v s, exec (.vzipHi v) s = execVzipHi v s := fun _ _ => rfl
@[simp] theorem exec_vunzipEv : ∀ v s, exec (.vunzipEv v) s = execVunzipEv v s := fun _ _ => rfl
@[simp] theorem exec_vunzipOd : ∀ v s, exec (.vunzipOd v) s = execVunzipOd v s := fun _ _ => rfl
@[simp] theorem exec_vredadd : ∀ d a k w u fp s, exec (.vredadd d a k w u fp) s = execVredadd d a k w u fp s := fun _ _ _ _ _ _ _ => rfl
@[simp] theorem exec_vredmin : ∀ d a k w u fp s, exec (.vredmin d a k w u fp) s = execVredmin d a k w u fp s := fun _ _ _ _ _ _ _ => rfl
@[simp] theorem exec_vredmax : ∀ d a k w u fp s, exec (.vredmax d a k w u fp) s = execVredmax d a k w u fp s := fun _ _ _ _ _ _ _ => rfl
@[simp] theorem exec_vfadd : ∀ v m s, exec (.vfadd v m) s = execVfadd v m s := fun _ _ _ => rfl
@[simp] theorem exec_vfsub : ∀ v m s, exec (.vfsub v m) s = execVfsub v m s := fun _ _ _ => rfl
@[simp] theorem exec_vfmul : ∀ v m s, exec (.vfmul v m) s = execVfmul v m s := fun _ _ _ => rfl
@[simp] theorem exec_vfma : ∀ v c m s, exec (.vfma v c m) s = execVfma v c m s := fun _ _ _ _ => rfl
@[simp] theorem exec_vfnma : ∀ v c m s, exec (.vfnma v c m) s = execVfnma v c m s := fun _ _ _ _ => rfl
@[simp] theorem exec_vfmin : ∀ v s, exec (.vfmin v) s = execVfmin v s := fun _ _ => rfl
@[simp] theorem exec_vfmax : ∀ v s, exec (.vfmax v) s = execVfmax v s := fun _ _ => rfl
@[simp] theorem exec_vcvt : ∀ d a k z m p dst src s, exec (.vcvt d a k z m p dst src) s = execVcvt d a k z m p dst src s := fun _ _ _ _ _ _ _ _ _ => rfl
@[simp] theorem exec_vpack : ∀ v sat s, exec (.vpack v sat) s = execVpack v sat s := fun _ _ _ => rfl
@[simp] theorem exec_vunpack : ∀ v sx hi s, exec (.vunpack v sx hi) s = execVunpack v sx hi s := fun _ _ _ _ => rfl
@[simp] theorem exec_kopAnd : ∀ d a b s, exec (.kopAnd d a b) s = execKopAnd d a b s := fun _ _ _ _ => rfl
@[simp] theorem exec_kopOr : ∀ d a b s, exec (.kopOr d a b) s = execKopOr d a b s := fun _ _ _ _ => rfl
@[simp] theorem exec_kopXor : ∀ d a b s, exec (.kopXor d a b) s = execKopXor d a b s := fun _ _ _ _ => rfl
@[simp] theorem exec_kopAndn : ∀ d a b s, exec (.kopAndn d a b) s = execKopAndn d a b s := fun _ _ _ _ => rfl
@[simp] theorem exec_kopNot : ∀ d a s, exec (.kopNot d a) s = execKopNot d a s := fun _ _ _ => rfl
@[simp] theorem exec_kopFromg : ∀ d a s, exec (.kopFromg d a) s = execKopFromg d a s := fun _ _ _ => rfl
@[simp] theorem exec_kopTog : ∀ d a s, exec (.kopTog d a) s = execKopTog d a s := fun _ _ _ => rfl
@[simp] theorem exec_kopLo : ∀ d a s, exec (.kopLo d a) s = execKopLo d a s := fun _ _ _ => rfl
@[simp] theorem exec_kpop : ∀ d a w s, exec (.kpop d a w) s = execKpop d a w s := fun _ _ _ _ => rfl
@[simp] theorem exec_kfirst : ∀ d a w s, exec (.kfirst d a w) s = execKfirst d a w s := fun _ _ _ _ => rfl
@[simp] theorem exec_vld : ∀ d a k w disp s, exec (.vld d a k w disp) s = execVld d a k w disp s := fun _ _ _ _ _ _ => rfl
@[simp] theorem exec_vst : ∀ d a k w disp s, exec (.vst d a k w disp) s = execVst d a k w disp s := fun _ _ _ _ _ _ => rfl
@[simp] theorem exec_vlds : ∀ d a b k w s, exec (.vlds d a b k w) s = execVlds d a b k w s := fun _ _ _ _ _ _ => rfl
@[simp] theorem exec_vldx : ∀ d a b sc k w s, exec (.vldx d a b sc k w) s = execVldx d a b sc k w s := fun _ _ _ _ _ _ _ => rfl
@[simp] theorem exec_vstx : ∀ d a b sc k w s, exec (.vstx d a b sc k w) s = execVstx d a b sc k w s := fun _ _ _ _ _ _ _ => rfl
@[simp] theorem exec_ld : ∀ d a sz sx disp s, exec (.ld d a sz sx disp) s = execLd d a sz sx disp s := fun _ _ _ _ _ _ => rfl
@[simp] theorem exec_st : ∀ d a sz disp s, exec (.st d a sz disp) s = execSt d a sz disp s := fun _ _ _ _ _ => rfl
@[simp] theorem exec_stA : ∀ d a sz disp s, exec (.stA d a sz disp) s = execStA d a sz disp s := fun _ _ _ _ _ => rfl
@[simp] theorem exec_ldfe : ∀ d a disp s, exec (.ldfe d a disp) s = execLdfe d a disp s := fun _ _ _ _ => rfl
@[simp] theorem exec_ldfeE : ∀ d a disp s, exec (.ldfeE d a disp) s = execLdfeE d a disp s := fun _ _ _ _ => rfl
@[simp] theorem exec_stfe : ∀ d a disp s, exec (.stfe d a disp) s = execStfe d a disp s := fun _ _ _ _ => rfl
@[simp] theorem exec_feset : ∀ a s, exec (.feset a) s = execFeset a s := fun _ _ => rfl
@[simp] theorem exec_feclr : ∀ a s, exec (.feclr a) s = execFeclr a s := fun _ _ => rfl
@[simp] theorem exec_amoAdd : ∀ d a b sz p s, exec (.amoAdd d a b sz p) s = execAmoAdd d a b sz p s := fun _ _ _ _ _ _ => rfl
@[simp] theorem exec_amoAnd : ∀ d a b sz p s, exec (.amoAnd d a b sz p) s = execAmoAnd d a b sz p s := fun _ _ _ _ _ _ => rfl
@[simp] theorem exec_amoOr : ∀ d a b sz p s, exec (.amoOr d a b sz p) s = execAmoOr d a b sz p s := fun _ _ _ _ _ _ => rfl
@[simp] theorem exec_amoXor : ∀ d a b sz p s, exec (.amoXor d a b sz p) s = execAmoXor d a b sz p s := fun _ _ _ _ _ _ => rfl
@[simp] theorem exec_amoSwap : ∀ d a b sz p s, exec (.amoSwap d a b sz p) s = execAmoSwap d a b sz p s := fun _ _ _ _ _ _ => rfl
@[simp] theorem exec_amoMin : ∀ d a b sz p s, exec (.amoMin d a b sz p) s = execAmoMin d a b sz p s := fun _ _ _ _ _ _ => rfl
@[simp] theorem exec_amoMax : ∀ d a b sz p s, exec (.amoMax d a b sz p) s = execAmoMax d a b sz p s := fun _ _ _ _ _ _ => rfl
@[simp] theorem exec_amoMinu : ∀ d a b sz p s, exec (.amoMinu d a b sz p) s = execAmoMinu d a b sz p s := fun _ _ _ _ _ _ => rfl
@[simp] theorem exec_amoMaxu : ∀ d a b sz p s, exec (.amoMaxu d a b sz p) s = execAmoMaxu d a b sz p s := fun _ _ _ _ _ _ => rfl
@[simp] theorem exec_amofAdd : ∀ d a b fmt p s, exec (.amofAdd d a b fmt p) s = execAmofAdd d a b fmt p s := fun _ _ _ _ _ _ => rfl
@[simp] theorem exec_amofMin : ∀ d a b fmt p s, exec (.amofMin d a b fmt p) s = execAmofMin d a b fmt p s := fun _ _ _ _ _ _ => rfl
@[simp] theorem exec_amofMax : ∀ d a b fmt p s, exec (.amofMax d a b fmt p) s = execAmofMax d a b fmt p s := fun _ _ _ _ _ _ => rfl
@[simp] theorem exec_cas : ∀ d a b c sz s, exec (.cas d a b c sz) s = execCas d a b c sz s := fun _ _ _ _ _ _ => rfl
@[simp] theorem exec_prefC : ∀ a disp s, exec (.prefC a disp) s = execPrefC a disp s := fun _ _ _ => rfl
@[simp] theorem exec_prefT : ∀ a disp s, exec (.prefT a disp) s = execPrefT a disp s := fun _ _ _ => rfl
@[simp] theorem exec_prefX : ∀ a disp s, exec (.prefX a disp) s = execPrefX a disp s := fun _ _ _ => rfl
@[simp] theorem exec_seal : ∀ a b s0 s, exec (.seal a b s0) s = execSeal a b s0 s := fun _ _ _ _ => rfl
@[simp] theorem exec_unseal : ∀ a b s0 s, exec (.unseal a b s0) s = execUnseal a b s0 s := fun _ _ _ _ => rfl
@[simp] theorem exec_sealq : ∀ d a s, exec (.sealq d a) s = execSealq d a s := fun _ _ _ => rfl
@[simp] theorem exec_hgive : ∀ a b s, exec (.hgive a b) s = execHgive a b s := fun _ _ _ => rfl
@[simp] theorem exec_htake : ∀ d a s, exec (.htake d a) s = execHtake d a s := fun _ _ _ => rfl
@[simp] theorem exec_handleArrival : ∀ buf core s, exec (.handleArrival buf core) s = execHandleArrival buf core s := fun _ _ _ => rfl
@[simp] theorem exec_spld : ∀ d a sz sx disp s, exec (.spld d a sz sx disp) s = execSpld d a sz sx disp s := fun _ _ _ _ _ _ => rfl
@[simp] theorem exec_spst : ∀ d a sz disp s, exec (.spst d a sz disp) s = execSpst d a sz disp s := fun _ _ _ _ _ => rfl
@[simp] theorem exec_lea : ∀ d a disp s, exec (.lea d a disp) s = execLea d a disp s := fun _ _ _ _ => rfl
@[simp] theorem exec_leaG : ∀ d a disp s, exec (.leaG d a disp) s = execLeaG d a disp s := fun _ _ _ _ => rfl
@[simp] theorem exec_leaGs : ∀ d a disp s, exec (.leaGs d a disp) s = execLeaGs d a disp s := fun _ _ _ _ => rfl
@[simp] theorem exec_fenceLd : ∀ s0 s, exec (.fenceLd s0) s = execFenceLd s0 s := fun _ _ => rfl
@[simp] theorem exec_fenceSt : ∀ s0 s, exec (.fenceSt s0) s = execFenceSt s0 s := fun _ _ => rfl
@[simp] theorem exec_fence : ∀ s0 s, exec (.fence s0) s = execFence s0 s := fun _ _ => rfl
@[simp] theorem exec_fenceEng : ∀ s0 s, exec (.fenceEng s0) s = execFenceEng s0 s := fun _ _ => rfl
@[simp] theorem exec_bar : ∀ s0 s, exec (.bar s0) s = execBar s0 s := fun _ _ => rfl
@[simp] theorem exec_barvAdd : ∀ d a s0 s, exec (.barvAdd d a s0) s = execBarvAdd d a s0 s := fun _ _ _ _ => rfl
@[simp] theorem exec_barvMin : ∀ d a s0 s, exec (.barvMin d a s0) s = execBarvMin d a s0 s := fun _ _ _ _ => rfl
@[simp] theorem exec_barvMax : ∀ d a s0 s, exec (.barvMax d a s0) s = execBarvMax d a s0 s := fun _ _ _ _ => rfl
@[simp] theorem exec_barvMinu : ∀ d a s0 s, exec (.barvMinu d a s0) s = execBarvMinu d a s0 s := fun _ _ _ _ => rfl
@[simp] theorem exec_barvMaxu : ∀ d a s0 s, exec (.barvMaxu d a s0) s = execBarvMaxu d a s0 s := fun _ _ _ _ => rfl
@[simp] theorem exec_barvAnd : ∀ d a s0 s, exec (.barvAnd d a s0) s = execBarvAnd d a s0 s := fun _ _ _ _ => rfl
@[simp] theorem exec_barvOr : ∀ d a s0 s, exec (.barvOr d a s0) s = execBarvOr d a s0 s := fun _ _ _ _ => rfl
@[simp] theorem exec_barvXor : ∀ d a s0 s, exec (.barvXor d a s0) s = execBarvXor d a s0 s := fun _ _ _ _ => rfl
@[simp] theorem exec_barrierArrival : ∀ scope core vals s, exec (.barrierArrival scope core vals) s = execBarrierArrival scope core vals s := fun _ _ _ _ => rfl
@[simp] theorem exec_barrierRelease : ∀ scope s, exec (.barrierRelease scope) s = execBarrierRelease scope s := fun _ _ => rfl
@[simp] theorem exec_icinv : ∀ a b s0 s, exec (.icinv a b s0) s = execIcinv a b s0 s := fun _ _ _ _ => rfl
@[simp] theorem exec_icinvDiscard : ∀ base len s, exec (.icinvDiscard base len) s = execIcinvDiscard base len s := fun _ _ _ => rfl
@[simp] theorem exec_dsync : ∀ s, exec .dsync s = execDsync s := fun _ => rfl
@[simp] theorem exec_tsync : ∀ s, exec .tsync s = execTsync s := fun _ => rfl
@[simp] theorem exec_cjoin : ∀ d a b s0 s, exec (.cjoin d a b s0) s = execCjoin d a b s0 s := fun _ _ _ _ _ => rfl
@[simp] theorem exec_cleave : ∀ d s, exec (.cleave d) s = execCleave d s := fun _ _ => rfl
@[simp] theorem exec_cbrAny : ∀ d hint im s, exec (.cbrAny d hint im) s = execCbrAny d hint im s := fun _ _ _ _ => rfl
@[simp] theorem exec_cbrAll : ∀ d hint im s, exec (.cbrAll d hint im) s = execCbrAll d hint im s := fun _ _ _ _ => rfl
@[simp] theorem exec_credAdd : ∀ d a s, exec (.credAdd d a) s = execCredAdd d a s := fun _ _ _ => rfl
@[simp] theorem exec_credMin : ∀ d a s, exec (.credMin d a) s = execCredMin d a s := fun _ _ _ => rfl
@[simp] theorem exec_credMax : ∀ d a s, exec (.credMax d a) s = execCredMax d a s := fun _ _ _ => rfl
@[simp] theorem exec_credMinu : ∀ d a s, exec (.credMinu d a) s = execCredMinu d a s := fun _ _ _ => rfl
@[simp] theorem exec_credMaxu : ∀ d a s, exec (.credMaxu d a) s = execCredMaxu d a s := fun _ _ _ => rfl
@[simp] theorem exec_cstatGrp : ∀ d s, exec (.cstatGrp d) s = execCstatGrp d s := fun _ _ => rfl
@[simp] theorem exec_cstatSeq : ∀ d s, exec (.cstatSeq d) s = execCstatSeq d s := fun _ _ => rfl
@[simp] theorem exec_cstatSpec : ∀ d s, exec (.cstatSpec d) s = execCstatSpec d s := fun _ _ => rfl
@[simp] theorem exec_collectiveArrival : ∀ gid scope seq count vote s, exec (.collectiveArrival gid scope seq count vote) s = execCollectiveArrival gid scope seq count vote s := fun _ _ _ _ _ _ => rfl
@[simp] theorem exec_collectiveResult : ∀ gid scope s, exec (.collectiveResult gid scope) s = execCollectiveResult gid scope s := fun _ _ _ => rfl
@[simp] theorem exec_cbtimeo : ∀ gid scope s, exec (.cbtimeo gid scope) s = execCbtimeo gid scope s := fun _ _ _ => rfl
@[simp] theorem exec_cbbroken : ∀ gid scope reason info s, exec (.cbbroken gid scope reason info) s = execCbbroken gid scope reason info s := fun _ _ _ _ _ => rfl
@[simp] theorem exec_tld : ∀ d c1 c0 lt dir y s, exec (.tld d c1 c0 lt dir y) s = execTld d c1 c0 lt dir y s := fun _ _ _ _ _ _ _ => rfl
@[simp] theorem exec_tst : ∀ d c1 c0 lt dir y s, exec (.tst d c1 c0 lt dir y) s = execTst d c1 c0 lt dir y s := fun _ _ _ _ _ _ _ => rfl
@[simp] theorem exec_tzero : ∀ d y s, exec (.tzero d y) s = execTzero d y s := fun _ _ _ => rfl
@[simp] theorem exec_mzero : ∀ d y s, exec (.mzero d y) s = execMzero d y s := fun _ _ _ => rfl
@[simp] theorem exec_mmaBf16 : ∀ m y s, exec (.mmaBf16 m y) s = execMmaBf16 m y s := fun _ _ _ => rfl
@[simp] theorem exec_mmaF16 : ∀ m y s, exec (.mmaF16 m y) s = execMmaF16 m y s := fun _ _ _ => rfl
@[simp] theorem exec_mmaE4m3 : ∀ m y s, exec (.mmaE4m3 m y) s = execMmaE4m3 m y s := fun _ _ _ => rfl
@[simp] theorem exec_mmaE5e4 : ∀ m y s, exec (.mmaE5e4 m y) s = execMmaE5e4 m y s := fun _ _ _ => rfl
@[simp] theorem exec_mmaE4e5 : ∀ m y s, exec (.mmaE4e5 m y) s = execMmaE4e5 m y s := fun _ _ _ => rfl
@[simp] theorem exec_mmaI8 : ∀ m y s, exec (.mmaI8 m y) s = execMmaI8 m y s := fun _ _ _ => rfl
@[simp] theorem exec_mmaUi8i8 : ∀ m y s, exec (.mmaUi8i8 m y) s = execMmaUi8i8 m y s := fun _ _ _ => rfl
@[simp] theorem exec_mmaE2m1 : ∀ m y s, exec (.mmaE2m1 m y) s = execMmaE2m1 m y s := fun _ _ _ => rfl
@[simp] theorem exec_mmaTw8i8 : ∀ m y s, exec (.mmaTw8i8 m y) s = execMmaTw8i8 m y s := fun _ _ _ => rfl
@[simp] theorem exec_mmaTw8e4 : ∀ m y s, exec (.mmaTw8e4 m y) s = execMmaTw8e4 m y s := fun _ _ _ => rfl
@[simp] theorem exec_mmaTw8bf : ∀ m y s, exec (.mmaTw8bf m y) s = execMmaTw8bf m y s := fun _ _ _ => rfl
@[simp] theorem exec_mmaStream : ∀ op m y s, exec (.mmaStream op m y) s = execMmaStream op m y s := fun _ _ _ _ => rfl
@[simp] theorem exec_mrd : ∀ m y s, exec (.mrd m y) s = execMrd m y s := fun _ _ _ => rfl
@[simp] theorem exec_mst : ∀ d fmt rm lt dir rpt y s, exec (.mst d fmt rm lt dir rpt y) s = execMst d fmt rm lt dir rpt y s := fun _ _ _ _ _ _ _ _ => rfl
@[simp] theorem exec_mstIn : ∀ d fmt rm lt dir rpt y s, exec (.mstIn d fmt rm lt dir rpt y) s = execMstIn d fmt rm lt dir rpt y s := fun _ _ _ _ _ _ _ _ => rfl
@[simp] theorem exec_mwait : ∀ s, exec .mwait s = execMwait s := fun _ => rfl
@[simp] theorem exec_mwaitAcc : ∀ a s, exec (.mwaitAcc a) s = execMwaitAcc a s := fun _ _ => rfl
@[simp] theorem exec_mstat : ∀ d a s, exec (.mstat d a) s = execMstat d a s := fun _ _ _ => rfl
@[simp] theorem exec_mstatC : ∀ d a s, exec (.mstatC d a) s = execMstatC d a s := fun _ _ _ => rfl
@[simp] theorem exec_mcmd : ∀ d a b c r x s, exec (.mcmd d a b c r x) s = execMcmd d a b c r x s := fun _ _ _ _ _ _ _ => rfl
@[simp] theorem exec_mcap : ∀ a s, exec (.mcap a) s = execMcap a s := fun _ _ => rfl
@[simp] theorem exec_mcmdAtTarget : ∀ x r tail cap sender note req s, exec (.mcmdAtTarget x r tail cap sender note req) s = execMcmdAtTarget x r tail cap sender note req s := fun _ _ _ _ _ _ _ _ => rfl
@[simp] theorem exec_matrixCommandStart : ∀ id s, exec (.matrixCommandStart id) s = execMatrixCommandStart id s := fun _ _ => rfl
@[simp] theorem exec_bellowsBoundary : ∀ active requestsBelow stopsBelow s, exec (.bellowsBoundary active requestsBelow stopsBelow) s = execBellowsBoundary active requestsBelow stopsBelow s := fun _ _ _ _ => rfl
@[simp] theorem exec_matrixCommandComplete : ∀ id s, exec (.matrixCommandComplete id) s = execMatrixCommandComplete id s := fun _ _ => rfl
@[simp] theorem exec_cpy : ∀ slt dlt rank res rpt y s, exec (.cpy slt dlt rank res rpt y) s = execCpy slt dlt rank res rpt y s := fun _ _ _ _ _ _ _ => rfl
@[simp] theorem exec_cpyr : ∀ slt dlt rank res op fmt rpt y s, exec (.cpyr slt dlt rank res op fmt rpt y) s = execCpyr slt dlt rank res op fmt rpt y s := fun _ _ _ _ _ _ _ _ _ => rfl
@[simp] theorem exec_gath : ∀ slt ilt dlt res rpt y s, exec (.gath slt ilt dlt res rpt y) s = execGath slt ilt dlt res rpt y s := fun _ _ _ _ _ _ _ => rfl
@[simp] theorem exec_gathQ : ∀ slt ilt res rpt y s, exec (.gathQ slt ilt res rpt y) s = execGathQ slt ilt res rpt y s := fun _ _ _ _ _ _ => rfl
@[simp] theorem exec_pack : ∀ slt mlt dlt rpt y s, exec (.pack slt mlt dlt rpt y) s = execPack slt mlt dlt rpt y s := fun _ _ _ _ _ _ => rfl
@[simp] theorem exec_pull : ∀ c1 c0 lt rpt y s, exec (.pull c1 c0 lt rpt y) s = execPull c1 c0 lt rpt y s := fun _ _ _ _ _ _ => rfl
@[simp] theorem exec_kick : ∀ d a b c s, exec (.kick d a b c) s = execKick d a b c s := fun _ _ _ _ _ => rfl
@[simp] theorem exec_kickNoticeArrival : ∀ n req s, exec (.kickNoticeArrival n req) s = execKickNoticeArrival n req s := fun _ _ _ => rfl
@[simp] theorem exec_pullAckArrival : ∀ sem s, exec (.pullAckArrival sem) s = execPullAckArrival sem s := fun _ _ => rfl
@[simp] theorem exec_engineCommandStart : ∀ gather s, exec (.engineCommandStart gather) s = execEngineCommandStart gather s := fun _ _ => rfl
@[simp] theorem exec_engineCommandComplete : ∀ gather s, exec (.engineCommandComplete gather) s = execEngineCommandComplete gather s := fun _ _ => rfl
@[simp] theorem exec_qfence : ∀ m s, exec (.qfence m) s = execQfence m s := fun _ _ => rfl
@[simp] theorem exec_sinc : ∀ s0 n s, exec (.sinc s0 n) s = execSinc s0 n s := fun _ _ _ => rfl
@[simp] theorem exec_swait : ∀ s0 n s, exec (.swait s0 n) s = execSwait s0 n s := fun _ _ _ => rfl
@[simp] theorem exec_swaitNb : ∀ d s0 n s, exec (.swaitNb d s0 n) s = execSwaitNb d s0 n s := fun _ _ _ _ => rfl
@[simp] theorem exec_sget : ∀ d s0 s, exec (.sget d s0) s = execSget d s0 s := fun _ _ _ => rfl
@[simp] theorem exec_sset : ∀ s0 n s, exec (.sset s0 n) s = execSset s0 n s := fun _ _ _ => rfl
@[simp] theorem exec_ssetReg : ∀ a s0 s, exec (.ssetReg a s0) s = execSsetReg a s0 s := fun _ _ _ => rfl
@[simp] theorem exec_lyt : ∀ a lt s, exec (.lyt a lt) s = execLyt a lt s := fun _ _ _ => rfl
@[simp] theorem exec_lytq : ∀ d lt w s, exec (.lytq d lt w) s = execLytq d lt w s := fun _ _ _ _ => rfl
@[simp] theorem exec_onew : ∀ d b c rpt y s, exec (.onew d b c rpt y) s = execOnew d b c rpt y s := fun _ _ _ _ _ _ => rfl
@[simp] theorem exec_onewAtTarget : ∀ index off cfg sender req s, exec (.onewAtTarget index off cfg sender req) s = execOnewAtTarget index off cfg sender req s := fun _ _ _ _ _ _ => rfl
@[simp] theorem exec_odel : ∀ d rpt y s, exec (.odel d rpt y) s = execOdel d rpt y s := fun _ _ _ _ => rfl
@[simp] theorem exec_odelAtTarget : ∀ index sender req s, exec (.odelAtTarget index sender req) s = execOdelAtTarget index sender req s := fun _ _ _ _ => rfl
@[simp] theorem exec_ocfgLeak : ∀ a b s, exec (.ocfgLeak a b) s = execOcfgLeak a b s := fun _ _ _ => rfl
@[simp] theorem exec_ocfgTheta : ∀ a b s, exec (.ocfgTheta a b) s = execOcfgTheta a b s := fun _ _ _ => rfl
@[simp] theorem exec_ocfgUser : ∀ a b s, exec (.ocfgUser a b) s = execOcfgUser a b s := fun _ _ _ => rfl
@[simp] theorem exec_ocfgType : ∀ a b s, exec (.ocfgType a b) s = execOcfgType a b s := fun _ _ _ => rfl
@[simp] theorem exec_oget : ∀ d a s, exec (.oget d a) s = execOget d a s := fun _ _ _ => rfl
@[simp] theorem exec_ogetRef : ∀ d a s, exec (.ogetRef d a) s = execOgetRef d a s := fun _ _ _ => rfl
@[simp] theorem exec_ogetSh : ∀ d a s, exec (.ogetSh d a) s = execOgetSh d a s := fun _ _ _ => rfl
@[simp] theorem exec_ogetW : ∀ d a w s, exec (.ogetW d a w) s = execOgetW d a w s := fun _ _ _ _ => rfl
@[simp] theorem exec_ogetHd : ∀ d a n s, exec (.ogetHd d a n) s = execOgetHd d a n s := fun _ _ _ _ => rfl
@[simp] theorem exec_oput : ∀ d a s, exec (.oput d a) s = execOput d a s := fun _ _ _ => rfl
@[simp] theorem exec_oputW : ∀ d a w s, exec (.oputW d a w) s = execOputW d a w s := fun _ _ _ _ => rfl
@[simp] theorem exec_eslot : ∀ d a b s, exec (.eslot d a b) s = execEslot d a b s := fun _ _ _ _ => rfl
@[simp] theorem exec_eslotTag : ∀ d a b s, exec (.eslotTag d a b) s = execEslotTag d a b s := fun _ _ _ _ => rfl
@[simp] theorem exec_eslotFree : ∀ a b s, exec (.eslotFree a b) s = execEslotFree a b s := fun _ _ _ => rfl
@[simp] theorem exec_esend : ∀ d b c y s, exec (.esend d b c y) s = execEsend d b c y s := fun _ _ _ _ _ => rfl
@[simp] theorem exec_esendv : ∀ d b c n y s, exec (.esendv d b c n y) s = execEsendv d b c n y s := fun _ _ _ _ _ _ => rfl
@[simp] theorem exec_edamp : ∀ d a b c fc z k s, exec (.edamp d a b c fc z k) s = execEdamp d a b c fc z k s := fun _ _ _ _ _ _ _ _ => rfl
@[simp] theorem exec_efan : ∀ d b c y s, exec (.efan d b c y) s = execEfan d b c y s := fun _ _ _ _ _ => rfl
@[simp] theorem exec_etick : ∀ d a s, exec (.etick d a) s = execEtick d a s := fun _ _ _ => rfl
@[simp] theorem exec_etickSet : ∀ d a s, exec (.etickSet d a) s = execEtickSet d a s := fun _ _ _ => rfl
@[simp] theorem exec_enow : ∀ d s, exec (.enow d) s = execEnow d s := fun _ _ => rfl
@[simp] theorem exec_esnap : ∀ d a b s, exec (.esnap d a b) s = execEsnap d a b s := fun _ _ _ _ => rfl
@[simp] theorem exec_esnapClose : ∀ d s, exec (.esnapClose d) s = execEsnapClose d s := fun _ _ => rfl
@[simp] theorem exec_esread : ∀ d b cut cur y s, exec (.esread d b cut cur y) s = execEsread d b cut cur y s := fun _ _ _ _ _ _ => rfl
@[simp] theorem exec_esreadAtTarget : ∀ first count cut cur sender req s, exec (.esreadAtTarget first count cut cur sender req) s = execEsreadAtTarget first count cut cur sender req s := fun _ _ _ _ _ _ _ => rfl
@[simp] theorem exec_cvqUn : ∀ d s, exec (.cvqUn d) s = execCvqUn d s := fun _ _ => rfl
@[simp] theorem exec_cvqRes : ∀ d s, exec (.cvqRes d) s = execCvqRes d s := fun _ _ => rfl
@[simp] theorem exec_cvqLate : ∀ d s, exec (.cvqLate d) s = execCvqLate d s := fun _ _ => rfl
@[simp] theorem exec_cvqStale : ∀ d s, exec (.cvqStale d) s = execCvqStale d s := fun _ _ => rfl
@[simp] theorem exec_cvqDrop : ∀ d s, exec (.cvqDrop d) s = execCvqDrop d s := fun _ _ => rfl
@[simp] theorem exec_cvqPend : ∀ d s, exec (.cvqPend d) s = execCvqPend d s := fun _ _ => rfl
@[simp] theorem exec_cvqSent : ∀ d s, exec (.cvqSent d) s = execCvqSent d s := fun _ _ => rfl
@[simp] theorem exec_cvqRecv : ∀ d s, exec (.cvqRecv d) s = execCvqRecv d s := fun _ _ => rfl
@[simp] theorem exec_cvqSlate : ∀ d s, exec (.cvqSlate d) s = execCvqSlate d s := fun _ _ => rfl
@[simp] theorem exec_cvqLateC : ∀ d s, exec (.cvqLateC d) s = execCvqLateC d s := fun _ _ => rfl
@[simp] theorem exec_cvqStaleC : ∀ d s, exec (.cvqStaleC d) s = execCvqStaleC d s := fun _ _ => rfl
@[simp] theorem exec_cvqDropC : ∀ d s, exec (.cvqDropC d) s = execCvqDropC d s := fun _ _ => rfl
@[simp] theorem exec_cvqSlateC : ∀ d s, exec (.cvqSlateC d) s = execCvqSlateC d s := fun _ _ => rfl
@[simp] theorem exec_hnd : ∀ a b c t s, exec (.hnd a b c t) s = execHnd a b c t s := fun _ _ _ _ _ => rfl
@[simp] theorem exec_ehold : ∀ d s, exec (.ehold d) s = execEhold d s := fun _ _ => rfl
@[simp] theorem exec_eholdRel : ∀ d s, exec (.eholdRel d) s = execEholdRel d s := fun _ _ => rfl
@[simp] theorem exec_eholdQ : ∀ d s, exec (.eholdQ d) s = execEholdQ d s := fun _ _ => rfl
@[simp] theorem exec_droneWritebackDone : ∀ s, exec .droneWritebackDone s = execDroneWritebackDone s := fun _ => rfl
@[simp] theorem exec_eventAccept : ∀ e req s, exec (.eventAccept e req) s = execEventAccept e req s := fun _ _ _ => rfl
@[simp] theorem exec_nowAdvance : ∀ s, exec .nowAdvance s = execNowAdvance s := fun _ => rfl
@[simp] theorem exec_eventDelivery : ∀ s, exec .eventDelivery s = execEventDelivery s := fun _ => rfl
@[simp] theorem exec_handlerStart : ∀ s, exec .handlerStart s = execHandlerStart s := fun _ => rfl
@[simp] theorem exec_tnew : ∀ d a b s, exec (.tnew d a b) s = execTnew d a b s := fun _ _ _ _ => rfl
@[simp] theorem exec_tnewAtHome : ∀ r s, exec (.tnewAtHome r) s = execTnewAtHome r s := fun _ _ => rfl
@[simp] theorem exec_tdec : ∀ a s, exec (.tdec a) s = execTdec a s := fun _ _ => rfl
@[simp] theorem exec_taskDecrement : ∀ r s, exec (.taskDecrement r) s = execTaskDecrement r s := fun _ _ => rfl
@[simp] theorem exec_runListStart : ∀ s, exec .runListStart s = execRunListStart s := fun _ => rfl
@[simp] theorem exec_qclaim : ∀ d a s, exec (.qclaim d a) s = execQclaim d a s := fun _ _ _ => rfl
@[simp] theorem exec_qpub : ∀ d a b s, exec (.qpub d a b) s = execQpub d a b s := fun _ _ _ _ => rfl
@[simp] theorem exec_qsteal : ∀ d a s, exec (.qsteal d a) s = execQsteal d a s := fun _ _ _ => rfl
@[simp] theorem exec_qlen : ∀ d a s, exec (.qlen d a) s = execQlen d a s := fun _ _ _ => rfl
@[simp] theorem exec_qlenClaims : ∀ d a s, exec (.qlenClaims d a) s = execQlenClaims d a s := fun _ _ _ => rfl
@[simp] theorem exec_qlenSteals : ∀ d a s, exec (.qlenSteals d a) s = execQlenSteals d a s := fun _ _ _ => rfl
@[simp] theorem exec_qlenFail : ∀ d a s, exec (.qlenFail d a) s = execQlenFail d a s := fun _ _ _ => rfl
@[simp] theorem exec_qreset : ∀ d a s, exec (.qreset d a) s = execQreset d a s := fun _ _ _ => rfl
@[simp] theorem exec_qresetBind : ∀ d a b s, exec (.qresetBind d a b) s = execQresetBind d a b s := fun _ _ _ _ => rfl
@[simp] theorem exec_qresetUnbind : ∀ d a s, exec (.qresetUnbind d a) s = execQresetUnbind d a s := fun _ _ _ => rfl
@[simp] theorem exec_queueRequestAtController : ∀ r s, exec (.queueRequestAtController r) s = execQueueRequestAtController r s := fun _ _ => rfl
@[simp] theorem exec_terminationNotice : ∀ qid s, exec (.terminationNotice qid) s = execTerminationNotice qid s := fun _ _ => rfl
@[simp] theorem exec_fcast : ∀ d a s, exec (.fcast d a) s = execFcast d a s := fun _ _ _ => rfl
@[simp] theorem exec_fcastQ : ∀ d a s, exec (.fcastQ d a) s = execFcastQ d a s := fun _ _ _ => rfl
@[simp] theorem exec_tstamp : ∀ s, exec .tstamp s = execTstamp s := fun _ => rfl
@[simp] theorem exec_tstampNow : ∀ d s, exec (.tstampNow d) s = execTstampNow d s := fun _ _ => rfl
@[simp] theorem exec_tstampQ : ∀ d s, exec (.tstampQ d) s = execTstampQ d s := fun _ _ => rfl
@[simp] theorem exec_channelEntryArrival : ∀ ch v s, exec (.channelEntryArrival ch v) s = execChannelEntryArrival ch v s := fun _ _ _ => rfl
@[simp] theorem exec_requestAtHome : ∀ r s, exec (.requestAtHome r) s = execRequestAtHome r s := fun _ _ => rfl
@[simp] theorem exec_replyArrival : ∀ id ext s, exec (.replyArrival id ext) s = execReplyArrival id ext s := fun _ _ _ => rfl
@[simp] theorem exec_rnrRetry : ∀ id s, exec (.rnrRetry id) s = execRnrRetry id s := fun _ _ => rfl
@[simp] theorem exec_acceptanceNotice : ∀ id s, exec (.acceptanceNotice id) s = execAcceptanceNotice id s := fun _ _ => rfl
@[simp] theorem exec_cxlDeviceReadComplete : ∀ unit s, exec (.cxlDeviceReadComplete unit) s = execCxlDeviceReadComplete unit s := fun _ _ => rfl
@[simp] theorem exec_sectorBufferExpiry : ∀ unit s, exec (.sectorBufferExpiry unit) s = execSectorBufferExpiry unit s := fun _ _ => rfl
@[simp] theorem exec_deviceSemaphoreAdd : ∀ sem v s, exec (.deviceSemaphoreAdd sem v) s = execDeviceSemaphoreAdd sem v s := fun _ _ _ => rfl
@[simp] theorem exec_doorbell : ∀ v s, exec (.doorbell v) s = execDoorbell v s := fun _ _ => rfl
@[simp] theorem exec_translationWalk : ∀ va kind s, exec (.translationWalk va kind) s = execTranslationWalk va kind s := fun _ _ _ => rfl
@[simp] theorem exec_tlbInvalidation : ∀ base len all s, exec (.tlbInvalidation base len all) s = execTlbInvalidation base len all s := fun _ _ _ _ => rfl
@[simp] theorem exec_migrationRequest : ∀ m req s, exec (.migrationRequest m req) s = execMigrationRequest m req s := fun _ _ _ => rfl
@[simp] theorem exec_migrationRoundEnd : ∀ page s, exec (.migrationRoundEnd page) s = execMigrationRoundEnd page s := fun _ _ => rfl
@[simp] theorem exec_migrationFinalCopy : ∀ page s, exec (.migrationFinalCopy page) s = execMigrationFinalCopy page s := fun _ _ => rfl
@[simp] theorem exec_forwardedAccess : ∀ r s, exec (.forwardedAccess r) s = execForwardedAccess r s := fun _ _ => rfl
@[simp] theorem exec_migrationComplete : ∀ page s, exec (.migrationComplete page) s = execMigrationComplete page s := fun _ _ => rfl
@[simp] theorem exec_preemptInterrupt : ∀ s, exec .preemptInterrupt s = execPreemptInterrupt s := fun _ => rfl
@[simp] theorem exec_delayedExpiry : ∀ ctx s, exec (.delayedExpiry ctx) s = execDelayedExpiry ctx s := fun _ _ => rfl
@[simp] theorem exec_quietPointReached : ∀ ctx s, exec (.quietPointReached ctx) s = execQuietPointReached ctx s := fun _ _ => rfl
@[simp] theorem exec_clusterDump : ∀ s, exec .clusterDump s = execClusterDump s := fun _ => rfl
@[simp] theorem exec_clusterReset : ∀ cluster pkg s, exec (.clusterReset cluster pkg) s = execClusterReset cluster pkg s := fun _ _ _ => rfl
@[simp] theorem exec_boundaryReopen : ∀ cluster s, exec (.boundaryReopen cluster) s = execBoundaryReopen cluster s := fun _ _ => rfl
@[simp] theorem exec_packageReset : ∀ s, exec .packageReset s = execPackageReset s := fun _ => rfl
@[simp] theorem exec_flitReplay : ∀ link s, exec (.flitReplay link) s = execFlitReplay link s := fun _ _ => rfl
@[simp] theorem exec_linkRetrain : ∀ link ok s, exec (.linkRetrain link ok) s = execLinkRetrain link ok s := fun _ _ _ => rfl
@[simp] theorem exec_linkFailure : ∀ pkg link unreachable s, exec (.linkFailure pkg link unreachable) s = execLinkFailure pkg link unreachable s := fun _ _ _ _ => rfl
@[simp] theorem exec_failureAnnouncement : ∀ pkg s, exec (.failureAnnouncement pkg) s = execFailureAnnouncement pkg s := fun _ _ => rfl
@[simp] theorem exec_inDoubtTimeout : ∀ pkg s, exec (.inDoubtTimeout pkg) s = execInDoubtTimeout pkg s := fun _ _ => rfl
@[simp] theorem exec_hostRead : ∀ seq ga len s, exec (.hostRead seq ga len) s = execHostRead seq ga len s := fun _ _ _ _ => rfl
@[simp] theorem exec_hostWrite : ∀ seq ga data s, exec (.hostWrite seq ga data) s = execHostWrite seq ga data s := fun _ _ _ _ => rfl
@[simp] theorem exec_hostLaunch : ∀ rec s, exec (.hostLaunch rec) s = execHostLaunch rec s := fun _ _ => rfl
@[simp] theorem exec_hostResync : ∀ addr s, exec (.hostResync addr) s = execHostResync addr s := fun _ _ => rfl
@[simp] theorem exec_hcallAnswer : ∀ core ctx gen ticket value s, exec (.hcallAnswer core ctx gen ticket value) s = execHcallAnswer core ctx gen ticket value s := fun _ _ _ _ _ _ => rfl
@[simp] theorem exec_dbgrd : ∀ cluster reg s, exec (.dbgrd cluster reg) s = execDbgrd cluster reg s := fun _ _ _ => rfl
@[simp] theorem exec_dbgwr : ∀ cluster reg v s, exec (.dbgwr cluster reg v) s = execDbgwr cluster reg v s := fun _ _ _ _ => rfl
@[simp] theorem exec_dctlHalt : ∀ cluster s, exec (.dctlHalt cluster) s = execDctlHalt cluster s := fun _ _ => rfl
@[simp] theorem exec_dctlResume : ∀ cluster s, exec (.dctlResume cluster) s = execDctlResume cluster s := fun _ _ => rfl
@[simp] theorem exec_dctlStep : ∀ cluster s, exec (.dctlStep cluster) s = execDctlStep cluster s := fun _ _ => rfl
@[simp] theorem exec_ctxrd : ∀ core ctx off s, exec (.ctxrd core ctx off) s = execCtxrd core ctx off s := fun _ _ _ _ => rfl
@[simp] theorem exec_ctxwr : ∀ core ctx off v s, exec (.ctxwr core ctx off v) s = execCtxwr core ctx off v s := fun _ _ _ _ _ => rfl
@[simp] theorem exec_memrd : ∀ ga len s, exec (.memrd ga len) s = execMemrd ga len s := fun _ _ _ => rfl
@[simp] theorem exec_memwr : ∀ ga data s, exec (.memwr ga data) s = execMemwr ga data s := fun _ _ _ => rfl
@[simp] theorem exec_patch : ∀ cluster va line scope s, exec (.patch cluster va line scope) s = execPatch cluster va line scope s := fun _ _ _ _ _ => rfl
@[simp] theorem exec_trace : ∀ t s, exec (.trace t) s = execTrace t s := fun _ _ => rfl
@[simp] theorem exec_traceSample : ∀ ctx s, exec (.traceSample ctx) s = execTraceSample ctx s := fun _ _ => rfl
@[simp] theorem exec_chal : ∀ s, exec .chal s = execChal s := fun _ => rfl
@[simp] theorem exec_unlock : ∀ token s, exec (.unlock token) s = execUnlock token s := fun _ _ => rfl
@[simp] theorem exec_relock : ∀ s, exec .relock s = execRelock s := fun _ => rfl
@[simp] theorem exec_attest : ∀ nonce s, exec (.attest nonce) s = execAttest nonce s := fun _ _ => rfl
@[simp] theorem exec_pwrlim : ∀ watts s, exec (.pwrlim watts) s = execPwrlim watts s := fun _ _ => rfl
@[simp] theorem exec_life : ∀ s, exec .life s = execLife s := fun _ => rfl
@[simp] theorem exec_powerManagerTick : ∀ s, exec .powerManagerTick s = execPowerManagerTick s := fun _ => rfl
@[simp] theorem exec_powerCap : ∀ s, exec .powerCap s = execPowerCap s := fun _ => rfl
@[simp] theorem exec_powerCapLift : ∀ s, exec .powerCapLift s = execPowerCapLift s := fun _ => rfl
@[simp] theorem exec_routerPowerGate : ∀ router s, exec (.routerPowerGate router) s = execRouterPowerGate router s := fun _ _ => rfl
@[simp] theorem exec_routerWake : ∀ router s, exec (.routerWake router) s = execRouterWake router s := fun _ _ => rfl
@[simp] theorem exec_clusterPowerOff : ∀ cluster s, exec (.clusterPowerOff cluster) s = execClusterPowerOff cluster s := fun _ _ => rfl
@[simp] theorem exec_clusterPowerOn : ∀ cluster s, exec (.clusterPowerOn cluster) s = execClusterPowerOn cluster s := fun _ _ => rfl
@[simp] theorem exec_packageSleep : ∀ s, exec .packageSleep s = execPackageSleep s := fun _ => rfl
@[simp] theorem exec_packageWake : ∀ s, exec .packageWake s = execPackageWake s := fun _ => rfl
@[simp] theorem exec_lifetimeHoursWrite : ∀ s, exec .lifetimeHoursWrite s = execLifetimeHoursWrite s := fun _ => rfl
@[simp] theorem exec_lifetimeCounterWrite : ∀ s, exec .lifetimeCounterWrite s = execLifetimeCounterWrite s := fun _ => rfl
@[simp] theorem exec_illop : ∀ op s, exec (.illop op) s = execIllop op s := fun _ _ => rfl
@[simp] theorem exec_eventQueueCommandStart : ∀ s, exec .eventQueueCommandStart s = execEventQueueCommandStart s := fun _ => rfl
@[simp] theorem exec_eventQueueCommandComplete : ∀ s, exec .eventQueueCommandComplete s = execEventQueueCommandComplete s := fun _ => rfl
@[simp] theorem exec_allowanceReturn : ∀ port cls s, exec (.allowanceReturn port cls) s = execAllowanceReturn port cls s := fun _ _ _ => rfl
@[simp] theorem exec_hostAcknowledgement : ∀ id data s, exec (.hostAcknowledgement id data) s = execHostAcknowledgement id data s := fun _ _ _ => rfl
@[simp] theorem exec_jobRestore : ∀ s, exec .jobRestore s = execJobRestore s := fun _ => rfl
@[simp] theorem exec_jobEnded : ∀ s, exec .jobEnded s = execJobEnded s := fun _ => rfl
@[simp] theorem exec_scrub : ∀ scratch ga bits s, exec (.scrub scratch ga bits) s = execScrub scratch ga bits s := fun _ _ _ _ => rfl
@[simp] theorem exec_poolRegionAssignment : ∀ port base size owner s, exec (.poolRegionAssignment port base size owner) s = execPoolRegionAssignment port base size owner s := fun _ _ _ _ _ => rfl
@[simp] theorem exec_bootFlashImageWrite : ∀ image data s, exec (.bootFlashImageWrite image data) s = execBootFlashImageWrite image data s := fun _ _ _ => rfl
@[simp] theorem exec_ownershipRecord : ∀ record s, exec (.ownershipRecord record) s = execOwnershipRecord record s := fun _ _ => rfl
@[simp] theorem exec_lossOfPower : ∀ s, exec .lossOfPower s = execLossOfPower s := fun _ => rfl

end Sys2Proof.Machine
end

