-- ==== Sys2Proof/Laws/Frames.lean ====
section
/-!
SUPPORT. What the shared operations leave as it was: traps, blocks, completion, and the writes of registers.
-/

namespace Sys2Proof.Machine

theorem State.onlyContext_refl (s : State) : s.onlyContext s := ⟨rfl, fun _ _ => rfl⟩

theorem State.onlyContext_cur {s t : State} (h : s.onlyContext t) : t.cur = s.cur := by
  have := congrArg State.cur h.1; exact this

theorem State.onlyContext_mem {s t : State} (h : s.onlyContext t) : t.mem = s.mem := by
  have := congrArg State.mem h.1; exact this

theorem State.onlyContext_trans {s t u : State} (h : s.onlyContext t) (k : t.onlyContext u) : s.onlyContext u := by
  have hc := State.onlyContext_cur h
  refine ⟨?_, fun j hj => (k.2 j (by rw [hc]; exact hj)).trans (h.2 j hj)⟩
  have e := k.1
  rw [← h.1, ← e]

@[simp] theorem State.at_putAt (s : State) (i : Fin 11) (c : Ctx) : (s.putAt i c).at i = c := by
  simp [putAt, State.at]

theorem State.at_putAt_ne (s : State) (i j : Fin 11) (c : Ctx) (h : j ≠ i) : (s.putAt i c).at j = s.at j := by
  have : i.val ≠ j.val := fun e => h (Fin.ext e.symm)
  simp [putAt, State.at, this]

@[simp] theorem State.ctx_put (s : State) (c : Ctx) : (s.put c).ctx = c := State.at_putAt s s.cur c

theorem State.onlyContext_put (s : State) (c : Ctx) : s.onlyContext (s.put c) :=
  ⟨rfl, fun j hj => s.at_putAt_ne s.cur j c hj⟩

theorem State.onlyContext_takeEntry (s : State) (q : Nat) : s.onlyContext (s.takeEntry q) := by
  unfold takeEntry; dsimp only; split
  · exact ⟨rfl, fun _ _ => rfl⟩
  · exact ⟨rfl, fun _ _ => rfl⟩

theorem State.ctx_takeEntry (s : State) (q : Nat) : (s.takeEntry q).ctx = s.ctx := by
  unfold takeEntry; dsimp only; split <;> rfl

theorem State.consume_keeps (s : State) (l : List Nat) : s.onlyContext (s.consume l) ∧ (s.consume l).ctx = s.ctx := by
  induction l generalizing s with
  | nil => exact ⟨s.onlyContext_refl, rfl⟩
  | cons q t ih =>
    have h := ih (s.takeEntry q)
    exact ⟨State.onlyContext_trans (s.onlyContext_takeEntry q) h.1, h.2.trans (s.ctx_takeEntry q)⟩

/-- Moving on keeps every register. -/
theorem Ctx.advance_keeps (c : Ctx) (n : Nat) : c.sameRegs c.advance n ∧ c.sameStatus c.advance := by
  refine ⟨⟨fun _ _ => rfl, rfl, rfl, rfl, rfl, rfl, rfl, rfl, rfl, rfl, rfl, rfl, rfl, rfl, rfl, rfl, rfl, rfl, rfl, rfl⟩, ?_⟩
  exact ⟨rfl, rfl, rfl, rfl, rfl, rfl, rfl, rfl⟩

/-- What every issue leaves touches the places in the channels' order and the early reads alone. -/
theorem State.reserveChan_keeps (t : State) (c : Nat) :
    t.onlyContext (t.reserveChan c) ∧ (t.reserveChan c).ctx = t.ctx := by
  unfold reserveChan; dsimp only; split
  · exact ⟨t.onlyContext_refl, rfl⟩
  · exact ⟨⟨rfl, fun _ _ => rfl⟩, rfl⟩

theorem State.reserveAll_keeps (l : List Nat) : ∀ t : State,
    t.onlyContext (l.foldl (fun s c => s.reserveChan c) t) ∧ (l.foldl (fun s c => s.reserveChan c) t).ctx = t.ctx := by
  induction l with
  | nil => exact fun t => ⟨t.onlyContext_refl, rfl⟩
  | cons c l ih =>
    intro t
    have e := t.reserveChan_keeps c
    have h := ih (t.reserveChan c)
    exact ⟨State.onlyContext_trans e.1 h.1, h.2.trans e.2⟩

theorem State.reserve_keeps (t : State) (uses : List Use) : t.onlyContext (t.reserve uses) ∧ (t.reserve uses).ctx = t.ctx := by
  unfold reserve
  split
  · split
    · exact State.reserveAll_keeps _ t
    · exact ⟨t.onlyContext_refl, rfl⟩
  · exact ⟨t.onlyContext_refl, rfl⟩

theorem State.issued_keeps (t : State) (i : Fin 11) (uses : List Use) : t.onlyContext (t.issued i uses) ∧ (t.issued i uses).ctx = t.ctx := by
  have h := t.reserve_keeps uses
  exact ⟨State.onlyContext_trans h.1 ⟨rfl, fun _ _ => rfl⟩, h.2⟩

/-- A completion touches its context and the queues and channels it reads. -/
theorem State.completed_keeps (t : State) (uses : List Use) (n : Nat) :
    t.onlyContext (t.completed uses) ∧ t.ctx.sameRegs (t.completed uses).ctx n ∧ t.ctx.sameStatus (t.completed uses).ctx ∧
      (t.completed uses).ctx.vectoring = t.ctx.vectoring := by
  obtain ⟨h, e⟩ := t.consume_keeps (sources uses)
  have k := State.onlyContext_put (t.consume (sources uses)) (t.consume (sources uses)).ctx.advance
  have a := (t.consume (sources uses)).ctx.advance_keeps n
  have i := State.issued_keeps ((t.consume (sources uses)).put (t.consume (sources uses)).ctx.advance) t.cur uses
  unfold completed
  refine ⟨State.onlyContext_trans (State.onlyContext_trans h k) i.1, ?_, ?_, ?_⟩
  · rw [i.2, State.ctx_put, ← e]; exact a.1
  · rw [i.2, State.ctx_put, ← e]; exact a.2
  · rw [i.2, State.ctx_put, e]; rfl

theorem State.onlyContext_dissolve (s : State) : s.onlyContext (s.dissolve s.cur) := by
  unfold dissolve
  split
  · exact s.onlyContext_refl
  · exact ⟨rfl, fun j hj => s.at_putAt_ne s.cur j _ hj⟩

theorem State.onlyContext_trace (s : State) (i : Fin 11) (k : Nat) (w : Word) : s.onlyContext (s.trace i k w) := by
  unfold trace; split
  · exact s.onlyContext_refl
  · exact ⟨rfl, fun _ _ => rfl⟩

theorem State.ctx_trace (s : State) (i j : Fin 11) (k : Nat) (w : Word) : (s.trace i k w).at j = s.at j := by
  unfold trace; split <;> rfl

/-- Dissolving a gang changes its member's gang alone. -/
theorem State.at_dissolve (s : State) (i : Fin 11) : (s.dissolve i).at i = { s.at i with gang := none } := by
  unfold dissolve; split
  · rename_i h; rw [← h]
  · exact s.at_putAt i _

theorem State.onlyContext_haltCore (s : State) (w : HaltCause) (r v : Nat) (i : Fin 11) : s.onlyContext (s.haltCore w r v i) :=
  ⟨rfl, fun _ _ => rfl⟩

theorem State.onlyContext_haltCluster (s : State) (r c x : Nat) : s.onlyContext (s.haltCluster r c x) := ⟨rfl, fun _ _ => rfl⟩

/-- What putting a context, dissolving its gang and recording the trap come to. -/
theorem State.entry_keeps (s : State) (c : Ctx) (k : Nat) (w : Word) (n : Nat)
    (h : s.ctx.sameRegs c n) :
    s.onlyContext (((s.putAt s.cur c).dissolve s.cur).trace s.cur k w) ∧
      s.ctx.sameRegs ((((s.putAt s.cur c).dissolve s.cur).trace s.cur k w).at s.cur) n ∧
      ((((s.putAt s.cur c).dissolve s.cur).trace s.cur k w).at s.cur).vectoring = c.vectoring := by
  have h1 : s.onlyContext (s.putAt s.cur c) := s.onlyContext_put c
  have h2 : (s.putAt s.cur c).onlyContext ((s.putAt s.cur c).dissolve s.cur) := (s.putAt s.cur c).onlyContext_dissolve
  have h3 := ((s.putAt s.cur c).dissolve s.cur).onlyContext_trace s.cur k w
  refine ⟨State.onlyContext_trans (State.onlyContext_trans h1 h2) h3, ?_, ?_⟩
  · rw [State.ctx_trace, State.at_dissolve, State.at_putAt]; exact h
  · rw [State.ctx_trace, State.at_dissolve, State.at_putAt]

/-- A trap keeps every register but the saved ones (R342), and marks the context as on its way to the handler. -/
theorem State.takeTrap_keeps (s : State) (t : TrapInfo) (a b c : Bool) (e : Word) (n : Nat) :
    s.onlyContext (s.takeTrap s.cur t a b c e) ∧ s.ctx.sameRegs ((s.takeTrap s.cur t a b c e).at s.cur) n ∧
      ((s.takeTrap s.cur t a b c e).at s.cur).vectoring = true := by
  have h := s.entry_keeps ((s.at s.cur).enter t (causeWord t a b c) e s.regs.tvec (Config.faddr s.tick)) 2 e n
    ⟨fun _ _ => rfl, rfl, rfl, rfl, rfl, rfl, rfl, rfl, rfl, rfl, rfl, rfl, rfl, rfl, rfl, rfl, rfl, rfl, rfl, rfl⟩
  unfold takeTrap
  dsimp only
  split
  · exact ⟨State.onlyContext_trans h.1 (State.onlyContext_haltCore _ _ _ _ _), h.2⟩
  · exact h

/-- A precise trap does too, whichever way it is taken (R100, R342). -/
theorem State.precise_keeps (s : State) (t : TrapInfo) (n : Nat) :
    s.onlyContext (s.precise s.cur t) ∧ s.ctx.sameRegs ((s.precise s.cur t).at s.cur) n ∧
      (((s.precise s.cur t).at s.cur).vectoring = false → s.ctx.sameStatus ((s.precise s.cur t).at s.cur)) := by
  unfold precise
  split
  · refine ⟨State.onlyContext_trans (s.onlyContext_put _) (State.onlyContext_haltCluster _ _ _ _), ?_, fun _ => ?_⟩
    · show s.ctx.sameRegs ((s.put { s.at s.cur with block := none, line := none }).ctx) n
      rw [State.ctx_put]
      exact ⟨fun _ _ => rfl, rfl, rfl, rfl, rfl, rfl, rfl, rfl, rfl, rfl, rfl, rfl, rfl, rfl, rfl, rfl, rfl, rfl, rfl, rfl⟩
    · show s.ctx.sameStatus ((s.put { s.at s.cur with block := none, line := none }).ctx)
      rw [State.ctx_put]
      exact ⟨rfl, rfl, rfl, rfl, rfl, rfl, rfl, rfl⟩
  · split
    · have h := s.takeTrap_keeps { t with faddr := some (s.at s.cur).pc } false false false (s.at s.cur).next n
      exact ⟨h.1, h.2.1, fun e => by rw [h.2.2] at e; cases e⟩
    · have h := s.takeTrap_keeps t false false false (s.at s.cur).pc n
      exact ⟨h.1, h.2.1, fun e => by rw [h.2.2] at e; cases e⟩

/-- Counting a wait touches a counter (R239). -/
theorem State.countWait_keeps (s : State) (w : Wait) : s.onlyContext (s.countWait w) ∧ (s.countWait w).ctx = s.ctx := by
  unfold countWait
  dsimp only
  repeat' split
  all_goals exact ⟨s.onlyContext_refl, rfl⟩

theorem Ctx.blockedBy_keeps (c : Ctx) (b : Block) (n : Nat) :
    c.sameRegs (c.blockedBy b) n ∧ c.sameStatus (c.blockedBy b) ∧ (c.blockedBy b).vectoring = c.vectoring := by
  refine ⟨⟨fun _ _ => rfl, rfl, rfl, rfl, rfl, rfl, rfl, rfl, rfl, rfl, rfl, rfl, rfl, rfl, rfl, rfl, rfl, rfl, rfl, rfl⟩, ?_, rfl⟩
  exact ⟨rfl, rfl, rfl, rfl, rfl, rfl, rfl, rfl⟩

/-- A block keeps every register. -/
theorem State.blockOn_keeps (s : State) (w : Wait) (l : List Nat) (n : Nat) :
    s.onlyContext (s.blockOn w l) ∧ s.ctx.sameRegs (s.blockOn w l).ctx n ∧ s.ctx.sameStatus (s.blockOn w l).ctx := by
  obtain ⟨h, e⟩ := s.countWait_keeps w
  have p := fun b => State.onlyContext_trans h ((s.countWait w).onlyContext_put (s.ctx.blockedBy b))
  have q := fun b => s.ctx.blockedBy_keeps b n
  unfold blockOn
  refine ⟨State.onlyContext_trans (p _) ⟨rfl, fun _ _ => rfl⟩, ?_⟩
  show s.ctx.sameRegs (((s.countWait w).put _).ctx) n ∧ s.ctx.sameStatus (((s.countWait w).put _).ctx)
  rw [State.ctx_put]; exact ⟨(q _).1, (q _).2.1⟩

/-- What any issue keeps that comes to no effect of its own. -/
def State.idle (s t : State) (n : Nat) : Prop :=
  s.onlyContext t ∧ s.ctx.sameRegs t.ctx n ∧ (t.ctx.vectoring = false → s.ctx.sameStatus t.ctx)

theorem State.raise_idle (s : State) (t : TrapInfo) (n : Nat) : s.idle (s.raise t) n := by
  unfold raise
  split
  · have h := s.precise_keeps t n
    have hc := State.onlyContext_cur h.1
    refine ⟨h.1, ?_⟩
    unfold ctx
    rw [hc]; exact h.2
  · have h := s.blockOn_keeps (.deferred t) [] n
    exact ⟨h.1, h.2.1, fun _ => h.2.2⟩

theorem State.idle_refl (s : State) (n : Nat) : s.idle s n :=
  ⟨s.onlyContext_refl, ⟨fun _ _ => rfl, rfl, rfl, rfl, rfl, rfl, rfl, rfl, rfl, rfl, rfl, rfl, rfl, rfl, rfl, rfl, rfl, rfl, rfl, rfl⟩,
    fun _ => ⟨rfl, rfl, rfl, rfl, rfl, rfl, rfl, rfl⟩⟩

theorem State.stall_idle (s : State) (n : Nat) : s.idle s.stall n := ⟨⟨rfl, fun _ _ => rfl⟩, (s.idle_refl n).2⟩

theorem State.blockOn_idle (s : State) (w : Wait) (l : List Nat) (n : Nat) : s.idle (s.blockOn w l) n :=
  have h := s.blockOn_keeps w l n
  ⟨h.1, h.2.1, fun _ => h.2.2⟩

/-- The issue of an instruction: it comes to its own effect, or to a trap, a block or a hold with no effect. -/
theorem State.run_cases (s : State) (op : Nat) (cls : Class) (uses : List Use) (priv : Bool) (body : State → Effect) (n : Nat) :
    s.run op cls uses priv body = (s.finish (sources uses) (body s)).issued s.cur uses ∨ s.idle (s.run op cls uses priv body) n := by
  unfold run
  split
  · exact .inr (s.raise_idle _ n)
  · split
    · exact .inr (s.raise_idle _ n)
    · split
      · exact .inr (s.blockOn_idle _ _ n)
      · split
        · exact .inr (s.blockOn_idle _ _ n)
        · split
          · exact .inr (s.stall_idle n)
          · split
            · exact .inr (s.blockOn_idle _ _ n)
            · split
              · exact .inr (s.blockOn_idle _ _ n)
              · exact .inl rfl

/-- Entries sent to a neighbour touch the channels, the places in their order and what leaves. -/
theorem State.emits_keeps (c : Nat) (l : List VWord) : ∀ s : State,
    s.onlyContext (l.foldl (fun s v => s.emitChan c v) s) ∧ (l.foldl (fun s v => s.emitChan c v) s).ctx = s.ctx := by
  induction l with
  | nil => exact fun s => ⟨s.onlyContext_refl, rfl⟩
  | cons v l ih =>
    intro s
    have e : s.onlyContext (s.emitChan c v) := ⟨rfl, fun _ _ => rfl⟩
    have h := ih (s.emitChan c v)
    exact ⟨State.onlyContext_trans e h.1, h.2⟩

theorem State.flushChan_keeps (s : State) (c : Nat) : s.onlyContext (s.flushChan c) ∧ (s.flushChan c).ctx = s.ctx := by
  unfold flushChan
  have e : s.onlyContext { s with slots := upd s.slots c (readySlots (nth s.slots c [])).2 } := ⟨rfl, fun _ _ => rfl⟩
  have h := State.emits_keeps c (readySlots (nth s.slots c [])).1 ({ s with slots := upd s.slots c (readySlots (nth s.slots c [])).2 })
  exact ⟨State.onlyContext_trans e h.1, h.2⟩

theorem State.sendChan_keeps (s : State) (c : Nat) (v : VWord) : s.onlyContext (s.sendChan c v) ∧ (s.sendChan c v).ctx = s.ctx := by
  unfold sendChan
  split
  · exact ⟨⟨rfl, fun _ _ => rfl⟩, rfl⟩
  · have h := State.flushChan_keeps ({ s with slots := upd s.slots c (fillSlot s.cur v (nth s.slots c [])) }) c
    have e : s.onlyContext { s with slots := upd s.slots c (fillSlot s.cur v (nth s.slots c [])) } := ⟨rfl, fun _ _ => rfl⟩
    exact ⟨State.onlyContext_trans e h.1, h.2⟩

/-- A write of a scalar register touches that register, or a queue or channel. -/
theorem State.writeG_keeps (s : State) (d : Field) (v : Word) :
    s.onlyContext (s.writeG d v) ∧ s.ctx.sameRegs (s.writeG d v).ctx d.toNat ∧ s.ctx.sameStatus (s.writeG d v).ctx := by
  unfold writeG
  split
  · exact ⟨s.onlyContext_refl, (s.idle_refl _).2.1, ⟨rfl, rfl, rfl, rfl, rfl, rfl, rfl, rfl⟩⟩
  · split
    · rw [State.ctx_put]
      refine ⟨s.onlyContext_put _, ⟨fun m hm => ?_, rfl, rfl, rfl, rfl, rfl, rfl, rfl, rfl, rfl, rfl, rfl, rfl, rfl, rfl, rfl, rfl, rfl, rfl, rfl⟩,
        ⟨rfl, rfl, rfl, rfl, rfl, rfl, rfl, rfl⟩⟩
      unfold nth upd
      rw [Vector.getElem?_setIfInBounds_ne (Ne.symm hm)]
    · split
      · rw [State.ctx_put]
        exact ⟨s.onlyContext_put _, (s.idle_refl _).2.1, ⟨rfl, rfl, rfl, rfl, rfl, rfl, rfl, rfl⟩⟩
      · split
        · have h := s.sendChan_keeps (d.toNat - 40) (v.zeroExtend 512)
          rw [h.2]
          exact ⟨h.1, (s.idle_refl _).2.1, ⟨rfl, rfl, rfl, rfl, rfl, rfl, rfl, rfl⟩⟩
        · exact ⟨s.onlyContext_refl, (s.idle_refl _).2.1, ⟨rfl, rfl, rfl, rfl, rfl, rfl, rfl, rfl⟩⟩

/-! ### The issuing context stays the one that issues -/

@[simp] theorem State.writeG_cur (s : State) (d : Field) (v : Word) : (s.writeG d v).cur = s.cur :=
  State.onlyContext_cur (s.writeG_keeps d v).1

@[simp] theorem State.put_cur (s : State) (c : Ctx) : (s.put c).cur = s.cur := rfl

@[simp] theorem State.sendChan_cur (s : State) (c : Nat) (v : VWord) : (s.sendChan c v).cur = s.cur :=
  State.onlyContext_cur (s.sendChan_keeps c v).1

@[simp] theorem State.writeF_cur (s : State) (d : Field) (v : Word) : (s.writeF d v).cur = s.cur := by
  unfold writeF; simp

@[simp] theorem State.writeV_cur (s : State) (d : Field) (v : VWord) : (s.writeV d v).cur = s.cur := by
  unfold writeV; repeat' split
  all_goals simp

@[simp] theorem State.dissolve_cur (s : State) (i : Fin 11) : (s.dissolve i).cur = s.cur := by unfold dissolve; split <;> rfl

@[simp] theorem State.diverge_cur (s : State) : s.diverge.cur = s.cur := by unfold diverge; split <;> simp

end Sys2Proof.Machine
end

