-- ==== Sys2Proof/Laws/Issue.lean ====
section
/-!
SUPPORT. The issue of an instruction: what `run` comes to when the instruction issues, and when it does not.
-/

namespace Sys2Proof.Machine

theorem State.firstUse_none (s : State) (op : Nat) (uses : List Use) (h : uses.all (fun u => (s.useFault u).isNone) = true) :
    s.firstUse op uses = none := by
  induction uses with
  | nil => rfl
  | cons u t ih =>
    simp only [List.all_cons, Bool.and_eq_true, Option.isNone_iff_eq_none] at h
    simp only [firstUse, h.1]
    exact ih (by simpa using h.2)

theorem State.emptySource_none (s : State) (l : List Nat) (h : l.all (fun q => (s.entry q).isSome) = true) :
    s.emptySource l = none := by
  induction l with
  | nil => rfl
  | cons q t ih =>
    simp only [List.all_cons, Bool.and_eq_true] at h
    obtain ⟨v, hv⟩ := Option.isSome_iff_exists.mp h.1
    simp only [emptySource, hv]
    exact ih h.2

/-- An instruction that issues has its own effect. -/
theorem State.run_of_canIssue (s : State) (op : Nat) (cls : Class) (uses : List Use) (priv : Bool) (body : State → Effect)
    (h : s.canIssue cls uses priv = true) : s.run op cls uses priv body = (s.finish (sources uses) (body s)).issued s.cur uses := by
  simp only [canIssue, Bool.and_eq_true, Bool.or_eq_true, Bool.not_eq_true', Option.isNone_iff_eq_none] at h
  obtain ⟨⟨⟨⟨⟨⟨h1, h2⟩, h3⟩, h4⟩, h5⟩, h6⟩, h7⟩ := h
  have hw : (!s.ctx.spec.isEmpty && (cls != .free || uses.any Use.special)) = false := by
    rcases h3 with h3 | ⟨h3, h3'⟩
    · simp [h3]
    · simp_all
  have hp : (priv && !s.ctx.pl) = false := by rcases h2 with h2 | h2 <;> simp [h2]
  have ho : (cls == .ordered && !s.ctx.hold.isEmpty) = false := by rcases h5 with h5 | h5 <;> simp_all
  simp only [run, s.firstUse_none op uses h1, hp, hw, h4, ho, s.emptySource_none _ h6, h7, Bool.false_eq_true, if_false]

theorem State.issue_of_canIssue (s : State) (op : Nat) (cls : Class) (uses : List Use) (body : State → Effect)
    (h : s.canIssue cls uses false = true) : s.issue op cls uses body = .next ((s.finish (sources uses) (body s)).issued s.cur uses) := by
  rw [issue, s.run_of_canIssue op cls uses false body h]

theorem State.issueP_of_canIssue (s : State) (op : Nat) (cls : Class) (uses : List Use) (body : State → Effect)
    (h : s.canIssue cls uses true = true) : s.issueP op cls uses body = .next ((s.finish (sources uses) (body s)).issued s.cur uses) := by
  rw [issueP, s.run_of_canIssue op cls uses true body h]

/-- An instruction that names no register leaves nothing but its effect. -/
@[simp] theorem State.issued_nil (t : State) (i : Fin 11) : t.issued i [] = t := by
  have e : t.reserve [] = t := by
    unfold reserve
    split
    · split <;> rfl
    · rfl
  have f : (fun e : Early => if (e.ctx == i) = true then { e with wrote := [].filterMap Use.reg ++ e.wrote } else e) = id := by
    funext e; split <;> rfl
  rw [issued, e, wroteRegs, f, List.map_id]

/-- An effect that completes. -/
theorem State.finish_done (s t : State) (uses : List Use) (h : t.cur = s.cur) :
    (s.finish (sources uses) (.done t)).issued s.cur uses = t.completed uses := by
  rw [← h]; rfl

/-- An effect that is a trap of the instruction. -/
theorem State.finish_trap (s : State) (srcs : List Nat) (t : TrapInfo) (h : t.cause ≠ noWalker) :
    s.finish srcs (.trap t) = s.raise t := by
  simp [finish, h]

/-- An instruction that issues and completes. -/
theorem State.issue_done (s t : State) (op : Nat) (cls : Class) (uses : List Use) (body : State → Effect)
    (h : s.canIssue cls uses false = true) (e : body s = .done t) (c : t.cur = s.cur) :
    s.issue op cls uses body = .next (t.completed uses) := by
  rw [s.issue_of_canIssue op cls uses body h, e, s.finish_done t uses c]

end Sys2Proof.Machine
end

