-- ==== Sys2Proof/Laws/Memory.lean ====
section
/-!
SUPPORT. Memory: a read after a write, and the canonical form, which every operation of memory and of the scratchpad keeps.
-/

namespace Sys2Proof.Machine

/-! ### Lists of cells -/

/-- A byte written reads back; every other byte is as it was, where the list is canonical. -/
theorem cellsGet_below {lo : Nat} {l : List Host.Cell} {a : Nat} (h : cellsAbove (some lo) l = true) (k : a ≤ lo) :
    cellsGet l a = unlisted := by
  induction l generalizing lo with
  | nil => rfl
  | cons c t ih =>
    obtain ⟨x, b⟩ := c
    simp only [cellsAbove, Bool.and_eq_true, decide_eq_true_eq] at h
    obtain ⟨⟨h1, _⟩, h2⟩ := h
    have : ¬ x = a := by omega
    simp only [cellsGet, if_neg this]
    exact ih h2 (by omega)

theorem cellsAbove_mono {lo k : Nat} {l : List Host.Cell} (h : cellsAbove (some lo) l = true) (hk : k ≤ lo) :
    cellsAbove (some k) l = true := by
  cases l with
  | nil => rfl
  | cons c t =>
    obtain ⟨x, b⟩ := c
    simp only [cellsAbove, Bool.and_eq_true, decide_eq_true_eq] at h ⊢
    exact ⟨⟨by omega, h.1.2⟩, h.2⟩

theorem cellsSet_above {lo : Nat} {l : List Host.Cell} {a : Nat} {b : Byte} (h : cellsAbove (some lo) l = true) (k : lo < a) :
    cellsAbove (some lo) (cellsSet l a b) = true := by
  induction l generalizing lo with
  | nil =>
    unfold cellsSet; split
    · rfl
    · rename_i hb
      simp [cellsAbove, k, hb]
  | cons c t ih =>
    obtain ⟨x, c⟩ := c
    simp only [cellsAbove, Bool.and_eq_true, decide_eq_true_eq] at h
    obtain ⟨⟨h1, h2⟩, h3⟩ := h
    unfold cellsSet
    split
    · rename_i hx
      split
      · simp [cellsAbove, h1, h2, h3]
      · rename_i hb
        simp [cellsAbove, k, hb, hx, h2, h3]
    · split
      · rename_i hn he
        split
        · exact cellsAbove_mono h3 (by omega)
        · rename_i hb
          simp only [cellsAbove, Bool.and_eq_true, decide_eq_true_eq]
          exact ⟨⟨k, by simpa using hb⟩, he ▸ h3⟩
      · rename_i hn he
        simp only [cellsAbove, Bool.and_eq_true, decide_eq_true_eq]
        exact ⟨⟨h1, h2⟩, ih h3 (by omega)⟩

theorem cellsAbove_none {l : List Host.Cell} (h : cellsAbove none l = true) (x : Nat) (b : Byte) (t : List Host.Cell)
    (e : l = (x, b) :: t) : b ≠ unlisted ∧ cellsAbove (some x) t = true := by
  subst e
  simpa [cellsAbove] using h

/-- A write keeps the canonical form. -/
theorem cellsSet_wf {l : List Host.Cell} (h : cellsWf l = true) (a : Nat) (b : Byte) : cellsWf (cellsSet l a b) = true := by
  unfold cellsWf at *
  cases l with
  | nil =>
    unfold cellsSet; split
    · rfl
    · rename_i hb; simp [cellsAbove, hb]
  | cons c t =>
    obtain ⟨x, c⟩ := c
    obtain ⟨h1, h2⟩ := cellsAbove_none h x c t rfl
    unfold cellsSet
    split
    · rename_i hx
      split
      · exact h
      · rename_i hb; simp [cellsAbove, hb, hx, h1, h2]
    · split
      · split
        · cases t with
          | nil => rfl
          | cons d u =>
            obtain ⟨y, d⟩ := d
            simp only [cellsAbove, Bool.and_eq_true, decide_eq_true_eq] at h2 ⊢
            exact ⟨⟨trivial, h2.1.2⟩, h2.2⟩
        · rename_i he hb
          simp only [cellsAbove, Bool.and_eq_true]
          exact ⟨⟨trivial, by simpa using hb⟩, he ▸ h2⟩
      · simp only [cellsAbove, Bool.and_eq_true]
        exact ⟨⟨trivial, by simpa using h1⟩, cellsSet_above h2 (by omega)⟩

theorem cellsGet_set_above {lo : Nat} {l : List Host.Cell} (h : cellsAbove (some lo) l = true) (a : Nat) (b : Byte) (x : Nat) :
    cellsGet (cellsSet l a b) x = if x = a then b else cellsGet l x := by
  induction l generalizing lo with
  | nil =>
    unfold cellsSet; split
    · rename_i hb; subst hb; simp [cellsGet]
    · simp [cellsGet, eq_comm]
  | cons c t ih =>
    obtain ⟨y, c⟩ := c
    simp only [cellsAbove, Bool.and_eq_true, decide_eq_true_eq] at h
    obtain ⟨⟨h1, h2⟩, h3⟩ := h
    unfold cellsSet
    split
    · rename_i hy
      have z : ∀ v, v ≤ y → v ≠ y → cellsGet ((y, c) :: t) v = unlisted := fun v hv hn => by
        simp only [cellsGet, if_neg (Ne.symm hn)]; exact cellsGet_below h3 hv
      split
      · rename_i hb
        split
        · rename_i e; rw [e, hb]; exact z a (by omega) (by omega)
        · rfl
      · simp only [cellsGet, eq_comm (a := a)]
    · split
      · rename_i hn he
        subst he
        split
        · rename_i hb
          split
          · rename_i e; rw [e, hb]; exact cellsGet_below h3 (Nat.le_refl _)
          · rename_i e; simp only [cellsGet, if_neg (Ne.symm e)]
        · simp only [cellsGet]
          split
          · rename_i e; rw [if_pos e.symm]
          · rename_i e; rw [if_neg (Ne.symm e)]
      · rename_i hn he
        simp only [cellsGet, ih h3]
        split
        · rename_i e; rw [if_neg (by omega)]
        · rfl

/-- What a byte reads as after a write. -/
theorem cellsGet_set {l : List Host.Cell} (h : cellsWf l = true) (a : Nat) (b : Byte) (x : Nat) :
    cellsGet (cellsSet l a b) x = if x = a then b else cellsGet l x := by
  cases l with
  | nil => exact cellsGet_set_above (lo := 0) rfl a b x
  | cons c t =>
    obtain ⟨y, c⟩ := c
    obtain ⟨h1, h2⟩ := cellsAbove_none h y c t rfl
    unfold cellsSet
    split
    · rename_i hy
      split
      · rename_i hb
        split
        · rename_i e
          simp only [cellsGet]; rw [if_neg (by omega), e, hb]; exact cellsGet_below h2 (by omega)
        · rfl
      · simp only [cellsGet, eq_comm (a := a)]
    · split
      · rename_i hn he
        subst he
        split
        · rename_i hb
          split
          · rename_i e; rw [e, hb]; exact cellsGet_below h2 (Nat.le_refl _)
          · rename_i e; simp only [cellsGet, if_neg (Ne.symm e)]
        · simp only [cellsGet]
          split
          · rename_i e; rw [if_pos e.symm]
          · rename_i e; rw [if_neg (Ne.symm e)]
      · rename_i hn he
        simp only [cellsGet, cellsGet_set_above h2]
        split
        · rename_i e; rw [if_neg (by omega)]
        · rfl

theorem cellsFilter_above {lo : Nat} {l : List Host.Cell} (p : Host.Cell → Bool) (h : cellsAbove (some lo) l = true) :
    cellsAbove (some lo) (l.filter p) = true := by
  induction l generalizing lo with
  | nil => rfl
  | cons c t ih =>
    obtain ⟨x, b⟩ := c
    simp only [cellsAbove, Bool.and_eq_true, decide_eq_true_eq] at h
    obtain ⟨⟨h1, h2⟩, h3⟩ := h
    rw [List.filter_cons]
    split
    · simp [cellsAbove, h1, h2, ih h3]
    · exact cellsAbove_mono (ih h3) (by omega)

/-- Leaving cells out keeps the canonical form. -/
theorem cellsFilter_wf {l : List Host.Cell} (p : Host.Cell → Bool) (h : cellsWf l = true) : cellsWf (l.filter p) = true := by
  unfold cellsWf at *
  have drop : ∀ {x : Nat} {m : List Host.Cell}, cellsAbove (some x) m = true → cellsAbove none m = true := fun {x m} hm => by
    cases m with
    | nil => rfl
    | cons d u =>
      obtain ⟨y, d⟩ := d
      simp only [cellsAbove, Bool.and_eq_true] at hm ⊢
      exact ⟨⟨trivial, hm.1.2⟩, hm.2⟩
  cases l with
  | nil => rfl
  | cons c t =>
    obtain ⟨x, b⟩ := c
    obtain ⟨h1, h2⟩ := cellsAbove_none h x b t rfl
    rw [List.filter_cons]
    split
    · simp only [cellsAbove, Bool.and_eq_true]
      exact ⟨⟨trivial, by simpa using h1⟩, cellsFilter_above p h2⟩
    · exact drop (cellsFilter_above p h2)

theorem foldl_cellsSet_wf {α : Type} (f : α → Nat) (g : α → Byte) (xs : List α) (l : List Host.Cell) (h : cellsWf l = true) :
    cellsWf (xs.foldl (fun l c => cellsSet l (f c) (g c)) l) = true := by
  induction xs generalizing l with
  | nil => exact h
  | cons x t ih => exact ih _ (cellsSet_wf h _ _)

/-- Copying a region keeps the canonical form of where it goes. -/
theorem copyCells_wf (src : List Host.Cell) (a : Nat) (dst : List Host.Cell) (b size : Nat) (h : cellsWf dst = true) :
    cellsWf (copyCells src a dst b size) = true :=
  foldl_cellsSet_wf _ _ _ _ (cellsFilter_wf _ h)

/-! ### Memory -/

theorem Memory.write_wf (n : Nat) (m : Memory) (a v : Nat) (h : m.wf = true) : (m.write a n v).wf = true := by
  induction n generalizing m a v with
  | zero => exact h
  | succ n ih =>
    exact ih { m with cells := cellsSet m.cells a (BitVec.ofNat 8 v) } (a + 1) (v / 256) (cellsSet_wf (l := m.cells) h _ _)

/-- A byte after a write: the written value's byte inside it, and what was there outside it. -/
theorem Memory.byte_write (n : Nat) (m : Memory) (a v x : Nat) (h : m.wf = true) :
    (m.write a n v).byte x = if a ≤ x ∧ x < a + n then BitVec.ofNat 8 (v / 256 ^ (x - a)) else m.byte x := by
  induction n generalizing m a v with
  | zero => rw [if_neg (by omega)]; rfl
  | succ n ih =>
    unfold Memory.write
    rw [ih { m with cells := cellsSet m.cells a (BitVec.ofNat 8 v) } _ _ (cellsSet_wf (l := m.cells) h _ _)]
    by_cases h1 : a + 1 ≤ x ∧ x < a + 1 + n
    · rw [if_pos h1, if_pos (by omega)]
      have : x - a = (x - (a + 1)) + 1 := by omega
      rw [this, Nat.pow_succ, Nat.mul_comm, Nat.div_div_eq_div_mul]
    · rw [if_neg h1]
      show cellsGet (cellsSet m.cells a (BitVec.ofNat 8 v)) x = _
      rw [cellsGet_set (l := m.cells) h]
      by_cases h2 : x = a
      · subst h2; simp
      · rw [if_neg h2, if_neg (by omega)]; rfl

theorem Memory.read_lt (m : Memory) (a n : Nat) : m.read a n < 256 ^ n := by
  induction n generalizing a with
  | zero => simp [Memory.read]
  | succ n ih =>
    have := ih (a + 1)
    have hb := (m.byte a).isLt
    unfold Memory.read
    rw [Nat.pow_succ]
    omega

/-- What was written reads back. -/
theorem Memory.read_write (n : Nat) (m : Memory) (a v : Nat) (h : m.wf = true) : (m.write a n v).read a n = v % 256 ^ n := by
  suffices H : ∀ k (m' : Memory) (b w : Nat), (∀ i < k, m'.byte (b + i) = BitVec.ofNat 8 (w / 256 ^ i)) → m'.read b k = w % 256 ^ k by
    refine H n _ a v fun i hi => ?_
    rw [Memory.byte_write n m a v _ h, if_pos (by omega)]
    congr 3; omega
  intro k
  induction k with
  | zero => intro m' b w _; simp [Memory.read, Nat.mod_one]
  | succ k ih =>
    intro m' b w hw
    have h0 : m'.byte b = BitVec.ofNat 8 w := by simpa using hw 0 (by omega)
    have h1 := ih m' (b + 1) (w / 256) fun i hi => by
      have := hw (i + 1) (by omega)
      rw [show b + 1 + i = b + (i + 1) by omega, this, Nat.pow_succ, Nat.mul_comm, Nat.div_div_eq_div_mul]
    unfold Memory.read
    rw [h0, h1, BitVec.toNat_ofNat, show 256 ^ (k + 1) = 256 * 256 ^ k by rw [Nat.pow_succ, Nat.mul_comm], Nat.mod_mul]

/-- A read of bytes that a write leaves alone. -/
theorem Memory.read_write_ne (n k : Nat) (m : Memory) (a b v : Nat) (h : m.wf = true) (d : b + k ≤ a ∨ a + n ≤ b) :
    (m.write a n v).read b k = m.read b k := by
  induction k generalizing b with
  | zero => rfl
  | succ k ih =>
    unfold Memory.read
    rw [ih (b + 1) (by omega), Memory.byte_write n m a v b h, if_neg (by omega)]

theorem Memory.put_wf (ga : Nat) (l : List (Nat × Byte)) (m : Memory) (h : m.wf = true) : (m.put ga l).wf = true := by
  induction l generalizing m with
  | nil => exact h
  | cons p t ih => exact ih { m with cells := cellsSet m.cells (ga + p.1) p.2 } (cellsSet_wf (l := m.cells) h _ _)

/-- A byte that no listed byte is for is as it was. -/
theorem Memory.byte_put_ne (ga : Nat) (l : List (Nat × Byte)) (m : Memory) (x : Nat) (h : m.wf = true)
    (d : ∀ p ∈ l, ga + p.1 ≠ x) : (m.put ga l).byte x = m.byte x := by
  induction l generalizing m with
  | nil => rfl
  | cons p t ih =>
    unfold Memory.put
    rw [ih { m with cells := cellsSet m.cells (ga + p.1) p.2 } (cellsSet_wf (l := m.cells) h _ _) fun q hq => d q (List.mem_cons_of_mem _ hq)]
    show cellsGet (cellsSet m.cells (ga + p.1) p.2) x = _
    rw [cellsGet_set (l := m.cells) h, if_neg (Ne.symm (d p List.mem_cons_self))]
    rfl

theorem Memory.lay_wf (l : List Byte) (m : Memory) (a : Nat) (h : m.wf = true) : (m.lay a l).wf = true := by
  induction l generalizing m a with
  | nil => exact h
  | cons b t ih => exact ih { m with cells := cellsSet m.cells a b } (a + 1) (cellsSet_wf (l := m.cells) h _ _)

theorem Memory.store_wf (m : Memory) (ga : Nat) (l : List (Nat × Byte)) (h : m.wf = true) : (m.store ga l).1.wf = true := by
  unfold Memory.store
  split
  · exact h
  · split
    · exact h
    · exact Memory.put_wf ga l m h

/-- A store leaves every byte alone that it does not list. -/
theorem Memory.byte_store_ne (m : Memory) (ga : Nat) (l : List (Nat × Byte)) (x : Nat) (h : m.wf = true)
    (d : ∀ p ∈ l, ga + p.1 ≠ x) : (m.store ga l).1.byte x = m.byte x := by
  unfold Memory.store
  split
  · rfl
  · split
    · rfl
    · exact Memory.byte_put_ne ga l m x h d

theorem Memory.rmw_wf (m : Memory) (ga n new old : Nat) (h : m.wf = true) : (m.rmw ga n new old).1.wf = true := by
  unfold Memory.rmw
  split
  · exact h
  · split
    · exact h
    · exact Memory.write_wf n m ga new h

theorem Memory.setFull_wf (m : Memory) (ga : Nat) (b : Bool) (h : m.wf = true) : (m.setFull ga b).wf = true := h

/-- An access that a home performs keeps the canonical form. -/
theorem Memory.perform_wf (m m' : Memory) (ga : Nat) (op : MemOp) (r : Reply) (h : m.wf = true)
    (e : m.perform ga op = .done m' r) : m'.wf = true := by
  unfold Memory.perform at e
  cases op <;> dsimp only at e
  case write bytes => cases e; exact Memory.store_wf m ga bytes h
  case stfe v =>
    split at e
    · cases e; exact h
    · split at e
      · cases e
      · cases e; exact Memory.store_wf m _ _ h
  case amo o n b => cases e; exact Memory.rmw_wf m _ _ _ _ h
  case amof o n b => cases e; exact Memory.rmw_wf m _ _ _ _ h
  case cas n x y => cases e; exact Memory.rmw_wf m _ _ _ _ h
  case ldfe =>
    split at e
    · split at e <;> (cases e; exact h)
    · cases e
  case ldfeE =>
    split at e
    · split at e <;> (cases e; exact h)
    · cases e
  all_goals first
    | (cases e; exact h)
    | (split at e <;> (cases e; exact h))

theorem serveList_wf (w : Nat) (l : List FeEntry) (m : Memory) (h : m.wf = true) : (serveList w m l).1.wf = true := by
  induction l generalizing m with
  | nil => exact h
  | cons e t ih =>
    unfold serveList
    split
    · split
      · exact ih m h
      · rename_i m' rep hp
        exact ih m' (Memory.perform_wf m m' e.ga e.op rep h hp)
    · exact ih m h

theorem Memory.serve_wf (m : Memory) (ga : Nat) (h : m.wf = true) : (m.serve ga).1.wf = true := serveList_wf _ m.retry m h

/-- Memory after an access came to its home, whatever became of it. -/
def Accepted.memory : Accepted → Memory
  | .done m _ _ => m
  | .listed m => m
  | .refused m => m

/-- Whatever becomes of an access at its home, memory keeps the canonical form. -/
theorem Memory.accept_wf (m : Memory) (src : Source) (ga : Nat) (op : MemOp) (h : m.wf = true) :
    (m.accept src ga op).memory.wf = true := by
  unfold Memory.accept
  split
  · exact h
  · split
    · rename_i m' r hp
      have k := Memory.perform_wf m m' ga op r h hp
      dsimp only
      split
      · exact Memory.serve_wf { m' with refusals := m'.refusals.filter (·.src != src) } ga k
      · exact k
    · dsimp only
      repeat' split
      all_goals exact h

theorem Memory.copyRegion_wf (m : Memory) (a b size : Nat) (h : m.wf = true) : (m.copyRegion a b size).wf = true :=
  copyCells_wf _ _ _ _ _ h

/-! ### Reset -/

theorem reset_memory_wf : State.reset.mem.wf = true := by decide

theorem reset_spad_wf : cellsWf State.reset.spad.cells = true := by decide

end Sys2Proof.Machine
end

