-- ==== Sys2Proof/Laws/PerInstr.lean ====
section
/-!
SUPPORT. The size of every instruction's code: its head fits 16 bits, its tail is the size its class says, and its tail's value
fits that size (R31, R35).
-/

namespace Sys2Proof

/-- A code fits its head and its tail class. -/
def Code.Fits (c : Code) : Prop := c.head < 2 ^ 16 ∧ c.bytes = tailBytes (c.head / 2 ^ 14) ∧ c.tail < 2 ^ (8 * c.bytes)

/-- A row with a class, an opcode and a tail in range fits. -/
theorem Code.row_fits (tc op : Nat) (d : Field) (tail : Nat) (ht : tc < 4) (ho : op < 256) (hv : tail < 2 ^ (8 * tailBytes tc)) :
    ∀ c, Code.row tc op d tail = some c → c.Fits := by
  intro c h
  injection h with h
  subst h
  have := d.isLt
  have e : (tc * 16384 + op * 64 + d.toNat) / 2 ^ 14 = tc := by omega
  exact ⟨by show tc * 16384 + op * 64 + d.toNat < 2 ^ 16; omega, by show tailBytes tc = _; rw [e], hv⟩

theorem VArgs.tail_lt (v : VArgs) : v.tail % 2 ^ 20 < 2 ^ 8 ∧ v.tail < 2 ^ 32 := by
  have := v.s.toNat_lt; have := v.z.toNat_lt
  simp only [VArgs.tail]; constructor <;> omega

theorem VArgs3.tail_lt (v : VArgs3) : v.tail % 2 ^ 20 < 2 ^ 6 ∧ v.tail < 2 ^ 32 := by
  have := v.z.toNat_lt
  simp only [VArgs3.tail]; constructor <;> omega

theorem VArgs2.tail_lt (v : VArgs2) : v.tail % 2 ^ 26 < 2 ^ 6 ∧ v.tail < 2 ^ 32 := by
  have := v.z.toNat_lt
  simp only [VArgs2.tail]; constructor <;> omega

theorem MmaArgs.tail_lt (v : MmaArgs) : v.tail + 2 ^ 3 < 2 ^ 32 := by
  have := v.sa.toNat_lt; have := v.sb.toNat_lt; have := v.clr.toNat_lt; have := v.rpt.toNat_lt
  simp only [MmaArgs.tail]; omega

theorem MrdArgs.tail_lt (v : MrdArgs) : v.tail + 2 ^ 6 ≤ 2 ^ 32 := by
  have := v.dir.toNat_lt; have := v.ev.toNat_lt
  simp only [MrdArgs.tail]; omega

theorem Sync.tail_lt (y : Sync) : y.tail + 2 ^ 32 ≤ 2 ^ 64 := by
  have := y.we.toNat_lt; have := y.se.toNat_lt
  simp only [Sync.tail]; omega

namespace Laws.CodeFits

/-- If the instruction has an encoding, its code fits. -/
def Statement (i : Instr) : Prop := ∀ c, i.encode = some c → c.Fits

theorem nop : Statement .nop :=
  Code.row_fits _ _ _ _ (by decide) (by decide) (by decide)

theorem trap (a : Field) (code : BitVec 10) : Statement (.trap a code) :=
  Code.row_fits _ _ _ _ (by decide) (by decide) (by show _ < 2 ^ 16; simp only [put]; omega)

theorem sysc (code : BitVec 10) : Statement (.sysc code) :=
  Code.row_fits _ _ _ _ (by decide) (by decide) (by show _ < 2 ^ 16; simp only [put]; omega)

theorem rte : Statement .rte :=
  Code.row_fits _ _ _ _ (by decide) (by decide) (by decide)

theorem rdc (d : Field) (n : BitVec 10) : Statement (.rdc d n) :=
  Code.row_fits _ _ _ _ (by decide) (by decide) (by show _ < 2 ^ 16; simp only [put]; omega)

theorem wrc (a : Field) (n : BitVec 10) : Statement (.wrc a n) :=
  Code.row_fits _ _ _ _ (by decide) (by decide) (by show _ < 2 ^ 16; simp only [put]; omega)

theorem wrcStatus (a : Field) : Statement (.wrcStatus a) :=
  Code.row_fits _ _ _ _ (by decide) (by decide) (by show _ < 2 ^ 16; simp only [put]; omega)

theorem wrcFrm (a : Field) : Statement (.wrcFrm a) :=
  Code.row_fits _ _ _ _ (by decide) (by decide) (by show _ < 2 ^ 16; simp only [put]; omega)

theorem wrcDtime (a : Field) : Statement (.wrcDtime a) :=
  Code.row_fits _ _ _ _ (by decide) (by decide) (by show _ < 2 ^ 16; simp only [put]; omega)

theorem wrcChmode (a : Field) : Statement (.wrcChmode a) :=
  Code.row_fits _ _ _ _ (by decide) (by decide) (by show _ < 2 ^ 16; simp only [put]; omega)

theorem wrcBarcfg (a : Field) : Statement (.wrcBarcfg a) :=
  Code.row_fits _ _ _ _ (by decide) (by decide) (by show _ < 2 ^ 16; simp only [put]; omega)

theorem wrcSemstat (a : Field) : Statement (.wrcSemstat a) :=
  Code.row_fits _ _ _ _ (by decide) (by decide) (by show _ < 2 ^ 16; simp only [put]; omega)

theorem wrcTshape (a : Field) (t : BitVec 3) : Statement (.wrcTshape a t) :=
  Code.row_fits _ _ _ _ (by decide) (by decide) (by show _ < 2 ^ 16; simp only [put]; omega)

theorem wrcAcfg (a : Field) (k : BitVec 2) : Statement (.wrcAcfg a k) :=
  Code.row_fits _ _ _ _ (by decide) (by decide) (by show _ < 2 ^ 16; simp only [put]; omega)

theorem wrcEtcfg (a : Field) : Statement (.wrcEtcfg a) :=
  Code.row_fits _ _ _ _ (by decide) (by decide) (by show _ < 2 ^ 16; simp only [put]; omega)

theorem wrcForecast (a : Field) : Statement (.wrcForecast a) :=
  Code.row_fits _ _ _ _ (by decide) (by decide) (by show _ < 2 ^ 16; simp only [put]; omega)

theorem wrcRampup (a : Field) : Statement (.wrcRampup a) :=
  Code.row_fits _ _ _ _ (by decide) (by decide) (by show _ < 2 ^ 16; simp only [put]; omega)

theorem wrcRampdn (a : Field) : Statement (.wrcRampdn a) :=
  Code.row_fits _ _ _ _ (by decide) (by decide) (by show _ < 2 ^ 16; simp only [put]; omega)

theorem tlbinv (a : Field) (b : Field) (s : BitVec 4) : Statement (.tlbinv a b s) :=
  Code.row_fits _ _ _ _ (by decide) (by decide) (by show _ < 2 ^ 32; simp only [put]; omega)

theorem tlbinvAll (s : BitVec 4) : Statement (.tlbinvAll s) :=
  Code.row_fits _ _ _ _ (by decide) (by decide) (by show _ < 2 ^ 32; simp only [put]; omega)

theorem wfi : Statement .wfi :=
  Code.row_fits _ _ _ _ (by decide) (by decide) (by decide)

theorem hcall (d : Field) (a : Field) (b : Field) : Statement (.hcall d a b) :=
  Code.row_fits _ _ _ _ (by decide) (by decide) (by show _ < 2 ^ 16; simp only [put]; omega)

theorem migr (d : Field) (a : Field) (b : Field) (se : Bool) (x : BitVec 8) : Statement (.migr d a b se x) :=
  Code.row_fits _ _ _ _ (by decide) (by decide) (by show _ < 2 ^ 32; have := se.toNat_lt; simp only [put]; omega)

theorem ssave (d : Field) (a : Field) (b : Field) : Statement (.ssave d a b) :=
  Code.row_fits _ _ _ _ (by decide) (by decide) (by show _ < 2 ^ 16; simp only [put]; omega)

theorem ssaveCore (d : Field) (b : Field) : Statement (.ssaveCore d b) :=
  Code.row_fits _ _ _ _ (by decide) (by decide) (by show _ < 2 ^ 16; simp only [put]; omega)

theorem ssaveAck (d : Field) : Statement (.ssaveAck d) :=
  Code.row_fits _ _ _ _ (by decide) (by decide) (by show _ < 2 ^ 16; decide)

theorem srest (d : Field) (a : Field) (b : Field) : Statement (.srest d a b) :=
  Code.row_fits _ _ _ _ (by decide) (by decide) (by show _ < 2 ^ 16; simp only [put]; omega)

theorem srestCore (d : Field) (b : Field) : Statement (.srestCore d b) :=
  Code.row_fits _ _ _ _ (by decide) (by decide) (by show _ < 2 ^ 16; simp only [put]; omega)

theorem resync (d : Field) (a : Field) : Statement (.resync d a) :=
  Code.row_fits _ _ _ _ (by decide) (by decide) (by show _ < 2 ^ 16; simp only [put]; omega)

theorem start (d : Field) (a : Field) (b : Field) (n : BitVec 3) (v : BitVec 3) (p : BitVec 2) : Statement (.start d a b n v p) :=
  Code.row_fits _ _ _ _ (by decide) (by decide) (by show _ < 2 ^ 32; simp only [put]; omega)

theorem startNb (d : Field) (a : Field) (b : Field) (n : BitVec 3) (v : BitVec 3) (p : BitVec 2) : Statement (.startNb d a b n v p) :=
  Code.row_fits _ _ _ _ (by decide) (by decide) (by show _ < 2 ^ 32; simp only [put]; omega)

theorem startAt (d : Field) (a : Field) (b : Field) (c : Field) (n : BitVec 3) (v : BitVec 3) (p : BitVec 2) : Statement (.startAt d a b c n v p) :=
  Code.row_fits _ _ _ _ (by decide) (by decide) (by show _ < 2 ^ 32; simp only [put]; omega)

theorem startAtNb (d : Field) (a : Field) (b : Field) (c : Field) (n : BitVec 3) (v : BitVec 3) (p : BitVec 2) : Statement (.startAtNb d a b c n v p) :=
  Code.row_fits _ _ _ _ (by decide) (by decide) (by show _ < 2 ^ 32; simp only [put]; omega)

theorem exit : Statement .exit :=
  Code.row_fits _ _ _ _ (by decide) (by decide) (by decide)

theorem cwait (d : Field) (a : Field) : Statement (.cwait d a) :=
  Code.row_fits _ _ _ _ (by decide) (by decide) (by show _ < 2 ^ 16; simp only [put]; omega)

theorem yield : Statement .yield :=
  Code.row_fits _ _ _ _ (by decide) (by decide) (by decide)

theorem park : Statement .park :=
  Code.row_fits _ _ _ _ (by decide) (by decide) (by decide)

theorem wake (a : Field) : Statement (.wake a) :=
  Code.row_fits _ _ _ _ (by decide) (by decide) (by show _ < 2 ^ 16; simp only [put]; omega)

theorem grow (d : Field) (n : BitVec 6) (v : BitVec 6) : Statement (.grow d n v) :=
  Code.row_fits _ _ _ _ (by decide) (by decide) (by show _ < 2 ^ 16; simp only [put]; omega)

theorem growNb (d : Field) (n : BitVec 6) (v : BitVec 6) : Statement (.growNb d n v) :=
  Code.row_fits _ _ _ _ (by decide) (by decide) (by show _ < 2 ^ 16; simp only [put]; omega)

theorem shrink (n : BitVec 6) (v : BitVec 6) : Statement (.shrink n v) :=
  Code.row_fits _ _ _ _ (by decide) (by decide) (by show _ < 2 ^ 16; simp only [put]; omega)

theorem allot (d : Field) (a : Field) : Statement (.allot d a) :=
  Code.row_fits _ _ _ _ (by decide) (by decide) (by show _ < 2 ^ 16; simp only [put]; omega)

theorem gangQuad (d : Field) (a : Field) : Statement (.gangQuad d a) :=
  Code.row_fits _ _ _ _ (by decide) (by decide) (by show _ < 2 ^ 16; simp only [put]; omega)

theorem gangClus (d : Field) (a : Field) : Statement (.gangClus d a) :=
  Code.row_fits _ _ _ _ (by decide) (by decide) (by show _ < 2 ^ 16; simp only [put]; omega)

theorem gangFormed : Statement .gangFormed :=
  fun _ h => nomatch h

theorem split : Statement .split :=
  Code.row_fits _ _ _ _ (by decide) (by decide) (by decide)

theorem prio (d : Field) (a : Field) : Statement (.prio d a) :=
  Code.row_fits _ _ _ _ (by decide) (by decide) (by show _ < 2 ^ 16; simp only [put]; omega)

theorem add (d : Field) (a : Field) (b : Field) : Statement (.add d a b) :=
  Code.row_fits _ _ _ _ (by decide) (by decide) (by show _ < 2 ^ 16; simp only [put]; omega)

theorem sub (d : Field) (a : Field) (b : Field) : Statement (.sub d a b) :=
  Code.row_fits _ _ _ _ (by decide) (by decide) (by show _ < 2 ^ 16; simp only [put]; omega)

theorem mul (d : Field) (a : Field) (b : Field) : Statement (.mul d a b) :=
  Code.row_fits _ _ _ _ (by decide) (by decide) (by show _ < 2 ^ 16; simp only [put]; omega)

theorem mulh (d : Field) (a : Field) (b : Field) : Statement (.mulh d a b) :=
  Code.row_fits _ _ _ _ (by decide) (by decide) (by show _ < 2 ^ 16; simp only [put]; omega)

theorem mulhu (d : Field) (a : Field) (b : Field) : Statement (.mulhu d a b) :=
  Code.row_fits _ _ _ _ (by decide) (by decide) (by show _ < 2 ^ 16; simp only [put]; omega)

theorem div (d : Field) (a : Field) (b : Field) : Statement (.div d a b) :=
  Code.row_fits _ _ _ _ (by decide) (by decide) (by show _ < 2 ^ 16; simp only [put]; omega)

theorem divu (d : Field) (a : Field) (b : Field) : Statement (.divu d a b) :=
  Code.row_fits _ _ _ _ (by decide) (by decide) (by show _ < 2 ^ 16; simp only [put]; omega)

theorem rem (d : Field) (a : Field) (b : Field) : Statement (.rem d a b) :=
  Code.row_fits _ _ _ _ (by decide) (by decide) (by show _ < 2 ^ 16; simp only [put]; omega)

theorem remu (d : Field) (a : Field) (b : Field) : Statement (.remu d a b) :=
  Code.row_fits _ _ _ _ (by decide) (by decide) (by show _ < 2 ^ 16; simp only [put]; omega)

theorem and (d : Field) (a : Field) (b : Field) : Statement (.and d a b) :=
  Code.row_fits _ _ _ _ (by decide) (by decide) (by show _ < 2 ^ 16; simp only [put]; omega)

theorem or (d : Field) (a : Field) (b : Field) : Statement (.or d a b) :=
  Code.row_fits _ _ _ _ (by decide) (by decide) (by show _ < 2 ^ 16; simp only [put]; omega)

theorem xor (d : Field) (a : Field) (b : Field) : Statement (.xor d a b) :=
  Code.row_fits _ _ _ _ (by decide) (by decide) (by show _ < 2 ^ 16; simp only [put]; omega)

theorem andn (d : Field) (a : Field) (b : Field) : Statement (.andn d a b) :=
  Code.row_fits _ _ _ _ (by decide) (by decide) (by show _ < 2 ^ 16; simp only [put]; omega)

theorem orn (d : Field) (a : Field) (b : Field) : Statement (.orn d a b) :=
  Code.row_fits _ _ _ _ (by decide) (by decide) (by show _ < 2 ^ 16; simp only [put]; omega)

theorem shl (d : Field) (a : Field) (b : Field) : Statement (.shl d a b) :=
  Code.row_fits _ _ _ _ (by decide) (by decide) (by show _ < 2 ^ 16; simp only [put]; omega)

theorem shr (d : Field) (a : Field) (b : Field) : Statement (.shr d a b) :=
  Code.row_fits _ _ _ _ (by decide) (by decide) (by show _ < 2 ^ 16; simp only [put]; omega)

theorem sra (d : Field) (a : Field) (b : Field) : Statement (.sra d a b) :=
  Code.row_fits _ _ _ _ (by decide) (by decide) (by show _ < 2 ^ 16; simp only [put]; omega)

theorem rot (d : Field) (a : Field) (b : Field) : Statement (.rot d a b) :=
  Code.row_fits _ _ _ _ (by decide) (by decide) (by show _ < 2 ^ 16; simp only [put]; omega)

theorem clz (d : Field) (a : Field) : Statement (.clz d a) :=
  Code.row_fits _ _ _ _ (by decide) (by decide) (by show _ < 2 ^ 16; simp only [put]; omega)

theorem ctz (d : Field) (a : Field) : Statement (.ctz d a) :=
  Code.row_fits _ _ _ _ (by decide) (by decide) (by show _ < 2 ^ 16; simp only [put]; omega)

theorem popc (d : Field) (a : Field) : Statement (.popc d a) :=
  Code.row_fits _ _ _ _ (by decide) (by decide) (by show _ < 2 ^ 16; simp only [put]; omega)

theorem abs (d : Field) (a : Field) : Statement (.abs d a) :=
  Code.row_fits _ _ _ _ (by decide) (by decide) (by show _ < 2 ^ 16; simp only [put]; omega)

theorem min (d : Field) (a : Field) (b : Field) : Statement (.min d a b) :=
  Code.row_fits _ _ _ _ (by decide) (by decide) (by show _ < 2 ^ 16; simp only [put]; omega)

theorem max (d : Field) (a : Field) (b : Field) : Statement (.max d a b) :=
  Code.row_fits _ _ _ _ (by decide) (by decide) (by show _ < 2 ^ 16; simp only [put]; omega)

theorem minu (d : Field) (a : Field) (b : Field) : Statement (.minu d a b) :=
  Code.row_fits _ _ _ _ (by decide) (by decide) (by show _ < 2 ^ 16; simp only [put]; omega)

theorem maxu (d : Field) (a : Field) (b : Field) : Statement (.maxu d a b) :=
  Code.row_fits _ _ _ _ (by decide) (by decide) (by show _ < 2 ^ 16; simp only [put]; omega)

theorem sext (d : Field) (a : Field) (n : BitVec 6) : Statement (.sext d a n) :=
  Code.row_fits _ _ _ _ (by decide) (by decide) (by show _ < 2 ^ 16; simp only [put]; omega)

theorem zext (d : Field) (a : Field) (n : BitVec 6) : Statement (.zext d a n) :=
  Code.row_fits _ _ _ _ (by decide) (by decide) (by show _ < 2 ^ 16; simp only [put]; omega)

theorem bfx (d : Field) (a : Field) (pos : BitVec 6) (len : BitVec 6) : Statement (.bfx d a pos len) :=
  Code.row_fits _ _ _ _ (by decide) (by decide) (by show _ < 2 ^ 32; simp only [put]; omega)

theorem bfxS (d : Field) (a : Field) (pos : BitVec 6) (len : BitVec 6) : Statement (.bfxS d a pos len) :=
  Code.row_fits _ _ _ _ (by decide) (by decide) (by show _ < 2 ^ 32; simp only [put]; omega)

theorem bfi (d : Field) (a : Field) (pos : BitVec 6) (len : BitVec 6) : Statement (.bfi d a pos len) :=
  Code.row_fits _ _ _ _ (by decide) (by decide) (by show _ < 2 ^ 32; simp only [put]; omega)

theorem shadd (d : Field) (a : Field) (b : Field) (s : BitVec 4) : Statement (.shadd d a b s) :=
  Code.row_fits _ _ _ _ (by decide) (by decide) (by show _ < 2 ^ 16; simp only [put]; omega)

theorem mov (d : Field) (a : Field) : Statement (.mov d a) :=
  Code.row_fits _ _ _ _ (by decide) (by decide) (by show _ < 2 ^ 16; simp only [put]; omega)

theorem sel (d : Field) (a : Field) (b : Field) (c : Field) : Statement (.sel d a b c) :=
  Code.row_fits _ _ _ _ (by decide) (by decide) (by show _ < 2 ^ 32; simp only [put]; omega)

theorem cmp (d : Field) (a : Field) (b : Field) (c : BitVec 4) : Statement (.cmp d a b c) :=
  Code.row_fits _ _ _ _ (by decide) (by decide) (by show _ < 2 ^ 16; simp only [put]; omega)

theorem addi (d : Field) (a : Field) (i : BitVec 10) : Statement (.addi d a i) :=
  Code.row_fits _ _ _ _ (by decide) (by decide) (by show _ < 2 ^ 16; simp only [put]; omega)

theorem andi (d : Field) (a : Field) (i : BitVec 10) : Statement (.andi d a i) :=
  Code.row_fits _ _ _ _ (by decide) (by decide) (by show _ < 2 ^ 16; simp only [put]; omega)

theorem ori (d : Field) (a : Field) (i : BitVec 10) : Statement (.ori d a i) :=
  Code.row_fits _ _ _ _ (by decide) (by decide) (by show _ < 2 ^ 16; simp only [put]; omega)

theorem xori (d : Field) (a : Field) (i : BitVec 10) : Statement (.xori d a i) :=
  Code.row_fits _ _ _ _ (by decide) (by decide) (by show _ < 2 ^ 16; simp only [put]; omega)

theorem shli (d : Field) (a : Field) (s : BitVec 6) : Statement (.shli d a s) :=
  Code.row_fits _ _ _ _ (by decide) (by decide) (by show _ < 2 ^ 16; simp only [put]; omega)

theorem shri (d : Field) (a : Field) (s : BitVec 6) : Statement (.shri d a s) :=
  Code.row_fits _ _ _ _ (by decide) (by decide) (by show _ < 2 ^ 16; simp only [put]; omega)

theorem srai (d : Field) (a : Field) (s : BitVec 6) : Statement (.srai d a s) :=
  Code.row_fits _ _ _ _ (by decide) (by decide) (by show _ < 2 ^ 16; simp only [put]; omega)

theorem roti (d : Field) (a : Field) (s : BitVec 6) : Statement (.roti d a s) :=
  Code.row_fits _ _ _ _ (by decide) (by decide) (by show _ < 2 ^ 16; simp only [put]; omega)

theorem cmpi (d : Field) (a : Field) (c : BitVec 4) (i : BitVec 22) : Statement (.cmpi d a c i) :=
  Code.row_fits _ _ _ _ (by decide) (by decide) (by show _ < 2 ^ 32; simp only [put]; omega)

theorem ldi26 (d : Field) (i : BitVec 26) : Statement (.ldi26 d i) :=
  Code.row_fits _ _ _ _ (by decide) (by decide) (by show _ < 2 ^ 32; simp only [put]; omega)

theorem ldi64 (d : Field) (i : BitVec 64) : Statement (.ldi64 d i) :=
  Code.row_fits _ _ _ _ (by decide) (by decide) (by show _ < 2 ^ 64; simp only [put]; omega)

theorem br (d : Field) (a : Field) (c : BitVec 4) (i : BitVec 22) : Statement (.br d a c i) :=
  Code.row_fits _ _ _ _ (by decide) (by decide) (by show _ < 2 ^ 32; simp only [put]; omega)

theorem bz (d : Field) (i : BitVec 26) : Statement (.bz d i) :=
  Code.row_fits _ _ _ _ (by decide) (by decide) (by show _ < 2 ^ 32; simp only [put]; omega)

theorem bnz (d : Field) (i : BitVec 26) : Statement (.bnz d i) :=
  Code.row_fits _ _ _ _ (by decide) (by decide) (by show _ < 2 ^ 32; simp only [put]; omega)

theorem j (i : BitVec 26) : Statement (.j i) :=
  Code.row_fits _ _ _ _ (by decide) (by decide) (by show _ < 2 ^ 32; simp only [put]; omega)

theorem jal (d : Field) (i : BitVec 26) : Statement (.jal d i) :=
  Code.row_fits _ _ _ _ (by decide) (by decide) (by show _ < 2 ^ 32; simp only [put]; omega)

theorem jr (a : Field) : Statement (.jr a) :=
  Code.row_fits _ _ _ _ (by decide) (by decide) (by show _ < 2 ^ 16; simp only [put]; omega)

theorem jalr (d : Field) (a : Field) : Statement (.jalr d a) :=
  Code.row_fits _ _ _ _ (by decide) (by decide) (by show _ < 2 ^ 16; simp only [put]; omega)

theorem jtab (d : Field) (a : Field) (b : Field) : Statement (.jtab d a b) :=
  Code.row_fits _ _ _ _ (by decide) (by decide) (by show _ < 2 ^ 32; simp only [put]; omega)

theorem loop (d : Field) (i : BitVec 26) : Statement (.loop d i) :=
  Code.row_fits _ _ _ _ (by decide) (by decide) (by show _ < 2 ^ 32; simp only [put]; omega)

theorem halt : Statement .halt :=
  Code.row_fits _ _ _ _ (by decide) (by decide) (by decide)

theorem brk (code : BitVec 10) : Statement (.brk code) :=
  Code.row_fits _ _ _ _ (by decide) (by decide) (by show _ < 2 ^ 16; simp only [put]; omega)

theorem fadd (d : Field) (a : Field) (b : Field) (m : BitVec 3) : Statement (.fadd d a b m) :=
  Code.row_fits _ _ _ _ (by decide) (by decide) (by show _ < 2 ^ 32; simp only [put]; omega)

theorem fsub (d : Field) (a : Field) (b : Field) (m : BitVec 3) : Statement (.fsub d a b m) :=
  Code.row_fits _ _ _ _ (by decide) (by decide) (by show _ < 2 ^ 32; simp only [put]; omega)

theorem fmul (d : Field) (a : Field) (b : Field) (m : BitVec 3) : Statement (.fmul d a b m) :=
  Code.row_fits _ _ _ _ (by decide) (by decide) (by show _ < 2 ^ 32; simp only [put]; omega)

theorem fma (d : Field) (a : Field) (b : Field) (c : Field) (m : BitVec 3) : Statement (.fma d a b c m) :=
  Code.row_fits _ _ _ _ (by decide) (by decide) (by show _ < 2 ^ 32; simp only [put]; omega)

theorem fnma (d : Field) (a : Field) (b : Field) (c : Field) (m : BitVec 3) : Statement (.fnma d a b c m) :=
  Code.row_fits _ _ _ _ (by decide) (by decide) (by show _ < 2 ^ 32; simp only [put]; omega)

theorem fdiv (d : Field) (a : Field) (b : Field) (m : BitVec 3) : Statement (.fdiv d a b m) :=
  Code.row_fits _ _ _ _ (by decide) (by decide) (by show _ < 2 ^ 32; simp only [put]; omega)

theorem fsqrt (d : Field) (a : Field) (m : BitVec 3) : Statement (.fsqrt d a m) :=
  Code.row_fits _ _ _ _ (by decide) (by decide) (by show _ < 2 ^ 32; simp only [put]; omega)

theorem fmin (d : Field) (a : Field) (b : Field) : Statement (.fmin d a b) :=
  Code.row_fits _ _ _ _ (by decide) (by decide) (by show _ < 2 ^ 32; simp only [put]; omega)

theorem fmax (d : Field) (a : Field) (b : Field) : Statement (.fmax d a b) :=
  Code.row_fits _ _ _ _ (by decide) (by decide) (by show _ < 2 ^ 32; simp only [put]; omega)

theorem fsgnCp (d : Field) (a : Field) (b : Field) : Statement (.fsgnCp d a b) :=
  Code.row_fits _ _ _ _ (by decide) (by decide) (by show _ < 2 ^ 32; simp only [put]; omega)

theorem fsgnNeg (d : Field) (a : Field) (b : Field) : Statement (.fsgnNeg d a b) :=
  Code.row_fits _ _ _ _ (by decide) (by decide) (by show _ < 2 ^ 32; simp only [put]; omega)

theorem fsgnXor (d : Field) (a : Field) (b : Field) : Statement (.fsgnXor d a b) :=
  Code.row_fits _ _ _ _ (by decide) (by decide) (by show _ < 2 ^ 32; simp only [put]; omega)

theorem fcmp (d : Field) (a : Field) (b : Field) (c : BitVec 3) : Statement (.fcmp d a b c) :=
  Code.row_fits _ _ _ _ (by decide) (by decide) (by show _ < 2 ^ 32; simp only [put]; omega)

theorem fclass (d : Field) (a : Field) (f : BitVec 4) : Statement (.fclass d a f) :=
  Code.row_fits _ _ _ _ (by decide) (by decide) (by show _ < 2 ^ 16; simp only [put]; omega)

theorem fcvt (d : Field) (a : Field) (m : BitVec 3) (dst : BitVec 4) (src : BitVec 4) : Statement (.fcvt d a m dst src) :=
  Code.row_fits _ _ _ _ (by decide) (by decide) (by show _ < 2 ^ 32; simp only [put]; omega)

theorem fmovFF (d : Field) (a : Field) : Statement (.fmovFF d a) :=
  Code.row_fits _ _ _ _ (by decide) (by decide) (by show _ < 2 ^ 16; simp only [put]; omega)

theorem fmovFG (d : Field) (a : Field) : Statement (.fmovFG d a) :=
  Code.row_fits _ _ _ _ (by decide) (by decide) (by show _ < 2 ^ 16; simp only [put]; omega)

theorem fmovGF (d : Field) (a : Field) : Statement (.fmovGF d a) :=
  Code.row_fits _ _ _ _ (by decide) (by decide) (by show _ < 2 ^ 16; simp only [put]; omega)

theorem fldi (d : Field) (i : BitVec 64) : Statement (.fldi d i) :=
  Code.row_fits _ _ _ _ (by decide) (by decide) (by show _ < 2 ^ 64; simp only [put]; omega)

theorem fsr (d : Field) (a : Field) (b : Field) (dst : BitVec 4) (src : BitVec 4) : Statement (.fsr d a b dst src) :=
  Code.row_fits _ _ _ _ (by decide) (by decide) (by show _ < 2 ^ 32; simp only [put]; omega)

theorem fsrDraw (d : Field) : Statement (.fsrDraw d) :=
  Code.row_fits _ _ _ _ (by decide) (by decide) (by show _ < 2 ^ 32; decide)

theorem fscl (d : Field) (a : Field) (byte : BitVec 3) (fmt : BitVec 4) : Statement (.fscl d a byte fmt) :=
  Code.row_fits _ _ _ _ (by decide) (by decide) (by show _ < 2 ^ 32; simp only [put]; omega)

theorem vadd (v : VArgs) (sat : BitVec 2) : Statement (.vadd v sat) :=
  Code.row_fits _ _ _ _ (by decide) (by decide) (by show _ < 2 ^ 32; have := v.tail_lt; simp only [put]; omega)

theorem vsub (v : VArgs) (sat : BitVec 2) : Statement (.vsub v sat) :=
  Code.row_fits _ _ _ _ (by decide) (by decide) (by show _ < 2 ^ 32; have := v.tail_lt; simp only [put]; omega)

theorem vmul (v : VArgs) : Statement (.vmul v) :=
  Code.row_fits _ _ _ _ (by decide) (by decide) (by show _ < 2 ^ 32; have := v.tail_lt; omega)

theorem vmulh (v : VArgs) : Statement (.vmulh v) :=
  Code.row_fits _ _ _ _ (by decide) (by decide) (by show _ < 2 ^ 32; have := v.tail_lt; simp only [put]; omega)

theorem vmulhU (v : VArgs) : Statement (.vmulhU v) :=
  Code.row_fits _ _ _ _ (by decide) (by decide) (by show _ < 2 ^ 32; have := v.tail_lt; simp only [put]; omega)

theorem vmacc (v : VArgs) (sat : BitVec 2) : Statement (.vmacc v sat) :=
  Code.row_fits _ _ _ _ (by decide) (by decide) (by show _ < 2 ^ 32; have := v.tail_lt; simp only [put]; omega)

theorem vmin (v : VArgs) (u : Bool) : Statement (.vmin v u) :=
  Code.row_fits _ _ _ _ (by decide) (by decide) (by show _ < 2 ^ 32; have := v.tail_lt; have := u.toNat_lt; simp only [put]; omega)

theorem vmax (v : VArgs) (u : Bool) : Statement (.vmax v u) :=
  Code.row_fits _ _ _ _ (by decide) (by decide) (by show _ < 2 ^ 32; have := v.tail_lt; have := u.toNat_lt; simp only [put]; omega)

theorem vabs (v : VArgs2) (sat : Bool) : Statement (.vabs v sat) :=
  Code.row_fits _ _ _ _ (by decide) (by decide) (by show _ < 2 ^ 32; have := v.tail_lt; have := sat.toNat_lt; simp only [put]; omega)

theorem vand (v : VArgs) : Statement (.vand v) :=
  Code.row_fits _ _ _ _ (by decide) (by decide) (by show _ < 2 ^ 32; have := v.tail_lt; omega)

theorem vor (v : VArgs) : Statement (.vor v) :=
  Code.row_fits _ _ _ _ (by decide) (by decide) (by show _ < 2 ^ 32; have := v.tail_lt; simp only [put]; omega)

theorem vxor (v : VArgs) : Statement (.vxor v) :=
  Code.row_fits _ _ _ _ (by decide) (by decide) (by show _ < 2 ^ 32; have := v.tail_lt; simp only [put]; omega)

theorem vandn (v : VArgs) : Statement (.vandn v) :=
  Code.row_fits _ _ _ _ (by decide) (by decide) (by show _ < 2 ^ 32; have := v.tail_lt; simp only [put]; omega)

theorem vshl (v : VArgs) : Statement (.vshl v) :=
  Code.row_fits _ _ _ _ (by decide) (by decide) (by show _ < 2 ^ 32; have := v.tail_lt; omega)

theorem vshr (v : VArgs) : Statement (.vshr v) :=
  Code.row_fits _ _ _ _ (by decide) (by decide) (by show _ < 2 ^ 32; have := v.tail_lt; simp only [put]; omega)

theorem vsra (v : VArgs) : Statement (.vsra v) :=
  Code.row_fits _ _ _ _ (by decide) (by decide) (by show _ < 2 ^ 32; have := v.tail_lt; simp only [put]; omega)

theorem vrshr (v : VArgs) (range : BitVec 2) (ev : Bool) : Statement (.vrshr v range ev) :=
  Code.row_fits _ _ _ _ (by decide) (by decide) (by show _ < 2 ^ 32; have := v.tail_lt; have := ev.toNat_lt; simp only [put]; omega)

theorem vdot (v : VArgs3) (f : BitVec 6) : Statement (.vdot v f) :=
  Code.row_fits _ _ _ _ (by decide) (by decide) (by show _ < 2 ^ 32; have := v.tail_lt; simp only [put]; omega)

theorem vcmp (v : VArgs) (fp : Bool) (c : BitVec 4) : Statement (.vcmp v fp c) :=
  Code.row_fits _ _ _ _ (by decide) (by decide) (by show _ < 2 ^ 32; have := v.tail_lt; have := fp.toNat_lt; simp only [put]; omega)

theorem vsel (d : Field) (a : Field) (b : Field) (k : BitVec 3) (w : BitVec 2) : Statement (.vsel d a b k w) :=
  Code.row_fits _ _ _ _ (by decide) (by decide) (by show _ < 2 ^ 32; simp only [put]; omega)

theorem vsplat (v : VArgs2) (fp : Bool) : Statement (.vsplat v fp) :=
  Code.row_fits _ _ _ _ (by decide) (by decide) (by show _ < 2 ^ 32; have := v.tail_lt; have := fp.toNat_lt; simp only [put]; omega)

theorem vmov (v : VArgs2) : Statement (.vmov v) :=
  Code.row_fits _ _ _ _ (by decide) (by decide) (by show _ < 2 ^ 32; have := v.tail_lt; omega)

theorem vmovX (d : Field) (a : Field) (c : Field) (sx : Bool) (w : BitVec 2) : Statement (.vmovX d a c sx w) :=
  Code.row_fits _ _ _ _ (by decide) (by decide) (by show _ < 2 ^ 32; have := sx.toNat_lt; simp only [put]; omega)

theorem vmovI (d : Field) (a : Field) (c : Field) (w : BitVec 2) : Statement (.vmovI d a c w) :=
  Code.row_fits _ _ _ _ (by decide) (by decide) (by show _ < 2 ^ 32; simp only [put]; omega)

theorem vperm (v : VArgs3) : Statement (.vperm v) :=
  Code.row_fits _ _ _ _ (by decide) (by decide) (by show _ < 2 ^ 32; have := v.tail_lt; omega)

theorem vperm2 (v : VArgs3) (c : Field) : Statement (.vperm2 v c) :=
  Code.row_fits _ _ _ _ (by decide) (by decide) (by show _ < 2 ^ 32; have := v.tail_lt; simp only [put]; omega)

theorem vslideDn (v : VArgs3) (c : Field) : Statement (.vslideDn v c) :=
  Code.row_fits _ _ _ _ (by decide) (by decide) (by show _ < 2 ^ 32; have := v.tail_lt; simp only [put]; omega)

theorem vslideUp (v : VArgs3) (c : Field) : Statement (.vslideUp v c) :=
  Code.row_fits _ _ _ _ (by decide) (by decide) (by show _ < 2 ^ 32; have := v.tail_lt; simp only [put]; omega)

theorem vzipLo (v : VArgs3) : Statement (.vzipLo v) :=
  Code.row_fits _ _ _ _ (by decide) (by decide) (by show _ < 2 ^ 32; have := v.tail_lt; omega)

theorem vzipHi (v : VArgs3) : Statement (.vzipHi v) :=
  Code.row_fits _ _ _ _ (by decide) (by decide) (by show _ < 2 ^ 32; have := v.tail_lt; simp only [put]; omega)

theorem vunzipEv (v : VArgs3) : Statement (.vunzipEv v) :=
  Code.row_fits _ _ _ _ (by decide) (by decide) (by show _ < 2 ^ 32; have := v.tail_lt; simp only [put]; omega)

theorem vunzipOd (v : VArgs3) : Statement (.vunzipOd v) :=
  Code.row_fits _ _ _ _ (by decide) (by decide) (by show _ < 2 ^ 32; have := v.tail_lt; simp only [put]; omega)

theorem vredadd (d : Field) (a : Field) (k : BitVec 3) (w : BitVec 2) (u : Bool) (fp : Bool) : Statement (.vredadd d a k w u fp) :=
  Code.row_fits _ _ _ _ (by decide) (by decide) (by show _ < 2 ^ 32; have := u.toNat_lt; have := fp.toNat_lt; simp only [put]; omega)

theorem vredmin (d : Field) (a : Field) (k : BitVec 3) (w : BitVec 2) (u : Bool) (fp : Bool) : Statement (.vredmin d a k w u fp) :=
  Code.row_fits _ _ _ _ (by decide) (by decide) (by show _ < 2 ^ 32; have := u.toNat_lt; have := fp.toNat_lt; simp only [put]; omega)

theorem vredmax (d : Field) (a : Field) (k : BitVec 3) (w : BitVec 2) (u : Bool) (fp : Bool) : Statement (.vredmax d a k w u fp) :=
  Code.row_fits _ _ _ _ (by decide) (by decide) (by show _ < 2 ^ 32; have := u.toNat_lt; have := fp.toNat_lt; simp only [put]; omega)

theorem vfadd (v : VArgs) (m : BitVec 3) : Statement (.vfadd v m) :=
  Code.row_fits _ _ _ _ (by decide) (by decide) (by show _ < 2 ^ 32; have := v.tail_lt; simp only [put]; omega)

theorem vfsub (v : VArgs) (m : BitVec 3) : Statement (.vfsub v m) :=
  Code.row_fits _ _ _ _ (by decide) (by decide) (by show _ < 2 ^ 32; have := v.tail_lt; simp only [put]; omega)

theorem vfmul (v : VArgs) (m : BitVec 3) : Statement (.vfmul v m) :=
  Code.row_fits _ _ _ _ (by decide) (by decide) (by show _ < 2 ^ 32; have := v.tail_lt; simp only [put]; omega)

theorem vfma (v : VArgs) (c : Field) (m : BitVec 3) : Statement (.vfma v c m) :=
  Code.row_fits _ _ _ _ (by decide) (by decide) (by show _ < 2 ^ 32; have := v.tail_lt; simp only [put]; omega)

theorem vfnma (v : VArgs) (c : Field) (m : BitVec 3) : Statement (.vfnma v c m) :=
  Code.row_fits _ _ _ _ (by decide) (by decide) (by show _ < 2 ^ 32; have := v.tail_lt; simp only [put]; omega)

theorem vfmin (v : VArgs) : Statement (.vfmin v) :=
  Code.row_fits _ _ _ _ (by decide) (by decide) (by show _ < 2 ^ 32; have := v.tail_lt; omega)

theorem vfmax (v : VArgs) : Statement (.vfmax v) :=
  Code.row_fits _ _ _ _ (by decide) (by decide) (by show _ < 2 ^ 32; have := v.tail_lt; simp only [put]; omega)

theorem vcvt (d : Field) (a : Field) (k : BitVec 3) (z : Bool) (m : BitVec 3) (p : BitVec 3) (dst : BitVec 4) (src : BitVec 4) : Statement (.vcvt d a k z m p dst src) :=
  Code.row_fits _ _ _ _ (by decide) (by decide) (by show _ < 2 ^ 32; have := z.toNat_lt; simp only [put]; omega)

theorem vpack (v : VArgs3) (sat : BitVec 2) : Statement (.vpack v sat) :=
  Code.row_fits _ _ _ _ (by decide) (by decide) (by show _ < 2 ^ 32; have := v.tail_lt; simp only [put]; omega)

theorem vunpack (v : VArgs2) (sx : Bool) (hi : Bool) : Statement (.vunpack v sx hi) :=
  Code.row_fits _ _ _ _ (by decide) (by decide) (by show _ < 2 ^ 32; have := v.tail_lt; have := sx.toNat_lt; have := hi.toNat_lt; simp only [put]; omega)

theorem kopAnd (d : Field) (a : Field) (b : Field) : Statement (.kopAnd d a b) :=
  Code.row_fits _ _ _ _ (by decide) (by decide) (by show _ < 2 ^ 16; simp only [put]; omega)

theorem kopOr (d : Field) (a : Field) (b : Field) : Statement (.kopOr d a b) :=
  Code.row_fits _ _ _ _ (by decide) (by decide) (by show _ < 2 ^ 16; simp only [put]; omega)

theorem kopXor (d : Field) (a : Field) (b : Field) : Statement (.kopXor d a b) :=
  Code.row_fits _ _ _ _ (by decide) (by decide) (by show _ < 2 ^ 16; simp only [put]; omega)

theorem kopAndn (d : Field) (a : Field) (b : Field) : Statement (.kopAndn d a b) :=
  Code.row_fits _ _ _ _ (by decide) (by decide) (by show _ < 2 ^ 16; simp only [put]; omega)

theorem kopNot (d : Field) (a : Field) : Statement (.kopNot d a) :=
  Code.row_fits _ _ _ _ (by decide) (by decide) (by show _ < 2 ^ 16; simp only [put]; omega)

theorem kopFromg (d : Field) (a : Field) : Statement (.kopFromg d a) :=
  Code.row_fits _ _ _ _ (by decide) (by decide) (by show _ < 2 ^ 16; simp only [put]; omega)

theorem kopTog (d : Field) (a : Field) : Statement (.kopTog d a) :=
  Code.row_fits _ _ _ _ (by decide) (by decide) (by show _ < 2 ^ 16; simp only [put]; omega)

theorem kopLo (d : Field) (a : Field) : Statement (.kopLo d a) :=
  Code.row_fits _ _ _ _ (by decide) (by decide) (by show _ < 2 ^ 16; simp only [put]; omega)

theorem kpop (d : Field) (a : Field) (w : BitVec 2) : Statement (.kpop d a w) :=
  Code.row_fits _ _ _ _ (by decide) (by decide) (by show _ < 2 ^ 16; simp only [put]; omega)

theorem kfirst (d : Field) (a : Field) (w : BitVec 2) : Statement (.kfirst d a w) :=
  Code.row_fits _ _ _ _ (by decide) (by decide) (by show _ < 2 ^ 16; simp only [put]; omega)

theorem vld (d : Field) (a : Field) (k : BitVec 3) (w : BitVec 2) (disp : BitVec 21) : Statement (.vld d a k w disp) :=
  Code.row_fits _ _ _ _ (by decide) (by decide) (by show _ < 2 ^ 32; simp only [put]; omega)

theorem vst (d : Field) (a : Field) (k : BitVec 3) (w : BitVec 2) (disp : BitVec 21) : Statement (.vst d a k w disp) :=
  Code.row_fits _ _ _ _ (by decide) (by decide) (by show _ < 2 ^ 32; simp only [put]; omega)

theorem vlds (d : Field) (a : Field) (b : Field) (k : BitVec 3) (w : BitVec 2) : Statement (.vlds d a b k w) :=
  Code.row_fits _ _ _ _ (by decide) (by decide) (by show _ < 2 ^ 32; simp only [put]; omega)

theorem vldx (d : Field) (a : Field) (b : Field) (sc : BitVec 2) (k : BitVec 3) (w : BitVec 2) : Statement (.vldx d a b sc k w) :=
  Code.row_fits _ _ _ _ (by decide) (by decide) (by show _ < 2 ^ 32; simp only [put]; omega)

theorem vstx (d : Field) (a : Field) (b : Field) (sc : BitVec 2) (k : BitVec 3) (w : BitVec 2) : Statement (.vstx d a b sc k w) :=
  Code.row_fits _ _ _ _ (by decide) (by decide) (by show _ < 2 ^ 32; simp only [put]; omega)

theorem ld (d : Field) (a : Field) (sz : BitVec 2) (sx : Bool) (disp : BitVec 23) : Statement (.ld d a sz sx disp) :=
  Code.row_fits _ _ _ _ (by decide) (by decide) (by show _ < 2 ^ 32; have := sx.toNat_lt; simp only [put]; omega)

theorem st (d : Field) (a : Field) (sz : BitVec 2) (disp : BitVec 23) : Statement (.st d a sz disp) :=
  Code.row_fits _ _ _ _ (by decide) (by decide) (by show _ < 2 ^ 32; simp only [put]; omega)

theorem stA (d : Field) (a : Field) (sz : BitVec 2) (disp : BitVec 23) : Statement (.stA d a sz disp) :=
  Code.row_fits _ _ _ _ (by decide) (by decide) (by show _ < 2 ^ 32; simp only [put]; omega)

theorem ldfe (d : Field) (a : Field) (disp : BitVec 23) : Statement (.ldfe d a disp) :=
  Code.row_fits _ _ _ _ (by decide) (by decide) (by show _ < 2 ^ 32; simp only [put]; omega)

theorem ldfeE (d : Field) (a : Field) (disp : BitVec 23) : Statement (.ldfeE d a disp) :=
  Code.row_fits _ _ _ _ (by decide) (by decide) (by show _ < 2 ^ 32; simp only [put]; omega)

theorem stfe (d : Field) (a : Field) (disp : BitVec 23) : Statement (.stfe d a disp) :=
  Code.row_fits _ _ _ _ (by decide) (by decide) (by show _ < 2 ^ 32; simp only [put]; omega)

theorem feset (a : Field) : Statement (.feset a) :=
  Code.row_fits _ _ _ _ (by decide) (by decide) (by show _ < 2 ^ 16; simp only [put]; omega)

theorem feclr (a : Field) : Statement (.feclr a) :=
  Code.row_fits _ _ _ _ (by decide) (by decide) (by show _ < 2 ^ 16; simp only [put]; omega)

theorem amoAdd (d : Field) (a : Field) (b : Field) (sz : BitVec 2) (p : Bool) : Statement (.amoAdd d a b sz p) :=
  Code.row_fits _ _ _ _ (by decide) (by decide) (by show _ < 2 ^ 32; have := p.toNat_lt; simp only [put]; omega)

theorem amoAnd (d : Field) (a : Field) (b : Field) (sz : BitVec 2) (p : Bool) : Statement (.amoAnd d a b sz p) :=
  Code.row_fits _ _ _ _ (by decide) (by decide) (by show _ < 2 ^ 32; have := p.toNat_lt; simp only [put]; omega)

theorem amoOr (d : Field) (a : Field) (b : Field) (sz : BitVec 2) (p : Bool) : Statement (.amoOr d a b sz p) :=
  Code.row_fits _ _ _ _ (by decide) (by decide) (by show _ < 2 ^ 32; have := p.toNat_lt; simp only [put]; omega)

theorem amoXor (d : Field) (a : Field) (b : Field) (sz : BitVec 2) (p : Bool) : Statement (.amoXor d a b sz p) :=
  Code.row_fits _ _ _ _ (by decide) (by decide) (by show _ < 2 ^ 32; have := p.toNat_lt; simp only [put]; omega)

theorem amoSwap (d : Field) (a : Field) (b : Field) (sz : BitVec 2) (p : Bool) : Statement (.amoSwap d a b sz p) :=
  Code.row_fits _ _ _ _ (by decide) (by decide) (by show _ < 2 ^ 32; have := p.toNat_lt; simp only [put]; omega)

theorem amoMin (d : Field) (a : Field) (b : Field) (sz : BitVec 2) (p : Bool) : Statement (.amoMin d a b sz p) :=
  Code.row_fits _ _ _ _ (by decide) (by decide) (by show _ < 2 ^ 32; have := p.toNat_lt; simp only [put]; omega)

theorem amoMax (d : Field) (a : Field) (b : Field) (sz : BitVec 2) (p : Bool) : Statement (.amoMax d a b sz p) :=
  Code.row_fits _ _ _ _ (by decide) (by decide) (by show _ < 2 ^ 32; have := p.toNat_lt; simp only [put]; omega)

theorem amoMinu (d : Field) (a : Field) (b : Field) (sz : BitVec 2) (p : Bool) : Statement (.amoMinu d a b sz p) :=
  Code.row_fits _ _ _ _ (by decide) (by decide) (by show _ < 2 ^ 32; have := p.toNat_lt; simp only [put]; omega)

theorem amoMaxu (d : Field) (a : Field) (b : Field) (sz : BitVec 2) (p : Bool) : Statement (.amoMaxu d a b sz p) :=
  Code.row_fits _ _ _ _ (by decide) (by decide) (by show _ < 2 ^ 32; have := p.toNat_lt; simp only [put]; omega)

theorem amofAdd (d : Field) (a : Field) (b : Field) (fmt : BitVec 2) (p : Bool) : Statement (.amofAdd d a b fmt p) :=
  Code.row_fits _ _ _ _ (by decide) (by decide) (by show _ < 2 ^ 32; have := p.toNat_lt; simp only [put]; omega)

theorem amofMin (d : Field) (a : Field) (b : Field) (fmt : BitVec 2) (p : Bool) : Statement (.amofMin d a b fmt p) :=
  Code.row_fits _ _ _ _ (by decide) (by decide) (by show _ < 2 ^ 32; have := p.toNat_lt; simp only [put]; omega)

theorem amofMax (d : Field) (a : Field) (b : Field) (fmt : BitVec 2) (p : Bool) : Statement (.amofMax d a b fmt p) :=
  Code.row_fits _ _ _ _ (by decide) (by decide) (by show _ < 2 ^ 32; have := p.toNat_lt; simp only [put]; omega)

theorem cas (d : Field) (a : Field) (b : Field) (c : Field) (sz : BitVec 2) : Statement (.cas d a b c sz) :=
  Code.row_fits _ _ _ _ (by decide) (by decide) (by show _ < 2 ^ 32; simp only [put]; omega)

theorem prefC (a : Field) (disp : BitVec 23) : Statement (.prefC a disp) :=
  Code.row_fits _ _ _ _ (by decide) (by decide) (by show _ < 2 ^ 32; simp only [put]; omega)

theorem prefT (a : Field) (disp : BitVec 23) : Statement (.prefT a disp) :=
  Code.row_fits _ _ _ _ (by decide) (by decide) (by show _ < 2 ^ 32; simp only [put]; omega)

theorem prefX (a : Field) (disp : BitVec 23) : Statement (.prefX a disp) :=
  Code.row_fits _ _ _ _ (by decide) (by decide) (by show _ < 2 ^ 32; simp only [put]; omega)

theorem sealq (d : Field) (a : Field) : Statement (.sealq d a) :=
  Code.row_fits _ _ _ _ (by decide) (by decide) (by show _ < 2 ^ 16; simp only [put]; omega)

theorem hgive (a : Field) (b : Field) : Statement (.hgive a b) :=
  Code.row_fits _ _ _ _ (by decide) (by decide) (by show _ < 2 ^ 16; simp only [put]; omega)

theorem htake (d : Field) (a : Field) : Statement (.htake d a) :=
  Code.row_fits _ _ _ _ (by decide) (by decide) (by show _ < 2 ^ 16; simp only [put]; omega)

theorem handleArrival (buf : BitVec 10) (core : BitVec 4) : Statement (.handleArrival buf core) :=
  fun _ h => nomatch h

theorem spld (d : Field) (a : Field) (sz : BitVec 2) (sx : Bool) (disp : BitVec 23) : Statement (.spld d a sz sx disp) :=
  Code.row_fits _ _ _ _ (by decide) (by decide) (by show _ < 2 ^ 32; have := sx.toNat_lt; simp only [put]; omega)

theorem spst (d : Field) (a : Field) (sz : BitVec 2) (disp : BitVec 23) : Statement (.spst d a sz disp) :=
  Code.row_fits _ _ _ _ (by decide) (by decide) (by show _ < 2 ^ 32; simp only [put]; omega)

theorem lea (d : Field) (a : Field) (disp : BitVec 23) : Statement (.lea d a disp) :=
  Code.row_fits _ _ _ _ (by decide) (by decide) (by show _ < 2 ^ 32; simp only [put]; omega)

theorem leaG (d : Field) (a : Field) (disp : BitVec 23) : Statement (.leaG d a disp) :=
  Code.row_fits _ _ _ _ (by decide) (by decide) (by show _ < 2 ^ 32; simp only [put]; omega)

theorem leaGs (d : Field) (a : Field) (disp : BitVec 23) : Statement (.leaGs d a disp) :=
  Code.row_fits _ _ _ _ (by decide) (by decide) (by show _ < 2 ^ 32; simp only [put]; omega)

theorem fenceLd (s : BitVec 4) : Statement (.fenceLd s) :=
  Code.row_fits _ _ _ _ (by decide) (by decide) (by show _ < 2 ^ 16; simp only [put]; omega)

theorem fenceSt (s : BitVec 4) : Statement (.fenceSt s) :=
  Code.row_fits _ _ _ _ (by decide) (by decide) (by show _ < 2 ^ 16; simp only [put]; omega)

theorem fence (s : BitVec 4) : Statement (.fence s) :=
  Code.row_fits _ _ _ _ (by decide) (by decide) (by show _ < 2 ^ 16; simp only [put]; omega)

theorem fenceEng (s : BitVec 4) : Statement (.fenceEng s) :=
  Code.row_fits _ _ _ _ (by decide) (by decide) (by show _ < 2 ^ 16; simp only [put]; omega)

theorem bar (s : BitVec 4) : Statement (.bar s) :=
  Code.row_fits _ _ _ _ (by decide) (by decide) (by show _ < 2 ^ 16; simp only [put]; omega)

theorem barvAdd (d : Field) (a : Field) (s : BitVec 4) : Statement (.barvAdd d a s) :=
  Code.row_fits _ _ _ _ (by decide) (by decide) (by show _ < 2 ^ 32; simp only [put]; omega)

theorem barvMin (d : Field) (a : Field) (s : BitVec 4) : Statement (.barvMin d a s) :=
  Code.row_fits _ _ _ _ (by decide) (by decide) (by show _ < 2 ^ 32; simp only [put]; omega)

theorem barvMax (d : Field) (a : Field) (s : BitVec 4) : Statement (.barvMax d a s) :=
  Code.row_fits _ _ _ _ (by decide) (by decide) (by show _ < 2 ^ 32; simp only [put]; omega)

theorem barvMinu (d : Field) (a : Field) (s : BitVec 4) : Statement (.barvMinu d a s) :=
  Code.row_fits _ _ _ _ (by decide) (by decide) (by show _ < 2 ^ 32; simp only [put]; omega)

theorem barvMaxu (d : Field) (a : Field) (s : BitVec 4) : Statement (.barvMaxu d a s) :=
  Code.row_fits _ _ _ _ (by decide) (by decide) (by show _ < 2 ^ 32; simp only [put]; omega)

theorem barvAnd (d : Field) (a : Field) (s : BitVec 4) : Statement (.barvAnd d a s) :=
  Code.row_fits _ _ _ _ (by decide) (by decide) (by show _ < 2 ^ 32; simp only [put]; omega)

theorem barvOr (d : Field) (a : Field) (s : BitVec 4) : Statement (.barvOr d a s) :=
  Code.row_fits _ _ _ _ (by decide) (by decide) (by show _ < 2 ^ 32; simp only [put]; omega)

theorem barvXor (d : Field) (a : Field) (s : BitVec 4) : Statement (.barvXor d a s) :=
  Code.row_fits _ _ _ _ (by decide) (by decide) (by show _ < 2 ^ 32; simp only [put]; omega)

theorem barrierArrival (scope : BitVec 4) (core : BitVec 29) (vals : List (RedOp × Word)) : Statement (.barrierArrival scope core vals) :=
  fun _ h => nomatch h

theorem barrierRelease (scope : BitVec 4) : Statement (.barrierRelease scope) :=
  fun _ h => nomatch h

theorem icinv (a : Field) (b : Field) (s : BitVec 4) : Statement (.icinv a b s) :=
  Code.row_fits _ _ _ _ (by decide) (by decide) (by show _ < 2 ^ 16; simp only [put]; omega)

theorem icinvDiscard (base : Word) (len : Word) : Statement (.icinvDiscard base len) :=
  fun _ h => nomatch h

theorem dsync : Statement .dsync :=
  Code.row_fits _ _ _ _ (by decide) (by decide) (by decide)

theorem tsync : Statement .tsync :=
  Code.row_fits _ _ _ _ (by decide) (by decide) (by decide)

theorem cjoin (d : Field) (a : Field) (b : Field) (s : BitVec 4) : Statement (.cjoin d a b s) :=
  Code.row_fits _ _ _ _ (by decide) (by decide) (by show _ < 2 ^ 32; simp only [put]; omega)

theorem cleave (d : Field) : Statement (.cleave d) :=
  Code.row_fits _ _ _ _ (by decide) (by decide) (by show _ < 2 ^ 16; decide)

theorem cbrAny (d : Field) (hint : Bool) (i : BitVec 26) : Statement (.cbrAny d hint i) :=
  Code.row_fits _ _ _ _ (by decide) (by decide) (by show _ < 2 ^ 32; have := hint.toNat_lt; simp only [put]; omega)

theorem cbrAll (d : Field) (hint : Bool) (i : BitVec 26) : Statement (.cbrAll d hint i) :=
  Code.row_fits _ _ _ _ (by decide) (by decide) (by show _ < 2 ^ 32; have := hint.toNat_lt; simp only [put]; omega)

theorem credAdd (d : Field) (a : Field) : Statement (.credAdd d a) :=
  Code.row_fits _ _ _ _ (by decide) (by decide) (by show _ < 2 ^ 32; simp only [put]; omega)

theorem credMin (d : Field) (a : Field) : Statement (.credMin d a) :=
  Code.row_fits _ _ _ _ (by decide) (by decide) (by show _ < 2 ^ 32; simp only [put]; omega)

theorem credMax (d : Field) (a : Field) : Statement (.credMax d a) :=
  Code.row_fits _ _ _ _ (by decide) (by decide) (by show _ < 2 ^ 32; simp only [put]; omega)

theorem credMinu (d : Field) (a : Field) : Statement (.credMinu d a) :=
  Code.row_fits _ _ _ _ (by decide) (by decide) (by show _ < 2 ^ 32; simp only [put]; omega)

theorem credMaxu (d : Field) (a : Field) : Statement (.credMaxu d a) :=
  Code.row_fits _ _ _ _ (by decide) (by decide) (by show _ < 2 ^ 32; simp only [put]; omega)

theorem cstatGrp (d : Field) : Statement (.cstatGrp d) :=
  Code.row_fits _ _ _ _ (by decide) (by decide) (by show _ < 2 ^ 16; decide)

theorem cstatSeq (d : Field) : Statement (.cstatSeq d) :=
  Code.row_fits _ _ _ _ (by decide) (by decide) (by show _ < 2 ^ 16; decide)

theorem cstatSpec (d : Field) : Statement (.cstatSpec d) :=
  Code.row_fits _ _ _ _ (by decide) (by decide) (by show _ < 2 ^ 16; decide)

theorem collectiveArrival (gid : BitVec 12) (scope : BitVec 4) (seq : BitVec 16) (count : BitVec 33) (vote : Vote) : Statement (.collectiveArrival gid scope seq count vote) :=
  fun _ h => nomatch h

theorem collectiveResult (gid : BitVec 12) (scope : BitVec 4) : Statement (.collectiveResult gid scope) :=
  fun _ h => nomatch h

theorem cbtimeo (gid : BitVec 12) (scope : BitVec 4) : Statement (.cbtimeo gid scope) :=
  fun _ h => nomatch h

theorem cbbroken (gid : BitVec 12) (scope : BitVec 4) (reason : BitVec 4) (info : BitVec 29) : Statement (.cbbroken gid scope reason info) :=
  fun _ h => nomatch h

theorem tld (d : Field) (c1 : BitVec 12) (c0 : BitVec 12) (lt : BitVec 6) (dir : Bool) (y : Sync) : Statement (.tld d c1 c0 lt dir y) :=
  Code.row_fits _ _ _ _ (by decide) (by decide) (by show _ < 2 ^ 64; have := dir.toNat_lt; have := y.tail_lt; simp only [put]; omega)

theorem tst (d : Field) (c1 : BitVec 12) (c0 : BitVec 12) (lt : BitVec 6) (dir : Bool) (y : Sync) : Statement (.tst d c1 c0 lt dir y) :=
  Code.row_fits _ _ _ _ (by decide) (by decide) (by show _ < 2 ^ 64; have := dir.toNat_lt; have := y.tail_lt; simp only [put]; omega)

theorem tzero (d : Field) (y : Sync) : Statement (.tzero d y) :=
  Code.row_fits _ _ _ _ (by decide) (by decide) (by show _ < 2 ^ 64; have := y.tail_lt; omega)

theorem mzero (d : Field) (y : Sync) : Statement (.mzero d y) :=
  Code.row_fits _ _ _ _ (by decide) (by decide) (by show _ < 2 ^ 64; have := y.tail_lt; simp only [put]; omega)

theorem mmaBf16 (m : MmaArgs) (y : Sync) : Statement (.mmaBf16 m y) :=
  Code.row_fits _ _ _ _ (by decide) (by decide) (by show _ < 2 ^ 64; have := m.tail_lt; have := y.tail_lt; omega)

theorem mmaF16 (m : MmaArgs) (y : Sync) : Statement (.mmaF16 m y) :=
  Code.row_fits _ _ _ _ (by decide) (by decide) (by show _ < 2 ^ 64; have := m.tail_lt; have := y.tail_lt; omega)

theorem mmaE4m3 (m : MmaArgs) (y : Sync) : Statement (.mmaE4m3 m y) :=
  Code.row_fits _ _ _ _ (by decide) (by decide) (by show _ < 2 ^ 64; have := m.tail_lt; have := y.tail_lt; omega)

theorem mmaE5e4 (m : MmaArgs) (y : Sync) : Statement (.mmaE5e4 m y) :=
  Code.row_fits _ _ _ _ (by decide) (by decide) (by show _ < 2 ^ 64; have := m.tail_lt; have := y.tail_lt; omega)

theorem mmaE4e5 (m : MmaArgs) (y : Sync) : Statement (.mmaE4e5 m y) :=
  Code.row_fits _ _ _ _ (by decide) (by decide) (by show _ < 2 ^ 64; have := m.tail_lt; have := y.tail_lt; omega)

theorem mmaI8 (m : MmaArgs) (y : Sync) : Statement (.mmaI8 m y) :=
  Code.row_fits _ _ _ _ (by decide) (by decide) (by show _ < 2 ^ 64; have := m.tail_lt; have := y.tail_lt; omega)

theorem mmaUi8i8 (m : MmaArgs) (y : Sync) : Statement (.mmaUi8i8 m y) :=
  Code.row_fits _ _ _ _ (by decide) (by decide) (by show _ < 2 ^ 64; have := m.tail_lt; have := y.tail_lt; omega)

theorem mmaE2m1 (m : MmaArgs) (y : Sync) : Statement (.mmaE2m1 m y) :=
  Code.row_fits _ _ _ _ (by decide) (by decide) (by show _ < 2 ^ 64; have := m.tail_lt; have := y.tail_lt; omega)

theorem mmaTw8i8 (m : MmaArgs) (y : Sync) : Statement (.mmaTw8i8 m y) :=
  Code.row_fits _ _ _ _ (by decide) (by decide) (by show _ < 2 ^ 64; have := m.tail_lt; have := y.tail_lt; omega)

theorem mmaTw8e4 (m : MmaArgs) (y : Sync) : Statement (.mmaTw8e4 m y) :=
  Code.row_fits _ _ _ _ (by decide) (by decide) (by show _ < 2 ^ 64; have := m.tail_lt; have := y.tail_lt; omega)

theorem mmaTw8bf (m : MmaArgs) (y : Sync) : Statement (.mmaTw8bf m y) :=
  Code.row_fits _ _ _ _ (by decide) (by decide) (by show _ < 2 ^ 64; have := m.tail_lt; have := y.tail_lt; omega)

theorem mmaStream (op : BitVec 8) (m : MmaArgs) (y : Sync) : Statement (.mmaStream op m y) :=
  Code.row_fits _ _ _ _ (by decide) (BitVec.isLt _) (by show _ < 2 ^ 64; have := m.tail_lt; have := y.tail_lt; simp only [put]; omega)

theorem mrd (m : MrdArgs) (y : Sync) : Statement (.mrd m y) :=
  Code.row_fits _ _ _ _ (by decide) (by decide) (by show _ < 2 ^ 64; have := m.tail_lt; have := y.tail_lt; simp only [put]; omega)

theorem mst (d : Field) (fmt : BitVec 4) (rm : BitVec 3) (lt : BitVec 6) (dir : Bool) (rpt : Bool) (y : Sync) : Statement (.mst d fmt rm lt dir rpt y) :=
  Code.row_fits _ _ _ _ (by decide) (by decide) (by show _ < 2 ^ 64; have := dir.toNat_lt; have := rpt.toNat_lt; have := y.tail_lt; simp only [put]; omega)

theorem mstIn (d : Field) (fmt : BitVec 4) (rm : BitVec 3) (lt : BitVec 6) (dir : Bool) (rpt : Bool) (y : Sync) : Statement (.mstIn d fmt rm lt dir rpt y) :=
  Code.row_fits _ _ _ _ (by decide) (by decide) (by show _ < 2 ^ 64; have := dir.toNat_lt; have := rpt.toNat_lt; have := y.tail_lt; simp only [put]; omega)

theorem mwait : Statement .mwait :=
  Code.row_fits _ _ _ _ (by decide) (by decide) (by show _ < 2 ^ 16; decide)

theorem mwaitAcc (a : Field) : Statement (.mwaitAcc a) :=
  Code.row_fits _ _ _ _ (by decide) (by decide) (by show _ < 2 ^ 16; simp only [put]; omega)

theorem mstat (d : Field) (a : Field) : Statement (.mstat d a) :=
  Code.row_fits _ _ _ _ (by decide) (by decide) (by show _ < 2 ^ 16; simp only [put]; omega)

theorem mstatC (d : Field) (a : Field) : Statement (.mstatC d a) :=
  Code.row_fits _ _ _ _ (by decide) (by decide) (by show _ < 2 ^ 16; simp only [put]; omega)

theorem mcmd (d : Field) (a : Field) (b : Field) (c : Field) (r : BitVec 6) (x : BitVec 8) : Statement (.mcmd d a b c r x) :=
  Code.row_fits _ _ _ _ (by decide) (by decide) (by show _ < 2 ^ 32; simp only [put]; omega)

theorem mcap (a : Field) : Statement (.mcap a) :=
  Code.row_fits _ _ _ _ (by decide) (by decide) (by show _ < 2 ^ 32; simp only [put]; omega)

theorem mcmdAtTarget (x : BitVec 8) (r : Field) (tail : Word) (cap : BitVec 32) (sender : BitVec 29) (note : Option (BitVec 8)) (req : Option Nat) : Statement (.mcmdAtTarget x r tail cap sender note req) :=
  fun _ h => nomatch h

theorem matrixCommandStart (id : Nat) : Statement (.matrixCommandStart id) :=
  fun _ h => nomatch h

theorem bellowsBoundary (active : Nat) (requestsBelow : Nat) (stopsBelow : Nat) : Statement (.bellowsBoundary active requestsBelow stopsBelow) :=
  fun _ h => nomatch h

theorem matrixCommandComplete (id : Nat) : Statement (.matrixCommandComplete id) :=
  fun _ h => nomatch h

theorem cpy (slt : BitVec 6) (dlt : BitVec 6) (rank : BitVec 4) (res : Bool) (rpt : Bool) (y : Sync) : Statement (.cpy slt dlt rank res rpt y) :=
  Code.row_fits _ _ _ _ (by decide) (by decide) (by show _ < 2 ^ 64; have := res.toNat_lt; have := rpt.toNat_lt; have := y.tail_lt; simp only [put]; omega)

theorem cpyr (slt : BitVec 6) (dlt : BitVec 6) (rank : BitVec 4) (res : Bool) (op : BitVec 3) (fmt : BitVec 4) (rpt : Bool) (y : Sync) : Statement (.cpyr slt dlt rank res op fmt rpt y) :=
  Code.row_fits _ _ _ _ (by decide) (by decide) (by show _ < 2 ^ 64; have := res.toNat_lt; have := rpt.toNat_lt; have := y.tail_lt; simp only [put]; omega)

theorem gath (slt : BitVec 6) (ilt : BitVec 6) (dlt : BitVec 6) (res : Bool) (rpt : Bool) (y : Sync) : Statement (.gath slt ilt dlt res rpt y) :=
  Code.row_fits _ _ _ _ (by decide) (by decide) (by show _ < 2 ^ 64; have := res.toNat_lt; have := rpt.toNat_lt; have := y.tail_lt; simp only [put]; omega)

theorem gathQ (slt : BitVec 6) (ilt : BitVec 6) (res : Bool) (rpt : Bool) (y : Sync) : Statement (.gathQ slt ilt res rpt y) :=
  Code.row_fits _ _ _ _ (by decide) (by decide) (by show _ < 2 ^ 64; have := res.toNat_lt; have := rpt.toNat_lt; have := y.tail_lt; simp only [put]; omega)

theorem pack (slt : BitVec 6) (mlt : BitVec 6) (dlt : BitVec 6) (rpt : Bool) (y : Sync) : Statement (.pack slt mlt dlt rpt y) :=
  Code.row_fits _ _ _ _ (by decide) (by decide) (by show _ < 2 ^ 64; have := rpt.toNat_lt; have := y.tail_lt; simp only [put]; omega)

theorem pull (c1 : BitVec 12) (c0 : BitVec 12) (lt : BitVec 6) (rpt : Bool) (y : Sync) : Statement (.pull c1 c0 lt rpt y) :=
  Code.row_fits _ _ _ _ (by decide) (by decide) (by show _ < 2 ^ 64; have := rpt.toNat_lt; have := y.tail_lt; simp only [put]; omega)

theorem kick (d : Field) (a : Field) (b : Field) (c : Field) : Statement (.kick d a b c) :=
  Code.row_fits _ _ _ _ (by decide) (by decide) (by show _ < 2 ^ 32; simp only [put]; omega)

theorem kickNoticeArrival (n : Notice) (req : Option Nat) : Statement (.kickNoticeArrival n req) :=
  fun _ h => nomatch h

theorem pullAckArrival (sem : BitVec 8) : Statement (.pullAckArrival sem) :=
  fun _ h => nomatch h

theorem engineCommandStart (gather : Bool) : Statement (.engineCommandStart gather) :=
  fun _ h => nomatch h

theorem engineCommandComplete (gather : Bool) : Statement (.engineCommandComplete gather) :=
  fun _ h => nomatch h

theorem qfence (m : BitVec 4) : Statement (.qfence m) :=
  Code.row_fits _ _ _ _ (by decide) (by decide) (by show _ < 2 ^ 16; simp only [put]; omega)

theorem sinc (s : BitVec 8) (n : BitVec 16) : Statement (.sinc s n) :=
  Code.row_fits _ _ _ _ (by decide) (by decide) (by show _ < 2 ^ 32; simp only [put]; omega)

theorem swait (s : BitVec 8) (n : BitVec 16) : Statement (.swait s n) :=
  Code.row_fits _ _ _ _ (by decide) (by decide) (by show _ < 2 ^ 32; simp only [put]; omega)

theorem swaitNb (d : Field) (s : BitVec 8) (n : BitVec 16) : Statement (.swaitNb d s n) :=
  Code.row_fits _ _ _ _ (by decide) (by decide) (by show _ < 2 ^ 32; simp only [put]; omega)

theorem sget (d : Field) (s : BitVec 8) : Statement (.sget d s) :=
  Code.row_fits _ _ _ _ (by decide) (by decide) (by show _ < 2 ^ 16; simp only [put]; omega)

theorem sset (s : BitVec 8) (n : BitVec 16) : Statement (.sset s n) :=
  Code.row_fits _ _ _ _ (by decide) (by decide) (by show _ < 2 ^ 32; simp only [put]; omega)

theorem ssetReg (a : Field) (s : BitVec 8) : Statement (.ssetReg a s) :=
  Code.row_fits _ _ _ _ (by decide) (by decide) (by show _ < 2 ^ 32; simp only [put]; omega)

theorem lyt (a : Field) (lt : BitVec 6) : Statement (.lyt a lt) :=
  Code.row_fits _ _ _ _ (by decide) (by decide) (by show _ < 2 ^ 32; simp only [put]; omega)

theorem lytq (d : Field) (lt : BitVec 6) (w : BitVec 4) : Statement (.lytq d lt w) :=
  Code.row_fits _ _ _ _ (by decide) (by decide) (by show _ < 2 ^ 16; simp only [put]; omega)

theorem onew (d : Field) (b : BitVec 6) (c : BitVec 6) (rpt : Bool) (y : Sync) : Statement (.onew d b c rpt y) :=
  Code.row_fits _ _ _ _ (by decide) (by decide) (by show _ < 2 ^ 64; have := rpt.toNat_lt; have := y.tail_lt; simp only [put]; omega)

theorem onewAtTarget (index : BitVec 12) (off : BitVec 24) (cfg : Word) (sender : BitVec 29) (req : Option Nat) : Statement (.onewAtTarget index off cfg sender req) :=
  fun _ h => nomatch h

theorem odel (d : Field) (rpt : Bool) (y : Sync) : Statement (.odel d rpt y) :=
  Code.row_fits _ _ _ _ (by decide) (by decide) (by show _ < 2 ^ 64; have := rpt.toNat_lt; have := y.tail_lt; simp only [put]; omega)

theorem odelAtTarget (index : BitVec 12) (sender : BitVec 29) (req : Option Nat) : Statement (.odelAtTarget index sender req) :=
  fun _ h => nomatch h

theorem ocfgLeak (a : Field) (b : Field) : Statement (.ocfgLeak a b) :=
  Code.row_fits _ _ _ _ (by decide) (by decide) (by show _ < 2 ^ 32; simp only [put]; omega)

theorem ocfgTheta (a : Field) (b : Field) : Statement (.ocfgTheta a b) :=
  Code.row_fits _ _ _ _ (by decide) (by decide) (by show _ < 2 ^ 32; simp only [put]; omega)

theorem ocfgUser (a : Field) (b : Field) : Statement (.ocfgUser a b) :=
  Code.row_fits _ _ _ _ (by decide) (by decide) (by show _ < 2 ^ 32; simp only [put]; omega)

theorem ocfgType (a : Field) (b : Field) : Statement (.ocfgType a b) :=
  Code.row_fits _ _ _ _ (by decide) (by decide) (by show _ < 2 ^ 32; simp only [put]; omega)

theorem oget (d : Field) (a : Field) : Statement (.oget d a) :=
  Code.row_fits _ _ _ _ (by decide) (by decide) (by show _ < 2 ^ 32; simp only [put]; omega)

theorem ogetRef (d : Field) (a : Field) : Statement (.ogetRef d a) :=
  Code.row_fits _ _ _ _ (by decide) (by decide) (by show _ < 2 ^ 32; simp only [put]; omega)

theorem ogetSh (d : Field) (a : Field) : Statement (.ogetSh d a) :=
  Code.row_fits _ _ _ _ (by decide) (by decide) (by show _ < 2 ^ 32; simp only [put]; omega)

theorem ogetW (d : Field) (a : Field) (w : BitVec 5) : Statement (.ogetW d a w) :=
  Code.row_fits _ _ _ _ (by decide) (by decide) (by show _ < 2 ^ 32; simp only [put]; omega)

theorem ogetHd (d : Field) (a : Field) (n : BitVec 3) : Statement (.ogetHd d a n) :=
  Code.row_fits _ _ _ _ (by decide) (by decide) (by show _ < 2 ^ 32; simp only [put]; omega)

theorem oput (d : Field) (a : Field) : Statement (.oput d a) :=
  Code.row_fits _ _ _ _ (by decide) (by decide) (by show _ < 2 ^ 32; simp only [put]; omega)

theorem oputW (d : Field) (a : Field) (w : BitVec 5) : Statement (.oputW d a w) :=
  Code.row_fits _ _ _ _ (by decide) (by decide) (by show _ < 2 ^ 32; simp only [put]; omega)

theorem eslot (d : Field) (a : Field) (b : Field) : Statement (.eslot d a b) :=
  Code.row_fits _ _ _ _ (by decide) (by decide) (by show _ < 2 ^ 32; simp only [put]; omega)

theorem eslotTag (d : Field) (a : Field) (b : Field) : Statement (.eslotTag d a b) :=
  Code.row_fits _ _ _ _ (by decide) (by decide) (by show _ < 2 ^ 32; simp only [put]; omega)

theorem eslotFree (a : Field) (b : Field) : Statement (.eslotFree a b) :=
  Code.row_fits _ _ _ _ (by decide) (by decide) (by show _ < 2 ^ 32; simp only [put]; omega)

theorem esend (d : Field) (b : BitVec 6) (c : BitVec 6) (y : Sync) : Statement (.esend d b c y) :=
  Code.row_fits _ _ _ _ (by decide) (by decide) (by show _ < 2 ^ 64; have := y.tail_lt; simp only [put]; omega)

theorem esendv (d : Field) (b : BitVec 6) (c : BitVec 6) (n : BitVec 5) (y : Sync) : Statement (.esendv d b c n y) :=
  Code.row_fits _ _ _ _ (by decide) (by decide) (by show _ < 2 ^ 64; have := y.tail_lt; simp only [put]; omega)

theorem edamp (d : Field) (a : Field) (b : Field) (c : Field) (fc : Bool) (z : Bool) (k : BitVec 3) : Statement (.edamp d a b c fc z k) :=
  Code.row_fits _ _ _ _ (by decide) (by decide) (by show _ < 2 ^ 32; have := fc.toNat_lt; have := z.toNat_lt; simp only [put]; omega)

theorem efan (d : Field) (b : BitVec 6) (c : BitVec 6) (y : Sync) : Statement (.efan d b c y) :=
  Code.row_fits _ _ _ _ (by decide) (by decide) (by show _ < 2 ^ 64; have := y.tail_lt; simp only [put]; omega)

theorem etick (d : Field) (a : Field) : Statement (.etick d a) :=
  Code.row_fits _ _ _ _ (by decide) (by decide) (by show _ < 2 ^ 16; simp only [put]; omega)

theorem etickSet (d : Field) (a : Field) : Statement (.etickSet d a) :=
  Code.row_fits _ _ _ _ (by decide) (by decide) (by show _ < 2 ^ 16; simp only [put]; omega)

theorem enow (d : Field) : Statement (.enow d) :=
  Code.row_fits _ _ _ _ (by decide) (by decide) (by decide)

theorem esnap (d : Field) (a : Field) (b : Field) : Statement (.esnap d a b) :=
  Code.row_fits _ _ _ _ (by decide) (by decide) (by show _ < 2 ^ 32; simp only [put]; omega)

theorem esnapClose (d : Field) : Statement (.esnapClose d) :=
  Code.row_fits _ _ _ _ (by decide) (by decide) (by show _ < 2 ^ 32; decide)

theorem esread (d : Field) (b : BitVec 6) (cut : BitVec 8) (cur : Bool) (y : Sync) : Statement (.esread d b cut cur y) :=
  Code.row_fits _ _ _ _ (by decide) (by decide) (by show _ < 2 ^ 64; have := cur.toNat_lt; have := y.tail_lt; simp only [put]; omega)

theorem esreadAtTarget (first : BitVec 12) (count : Nat) (cut : BitVec 8) (cur : Bool) (sender : BitVec 29) (req : Option Nat) : Statement (.esreadAtTarget first count cut cur sender req) :=
  fun _ h => nomatch h

theorem cvqUn (d : Field) : Statement (.cvqUn d) :=
  Code.row_fits _ _ _ _ (by decide) (by decide) (by show _ < 2 ^ 16; decide)

theorem cvqRes (d : Field) : Statement (.cvqRes d) :=
  Code.row_fits _ _ _ _ (by decide) (by decide) (by show _ < 2 ^ 16; decide)

theorem cvqLate (d : Field) : Statement (.cvqLate d) :=
  Code.row_fits _ _ _ _ (by decide) (by decide) (by show _ < 2 ^ 16; decide)

theorem cvqStale (d : Field) : Statement (.cvqStale d) :=
  Code.row_fits _ _ _ _ (by decide) (by decide) (by show _ < 2 ^ 16; decide)

theorem cvqDrop (d : Field) : Statement (.cvqDrop d) :=
  Code.row_fits _ _ _ _ (by decide) (by decide) (by show _ < 2 ^ 16; decide)

theorem cvqPend (d : Field) : Statement (.cvqPend d) :=
  Code.row_fits _ _ _ _ (by decide) (by decide) (by show _ < 2 ^ 16; decide)

theorem cvqSent (d : Field) : Statement (.cvqSent d) :=
  Code.row_fits _ _ _ _ (by decide) (by decide) (by show _ < 2 ^ 16; decide)

theorem cvqRecv (d : Field) : Statement (.cvqRecv d) :=
  Code.row_fits _ _ _ _ (by decide) (by decide) (by show _ < 2 ^ 16; decide)

theorem cvqSlate (d : Field) : Statement (.cvqSlate d) :=
  Code.row_fits _ _ _ _ (by decide) (by decide) (by show _ < 2 ^ 16; decide)

theorem cvqLateC (d : Field) : Statement (.cvqLateC d) :=
  Code.row_fits _ _ _ _ (by decide) (by decide) (by show _ < 2 ^ 16; decide)

theorem cvqStaleC (d : Field) : Statement (.cvqStaleC d) :=
  Code.row_fits _ _ _ _ (by decide) (by decide) (by show _ < 2 ^ 16; decide)

theorem cvqDropC (d : Field) : Statement (.cvqDropC d) :=
  Code.row_fits _ _ _ _ (by decide) (by decide) (by show _ < 2 ^ 16; decide)

theorem cvqSlateC (d : Field) : Statement (.cvqSlateC d) :=
  Code.row_fits _ _ _ _ (by decide) (by decide) (by show _ < 2 ^ 16; decide)

theorem hnd (a : Field) (b : Field) (c : Field) (t : BitVec 6) : Statement (.hnd a b c t) :=
  Code.row_fits _ _ _ _ (by decide) (by decide) (by show _ < 2 ^ 32; simp only [put]; omega)

theorem ehold (d : Field) : Statement (.ehold d) :=
  Code.row_fits _ _ _ _ (by decide) (by decide) (by show _ < 2 ^ 16; decide)

theorem eholdRel (d : Field) : Statement (.eholdRel d) :=
  Code.row_fits _ _ _ _ (by decide) (by decide) (by show _ < 2 ^ 16; decide)

theorem eholdQ (d : Field) : Statement (.eholdQ d) :=
  Code.row_fits _ _ _ _ (by decide) (by decide) (by show _ < 2 ^ 16; decide)

theorem droneWritebackDone : Statement .droneWritebackDone :=
  fun _ h => nomatch h

theorem eventAccept (e : Ev) (req : Option Nat) : Statement (.eventAccept e req) :=
  fun _ h => nomatch h

theorem nowAdvance : Statement .nowAdvance :=
  fun _ h => nomatch h

theorem eventDelivery : Statement .eventDelivery :=
  fun _ h => nomatch h

theorem handlerStart : Statement .handlerStart :=
  fun _ h => nomatch h

theorem tnew (d : Field) (a : Field) (b : Field) : Statement (.tnew d a b) :=
  Code.row_fits _ _ _ _ (by decide) (by decide) (by show _ < 2 ^ 32; simp only [put]; omega)

theorem tnewAtHome (r : ReqSel) : Statement (.tnewAtHome r) :=
  fun _ h => nomatch h

theorem tdec (a : Field) : Statement (.tdec a) :=
  Code.row_fits _ _ _ _ (by decide) (by decide) (by show _ < 2 ^ 16; simp only [put]; omega)

theorem taskDecrement (r : ReqSel) : Statement (.taskDecrement r) :=
  fun _ h => nomatch h

theorem runListStart : Statement .runListStart :=
  fun _ h => nomatch h

theorem qclaim (d : Field) (a : Field) : Statement (.qclaim d a) :=
  Code.row_fits _ _ _ _ (by decide) (by decide) (by show _ < 2 ^ 16; simp only [put]; omega)

theorem qpub (d : Field) (a : Field) (b : Field) : Statement (.qpub d a b) :=
  Code.row_fits _ _ _ _ (by decide) (by decide) (by show _ < 2 ^ 16; simp only [put]; omega)

theorem qsteal (d : Field) (a : Field) : Statement (.qsteal d a) :=
  Code.row_fits _ _ _ _ (by decide) (by decide) (by show _ < 2 ^ 16; simp only [put]; omega)

theorem qlen (d : Field) (a : Field) : Statement (.qlen d a) :=
  Code.row_fits _ _ _ _ (by decide) (by decide) (by show _ < 2 ^ 16; simp only [put]; omega)

theorem qlenClaims (d : Field) (a : Field) : Statement (.qlenClaims d a) :=
  Code.row_fits _ _ _ _ (by decide) (by decide) (by show _ < 2 ^ 16; simp only [put]; omega)

theorem qlenSteals (d : Field) (a : Field) : Statement (.qlenSteals d a) :=
  Code.row_fits _ _ _ _ (by decide) (by decide) (by show _ < 2 ^ 16; simp only [put]; omega)

theorem qlenFail (d : Field) (a : Field) : Statement (.qlenFail d a) :=
  Code.row_fits _ _ _ _ (by decide) (by decide) (by show _ < 2 ^ 16; simp only [put]; omega)

theorem qreset (d : Field) (a : Field) : Statement (.qreset d a) :=
  Code.row_fits _ _ _ _ (by decide) (by decide) (by show _ < 2 ^ 16; simp only [put]; omega)

theorem qresetBind (d : Field) (a : Field) (b : Field) : Statement (.qresetBind d a b) :=
  Code.row_fits _ _ _ _ (by decide) (by decide) (by show _ < 2 ^ 16; simp only [put]; omega)

theorem qresetUnbind (d : Field) (a : Field) : Statement (.qresetUnbind d a) :=
  Code.row_fits _ _ _ _ (by decide) (by decide) (by show _ < 2 ^ 16; simp only [put]; omega)

theorem queueRequestAtController (r : QSel) : Statement (.queueRequestAtController r) :=
  fun _ h => nomatch h

theorem terminationNotice (qid : BitVec 16) : Statement (.terminationNotice qid) :=
  fun _ h => nomatch h

theorem fcast (d : Field) (a : Field) : Statement (.fcast d a) :=
  Code.row_fits _ _ _ _ (by decide) (by decide) (by show _ < 2 ^ 16; simp only [put]; omega)

theorem fcastQ (d : Field) (a : Field) : Statement (.fcastQ d a) :=
  Code.row_fits _ _ _ _ (by decide) (by decide) (by show _ < 2 ^ 16; simp only [put]; omega)

theorem tstamp : Statement .tstamp :=
  Code.row_fits _ _ _ _ (by decide) (by decide) (by show _ < 2 ^ 16; decide)

theorem tstampNow (d : Field) : Statement (.tstampNow d) :=
  Code.row_fits _ _ _ _ (by decide) (by decide) (by show _ < 2 ^ 16; decide)

theorem tstampQ (d : Field) : Statement (.tstampQ d) :=
  Code.row_fits _ _ _ _ (by decide) (by decide) (by show _ < 2 ^ 16; decide)

theorem channelEntryArrival (ch : BitVec 3) (v : VWord) : Statement (.channelEntryArrival ch v) :=
  fun _ h => nomatch h

theorem requestAtHome (r : ReqSel) : Statement (.requestAtHome r) :=
  fun _ h => nomatch h

theorem replyArrival (id : Nat) (ext : Option ExtReply) : Statement (.replyArrival id ext) :=
  fun _ h => nomatch h

theorem rnrRetry (id : Nat) : Statement (.rnrRetry id) :=
  fun _ h => nomatch h

theorem acceptanceNotice (id : Nat) : Statement (.acceptanceNotice id) :=
  fun _ h => nomatch h

theorem cxlDeviceReadComplete (unit : Word) : Statement (.cxlDeviceReadComplete unit) :=
  fun _ h => nomatch h

theorem sectorBufferExpiry (unit : Word) : Statement (.sectorBufferExpiry unit) :=
  fun _ h => nomatch h

theorem deviceSemaphoreAdd (sem : BitVec 8) (v : Word) : Statement (.deviceSemaphoreAdd sem v) :=
  fun _ h => nomatch h

theorem doorbell (v : Word) : Statement (.doorbell v) :=
  fun _ h => nomatch h

theorem translationWalk (va : Word) (kind : Access) : Statement (.translationWalk va kind) :=
  fun _ h => nomatch h

theorem tlbInvalidation (base : Word) (len : Word) (all : Bool) : Statement (.tlbInvalidation base len all) :=
  fun _ h => nomatch h

theorem migrationRequest (m : MigReq) (req : Option Nat) : Statement (.migrationRequest m req) :=
  fun _ h => nomatch h

theorem migrationRoundEnd (page : Word) : Statement (.migrationRoundEnd page) :=
  fun _ h => nomatch h

theorem migrationFinalCopy (page : Word) : Statement (.migrationFinalCopy page) :=
  fun _ h => nomatch h

theorem forwardedAccess (r : ReqSel) : Statement (.forwardedAccess r) :=
  fun _ h => nomatch h

theorem migrationComplete (page : Word) : Statement (.migrationComplete page) :=
  fun _ h => nomatch h

theorem preemptInterrupt : Statement .preemptInterrupt :=
  fun _ h => nomatch h

theorem delayedExpiry (ctx : Nat) : Statement (.delayedExpiry ctx) :=
  fun _ h => nomatch h

theorem quietPointReached (ctx : Nat) : Statement (.quietPointReached ctx) :=
  fun _ h => nomatch h

theorem clusterDump : Statement .clusterDump :=
  fun _ h => nomatch h

theorem clusterReset (cluster : BitVec 7) (pkg : BitVec 18) : Statement (.clusterReset cluster pkg) :=
  fun _ h => nomatch h

theorem boundaryReopen (cluster : BitVec 7) : Statement (.boundaryReopen cluster) :=
  fun _ h => nomatch h

theorem packageReset : Statement .packageReset :=
  fun _ h => nomatch h

theorem flitReplay (link : BitVec 3) : Statement (.flitReplay link) :=
  fun _ h => nomatch h

theorem linkRetrain (link : BitVec 3) (ok : Bool) : Statement (.linkRetrain link ok) :=
  fun _ h => nomatch h

theorem linkFailure (pkg : BitVec 18) (link : Option (BitVec 3)) (unreachable : List (BitVec 18)) : Statement (.linkFailure pkg link unreachable) :=
  fun _ h => nomatch h

theorem failureAnnouncement (pkg : BitVec 18) : Statement (.failureAnnouncement pkg) :=
  fun _ h => nomatch h

theorem inDoubtTimeout (pkg : BitVec 18) : Statement (.inDoubtTimeout pkg) :=
  fun _ h => nomatch h

theorem hostRead (seq : BitVec 16) (ga : Word) (len : Nat) : Statement (.hostRead seq ga len) :=
  fun _ h => nomatch h

theorem hostWrite (seq : BitVec 16) (ga : Word) (data : List Byte) : Statement (.hostWrite seq ga data) :=
  fun _ h => nomatch h

theorem hostLaunch (rec : Word) : Statement (.hostLaunch rec) :=
  fun _ h => nomatch h

theorem hostResync (addr : Word) : Statement (.hostResync addr) :=
  fun _ h => nomatch h

theorem hcallAnswer (core : BitVec 29) (ctx : BitVec 4) (gen : BitVec 8) (ticket : BitVec 16) (value : BitVec 48) : Statement (.hcallAnswer core ctx gen ticket value) :=
  fun _ h => nomatch h

theorem dbgrd (cluster : BitVec 7) (reg : DbgReg) : Statement (.dbgrd cluster reg) :=
  fun _ h => nomatch h

theorem dbgwr (cluster : BitVec 7) (reg : DbgReg) (v : Word) : Statement (.dbgwr cluster reg v) :=
  fun _ h => nomatch h

theorem dctlHalt (cluster : BitVec 7) : Statement (.dctlHalt cluster) :=
  fun _ h => nomatch h

theorem dctlResume (cluster : BitVec 7) : Statement (.dctlResume cluster) :=
  fun _ h => nomatch h

theorem dctlStep (cluster : BitVec 7) : Statement (.dctlStep cluster) :=
  fun _ h => nomatch h

theorem ctxrd (core : BitVec 11) (ctx : BitVec 4) (off : BitVec 12) : Statement (.ctxrd core ctx off) :=
  fun _ h => nomatch h

theorem ctxwr (core : BitVec 11) (ctx : BitVec 4) (off : BitVec 12) (v : Word) : Statement (.ctxwr core ctx off v) :=
  fun _ h => nomatch h

theorem memrd (ga : Word) (len : Nat) : Statement (.memrd ga len) :=
  fun _ h => nomatch h

theorem memwr (ga : Word) (data : List Byte) : Statement (.memwr ga data) :=
  fun _ h => nomatch h

theorem patch (cluster : BitVec 7) (va : Word) (line : List Byte) (scope : BitVec 4) : Statement (.patch cluster va line scope) :=
  fun _ h => nomatch h

theorem trace (t : TraceCmd) : Statement (.trace t) :=
  fun _ h => nomatch h

theorem traceSample (ctx : Nat) : Statement (.traceSample ctx) :=
  fun _ h => nomatch h

theorem chal : Statement .chal :=
  fun _ h => nomatch h

theorem unlock (token : List Byte) : Statement (.unlock token) :=
  fun _ h => nomatch h

theorem relock : Statement .relock :=
  fun _ h => nomatch h

theorem attest (nonce : List Byte) : Statement (.attest nonce) :=
  fun _ h => nomatch h

theorem pwrlim (watts : Nat) : Statement (.pwrlim watts) :=
  fun _ h => nomatch h

theorem life : Statement .life :=
  fun _ h => nomatch h

theorem powerManagerTick : Statement .powerManagerTick :=
  fun _ h => nomatch h

theorem powerCap : Statement .powerCap :=
  fun _ h => nomatch h

theorem powerCapLift : Statement .powerCapLift :=
  fun _ h => nomatch h

theorem routerPowerGate (router : BitVec 7) : Statement (.routerPowerGate router) :=
  fun _ h => nomatch h

theorem routerWake (router : BitVec 7) : Statement (.routerWake router) :=
  fun _ h => nomatch h

theorem clusterPowerOff (cluster : BitVec 7) : Statement (.clusterPowerOff cluster) :=
  fun _ h => nomatch h

theorem clusterPowerOn (cluster : BitVec 7) : Statement (.clusterPowerOn cluster) :=
  fun _ h => nomatch h

theorem packageSleep : Statement .packageSleep :=
  fun _ h => nomatch h

theorem packageWake : Statement .packageWake :=
  fun _ h => nomatch h

theorem lifetimeHoursWrite : Statement .lifetimeHoursWrite :=
  fun _ h => nomatch h

theorem lifetimeCounterWrite : Statement .lifetimeCounterWrite :=
  fun _ h => nomatch h

theorem illop (op : BitVec 8) : Statement (.illop op) :=
  Code.row_fits _ _ _ _ (by decide) (BitVec.isLt _) (by decide)

theorem eventQueueCommandStart : Statement .eventQueueCommandStart :=
  fun _ h => nomatch h

theorem eventQueueCommandComplete : Statement .eventQueueCommandComplete :=
  fun _ h => nomatch h

theorem allowanceReturn (port : BitVec 3) (cls : BitVec 3) : Statement (.allowanceReturn port cls) :=
  fun _ h => nomatch h

theorem hostAcknowledgement (id : Nat) (data : Word) : Statement (.hostAcknowledgement id data) :=
  fun _ h => nomatch h

theorem jobRestore : Statement .jobRestore :=
  fun _ h => nomatch h

theorem jobEnded : Statement .jobEnded :=
  fun _ h => nomatch h

theorem scrub (scratch : Bool) (ga : Word) (bits : Nat) : Statement (.scrub scratch ga bits) :=
  fun _ h => nomatch h

theorem poolRegionAssignment (port : BitVec 4) (base : Nat) (size : Nat) (owner : BitVec 18) : Statement (.poolRegionAssignment port base size owner) :=
  fun _ h => nomatch h

theorem bootFlashImageWrite (image : BitVec 2) (data : List Byte) : Statement (.bootFlashImageWrite image data) :=
  fun _ h => nomatch h

theorem ownershipRecord (record : List Byte) : Statement (.ownershipRecord record) :=
  fun _ h => nomatch h

theorem lossOfPower : Statement .lossOfPower :=
  fun _ h => nomatch h

end Laws.CodeFits

theorem Laws.CodeFits.seal (a : Field) (b : Field) (s : BitVec 4) : Laws.CodeFits.Statement (.seal a b s) :=
  Code.row_fits _ _ _ _ (by decide) (by decide) (by show _ < 2 ^ 32; simp only [put]; omega)

theorem Laws.CodeFits.unseal (a : Field) (b : Field) (s : BitVec 4) : Laws.CodeFits.Statement (.unseal a b s) :=
  Code.row_fits _ _ _ _ (by decide) (by decide) (by show _ < 2 ^ 32; simp only [put]; omega)

end Sys2Proof
end

