-- ==== Sys2Proof/Laws/State.lean ====
section
/-!
SUPPORT. What each update of the state leaves of its fields and what it makes of the one it changes, one lemma a field, so that no
proof has to look into an update.
-/

namespace Sys2Proof.Machine

/-! ### `putAt` -/

@[simp] theorem State.putAt_core (s : State) (i : Fin 11) (c : Ctx) : (s.putAt i c).core = s.core := rfl
@[simp] theorem State.putAt_pkg (s : State) (i : Fin 11) (c : Ctx) : (s.putAt i c).pkg = s.pkg := rfl
@[simp] theorem State.putAt_cur (s : State) (i : Fin 11) (c : Ctx) : (s.putAt i c).cur = s.cur := rfl
@[simp] theorem State.putAt_regs (s : State) (i : Fin 11) (c : Ctx) : (s.putAt i c).regs = s.regs := rfl
@[simp] theorem State.putAt_units (s : State) (i : Fin 11) (c : Ctx) : (s.putAt i c).units = s.units := rfl
@[simp] theorem State.putAt_mem (s : State) (i : Fin 11) (c : Ctx) : (s.putAt i c).mem = s.mem := rfl
@[simp] theorem State.putAt_spad (s : State) (i : Fin 11) (c : Ctx) : (s.putAt i c).spad = s.spad := rfl
@[simp] theorem State.putAt_sems (s : State) (i : Fin 11) (c : Ctx) : (s.putAt i c).sems = s.sems := rfl
@[simp] theorem State.putAt_chans (s : State) (i : Fin 11) (c : Ctx) : (s.putAt i c).chans = s.chans := rfl
@[simp] theorem State.putAt_away (s : State) (i : Fin 11) (c : Ctx) : (s.putAt i c).away = s.away := rfl
@[simp] theorem State.putAt_mx (s : State) (i : Fin 11) (c : Ctx) : (s.putAt i c).mx = s.mx := rfl
@[simp] theorem State.putAt_eng (s : State) (i : Fin 11) (c : Ctx) : (s.putAt i c).eng = s.eng := rfl
@[simp] theorem State.putAt_net (s : State) (i : Fin 11) (c : Ctx) : (s.putAt i c).net = s.net := rfl
@[simp] theorem State.putAt_seqNo (s : State) (i : Fin 11) (c : Ctx) : (s.putAt i c).seqNo = s.seqNo := rfl
@[simp] theorem State.putAt_tlb (s : State) (i : Fin 11) (c : Ctx) : (s.putAt i c).tlb = s.tlb := rfl
@[simp] theorem State.putAt_bars (s : State) (i : Fin 11) (c : Ctx) : (s.putAt i c).bars = s.bars := rfl
@[simp] theorem State.putAt_groups (s : State) (i : Fin 11) (c : Ctx) : (s.putAt i c).groups = s.groups := rfl
@[simp] theorem State.putAt_tasks (s : State) (i : Fin 11) (c : Ctx) : (s.putAt i c).tasks = s.tasks := rfl
@[simp] theorem State.putAt_queues (s : State) (i : Fin 11) (c : Ctx) : (s.putAt i c).queues = s.queues := rfl
@[simp] theorem State.putAt_drone (s : State) (i : Fin 11) (c : Ctx) : (s.putAt i c).drone = s.drone := rfl
@[simp] theorem State.putAt_migrations (s : State) (i : Fin 11) (c : Ctx) : (s.putAt i c).migrations = s.migrations := rfl
@[simp] theorem State.putAt_service (s : State) (i : Fin 11) (c : Ctx) : (s.putAt i c).service = s.service := rfl
@[simp] theorem State.putAt_launch (s : State) (i : Fin 11) (c : Ctx) : (s.putAt i c).launch = s.launch := rfl
@[simp] theorem State.putAt_dbg (s : State) (i : Fin 11) (c : Ctx) : (s.putAt i c).dbg = s.dbg := rfl
@[simp] theorem State.putAt_guard (s : State) (i : Fin 11) (c : Ctx) : (s.putAt i c).guard = s.guard := rfl
@[simp] theorem State.putAt_links (s : State) (i : Fin 11) (c : Ctx) : (s.putAt i c).links = s.links := rfl
@[simp] theorem State.putAt_sent (s : State) (i : Fin 11) (c : Ctx) : (s.putAt i c).sent = s.sent := rfl
@[simp] theorem State.putAt_toHost (s : State) (i : Fin 11) (c : Ctx) : (s.putAt i c).toHost = s.toHost := rfl
@[simp] theorem State.putAt_tick (s : State) (i : Fin 11) (c : Ctx) : (s.putAt i c).tick = s.tick := rfl
@[simp] theorem State.putAt_inbox (s : State) (i : Fin 11) (c : Ctx) : (s.putAt i c).inbox = s.inbox := rfl
@[simp] theorem State.putAt_lines (s : State) (i : Fin 11) (c : Ctx) : (s.putAt i c).lines = s.lines := rfl
@[simp] theorem State.putAt_replicas (s : State) (i : Fin 11) (c : Ctx) : (s.putAt i c).replicas = s.replicas := rfl
@[simp] theorem State.putAt_early (s : State) (i : Fin 11) (c : Ctx) : (s.putAt i c).early = s.early := rfl
@[simp] theorem State.putAt_strays (s : State) (i : Fin 11) (c : Ctx) : (s.putAt i c).strays = s.strays := rfl
@[simp] theorem State.putAt_rnrs (s : State) (i : Fin 11) (c : Ctx) : (s.putAt i c).rnrs = s.rnrs := rfl
@[simp] theorem State.putAt_evRnrs (s : State) (i : Fin 11) (c : Ctx) : (s.putAt i c).evRnrs = s.evRnrs := rfl
@[simp] theorem State.putAt_owed (s : State) (i : Fin 11) (c : Ctx) : (s.putAt i c).owed = s.owed := rfl
@[simp] theorem State.putAt_sectors (s : State) (i : Fin 11) (c : Ctx) : (s.putAt i c).sectors = s.sectors := rfl

/-! ### `put` -/

@[simp] theorem State.put_core (s : State) (c : Ctx) : (s.put c).core = s.core := rfl
@[simp] theorem State.put_pkg (s : State) (c : Ctx) : (s.put c).pkg = s.pkg := rfl
@[simp] theorem State.put_regs (s : State) (c : Ctx) : (s.put c).regs = s.regs := rfl
@[simp] theorem State.put_units (s : State) (c : Ctx) : (s.put c).units = s.units := rfl
@[simp] theorem State.put_mem (s : State) (c : Ctx) : (s.put c).mem = s.mem := rfl
@[simp] theorem State.put_spad (s : State) (c : Ctx) : (s.put c).spad = s.spad := rfl
@[simp] theorem State.put_sems (s : State) (c : Ctx) : (s.put c).sems = s.sems := rfl
@[simp] theorem State.put_chans (s : State) (c : Ctx) : (s.put c).chans = s.chans := rfl
@[simp] theorem State.put_away (s : State) (c : Ctx) : (s.put c).away = s.away := rfl
@[simp] theorem State.put_mx (s : State) (c : Ctx) : (s.put c).mx = s.mx := rfl
@[simp] theorem State.put_eng (s : State) (c : Ctx) : (s.put c).eng = s.eng := rfl
@[simp] theorem State.put_net (s : State) (c : Ctx) : (s.put c).net = s.net := rfl
@[simp] theorem State.put_seqNo (s : State) (c : Ctx) : (s.put c).seqNo = s.seqNo := rfl
@[simp] theorem State.put_tlb (s : State) (c : Ctx) : (s.put c).tlb = s.tlb := rfl
@[simp] theorem State.put_bars (s : State) (c : Ctx) : (s.put c).bars = s.bars := rfl
@[simp] theorem State.put_groups (s : State) (c : Ctx) : (s.put c).groups = s.groups := rfl
@[simp] theorem State.put_tasks (s : State) (c : Ctx) : (s.put c).tasks = s.tasks := rfl
@[simp] theorem State.put_queues (s : State) (c : Ctx) : (s.put c).queues = s.queues := rfl
@[simp] theorem State.put_drone (s : State) (c : Ctx) : (s.put c).drone = s.drone := rfl
@[simp] theorem State.put_migrations (s : State) (c : Ctx) : (s.put c).migrations = s.migrations := rfl
@[simp] theorem State.put_service (s : State) (c : Ctx) : (s.put c).service = s.service := rfl
@[simp] theorem State.put_launch (s : State) (c : Ctx) : (s.put c).launch = s.launch := rfl
@[simp] theorem State.put_dbg (s : State) (c : Ctx) : (s.put c).dbg = s.dbg := rfl
@[simp] theorem State.put_guard (s : State) (c : Ctx) : (s.put c).guard = s.guard := rfl
@[simp] theorem State.put_links (s : State) (c : Ctx) : (s.put c).links = s.links := rfl
@[simp] theorem State.put_sent (s : State) (c : Ctx) : (s.put c).sent = s.sent := rfl
@[simp] theorem State.put_toHost (s : State) (c : Ctx) : (s.put c).toHost = s.toHost := rfl
@[simp] theorem State.put_tick (s : State) (c : Ctx) : (s.put c).tick = s.tick := rfl
@[simp] theorem State.put_inbox (s : State) (c : Ctx) : (s.put c).inbox = s.inbox := rfl
@[simp] theorem State.put_lines (s : State) (c : Ctx) : (s.put c).lines = s.lines := rfl
@[simp] theorem State.put_replicas (s : State) (c : Ctx) : (s.put c).replicas = s.replicas := rfl
@[simp] theorem State.put_early (s : State) (c : Ctx) : (s.put c).early = s.early := rfl
@[simp] theorem State.put_strays (s : State) (c : Ctx) : (s.put c).strays = s.strays := rfl
@[simp] theorem State.put_rnrs (s : State) (c : Ctx) : (s.put c).rnrs = s.rnrs := rfl
@[simp] theorem State.put_evRnrs (s : State) (c : Ctx) : (s.put c).evRnrs = s.evRnrs := rfl
@[simp] theorem State.put_owed (s : State) (c : Ctx) : (s.put c).owed = s.owed := rfl
@[simp] theorem State.put_sectors (s : State) (c : Ctx) : (s.put c).sectors = s.sectors := rfl

/-! ### `modifyAt` -/

@[simp] theorem State.modifyAt_core (s : State) (i : Fin 11) (f : Ctx → Ctx) : (s.modifyAt i f).core = s.core := rfl
@[simp] theorem State.modifyAt_pkg (s : State) (i : Fin 11) (f : Ctx → Ctx) : (s.modifyAt i f).pkg = s.pkg := rfl
@[simp] theorem State.modifyAt_cur (s : State) (i : Fin 11) (f : Ctx → Ctx) : (s.modifyAt i f).cur = s.cur := rfl
@[simp] theorem State.modifyAt_regs (s : State) (i : Fin 11) (f : Ctx → Ctx) : (s.modifyAt i f).regs = s.regs := rfl
@[simp] theorem State.modifyAt_units (s : State) (i : Fin 11) (f : Ctx → Ctx) : (s.modifyAt i f).units = s.units := rfl
@[simp] theorem State.modifyAt_mem (s : State) (i : Fin 11) (f : Ctx → Ctx) : (s.modifyAt i f).mem = s.mem := rfl
@[simp] theorem State.modifyAt_spad (s : State) (i : Fin 11) (f : Ctx → Ctx) : (s.modifyAt i f).spad = s.spad := rfl
@[simp] theorem State.modifyAt_sems (s : State) (i : Fin 11) (f : Ctx → Ctx) : (s.modifyAt i f).sems = s.sems := rfl
@[simp] theorem State.modifyAt_chans (s : State) (i : Fin 11) (f : Ctx → Ctx) : (s.modifyAt i f).chans = s.chans := rfl
@[simp] theorem State.modifyAt_away (s : State) (i : Fin 11) (f : Ctx → Ctx) : (s.modifyAt i f).away = s.away := rfl
@[simp] theorem State.modifyAt_mx (s : State) (i : Fin 11) (f : Ctx → Ctx) : (s.modifyAt i f).mx = s.mx := rfl
@[simp] theorem State.modifyAt_eng (s : State) (i : Fin 11) (f : Ctx → Ctx) : (s.modifyAt i f).eng = s.eng := rfl
@[simp] theorem State.modifyAt_net (s : State) (i : Fin 11) (f : Ctx → Ctx) : (s.modifyAt i f).net = s.net := rfl
@[simp] theorem State.modifyAt_seqNo (s : State) (i : Fin 11) (f : Ctx → Ctx) : (s.modifyAt i f).seqNo = s.seqNo := rfl
@[simp] theorem State.modifyAt_tlb (s : State) (i : Fin 11) (f : Ctx → Ctx) : (s.modifyAt i f).tlb = s.tlb := rfl
@[simp] theorem State.modifyAt_bars (s : State) (i : Fin 11) (f : Ctx → Ctx) : (s.modifyAt i f).bars = s.bars := rfl
@[simp] theorem State.modifyAt_groups (s : State) (i : Fin 11) (f : Ctx → Ctx) : (s.modifyAt i f).groups = s.groups := rfl
@[simp] theorem State.modifyAt_tasks (s : State) (i : Fin 11) (f : Ctx → Ctx) : (s.modifyAt i f).tasks = s.tasks := rfl
@[simp] theorem State.modifyAt_queues (s : State) (i : Fin 11) (f : Ctx → Ctx) : (s.modifyAt i f).queues = s.queues := rfl
@[simp] theorem State.modifyAt_drone (s : State) (i : Fin 11) (f : Ctx → Ctx) : (s.modifyAt i f).drone = s.drone := rfl
@[simp] theorem State.modifyAt_migrations (s : State) (i : Fin 11) (f : Ctx → Ctx) : (s.modifyAt i f).migrations = s.migrations := rfl
@[simp] theorem State.modifyAt_service (s : State) (i : Fin 11) (f : Ctx → Ctx) : (s.modifyAt i f).service = s.service := rfl
@[simp] theorem State.modifyAt_launch (s : State) (i : Fin 11) (f : Ctx → Ctx) : (s.modifyAt i f).launch = s.launch := rfl
@[simp] theorem State.modifyAt_dbg (s : State) (i : Fin 11) (f : Ctx → Ctx) : (s.modifyAt i f).dbg = s.dbg := rfl
@[simp] theorem State.modifyAt_guard (s : State) (i : Fin 11) (f : Ctx → Ctx) : (s.modifyAt i f).guard = s.guard := rfl
@[simp] theorem State.modifyAt_links (s : State) (i : Fin 11) (f : Ctx → Ctx) : (s.modifyAt i f).links = s.links := rfl
@[simp] theorem State.modifyAt_sent (s : State) (i : Fin 11) (f : Ctx → Ctx) : (s.modifyAt i f).sent = s.sent := rfl
@[simp] theorem State.modifyAt_toHost (s : State) (i : Fin 11) (f : Ctx → Ctx) : (s.modifyAt i f).toHost = s.toHost := rfl
@[simp] theorem State.modifyAt_tick (s : State) (i : Fin 11) (f : Ctx → Ctx) : (s.modifyAt i f).tick = s.tick := rfl
@[simp] theorem State.modifyAt_inbox (s : State) (i : Fin 11) (f : Ctx → Ctx) : (s.modifyAt i f).inbox = s.inbox := rfl
@[simp] theorem State.modifyAt_lines (s : State) (i : Fin 11) (f : Ctx → Ctx) : (s.modifyAt i f).lines = s.lines := rfl
@[simp] theorem State.modifyAt_replicas (s : State) (i : Fin 11) (f : Ctx → Ctx) : (s.modifyAt i f).replicas = s.replicas := rfl
@[simp] theorem State.modifyAt_early (s : State) (i : Fin 11) (f : Ctx → Ctx) : (s.modifyAt i f).early = s.early := rfl
@[simp] theorem State.modifyAt_strays (s : State) (i : Fin 11) (f : Ctx → Ctx) : (s.modifyAt i f).strays = s.strays := rfl
@[simp] theorem State.modifyAt_rnrs (s : State) (i : Fin 11) (f : Ctx → Ctx) : (s.modifyAt i f).rnrs = s.rnrs := rfl
@[simp] theorem State.modifyAt_evRnrs (s : State) (i : Fin 11) (f : Ctx → Ctx) : (s.modifyAt i f).evRnrs = s.evRnrs := rfl
@[simp] theorem State.modifyAt_owed (s : State) (i : Fin 11) (f : Ctx → Ctx) : (s.modifyAt i f).owed = s.owed := rfl
@[simp] theorem State.modifyAt_sectors (s : State) (i : Fin 11) (f : Ctx → Ctx) : (s.modifyAt i f).sectors = s.sectors := rfl

/-! ### `withRegs` -/

@[simp] theorem State.withRegs_core (s : State) (f : CoreRegs → CoreRegs) : (s.withRegs f).core = s.core := rfl
@[simp] theorem State.withRegs_pkg (s : State) (f : CoreRegs → CoreRegs) : (s.withRegs f).pkg = s.pkg := rfl
@[simp] theorem State.withRegs_cur (s : State) (f : CoreRegs → CoreRegs) : (s.withRegs f).cur = s.cur := rfl
@[simp] theorem State.withRegs_ctxs (s : State) (f : CoreRegs → CoreRegs) : (s.withRegs f).ctxs = s.ctxs := rfl
@[simp] theorem State.withRegs_units (s : State) (f : CoreRegs → CoreRegs) : (s.withRegs f).units = s.units := rfl
@[simp] theorem State.withRegs_mem (s : State) (f : CoreRegs → CoreRegs) : (s.withRegs f).mem = s.mem := rfl
@[simp] theorem State.withRegs_spad (s : State) (f : CoreRegs → CoreRegs) : (s.withRegs f).spad = s.spad := rfl
@[simp] theorem State.withRegs_sems (s : State) (f : CoreRegs → CoreRegs) : (s.withRegs f).sems = s.sems := rfl
@[simp] theorem State.withRegs_chans (s : State) (f : CoreRegs → CoreRegs) : (s.withRegs f).chans = s.chans := rfl
@[simp] theorem State.withRegs_away (s : State) (f : CoreRegs → CoreRegs) : (s.withRegs f).away = s.away := rfl
@[simp] theorem State.withRegs_mx (s : State) (f : CoreRegs → CoreRegs) : (s.withRegs f).mx = s.mx := rfl
@[simp] theorem State.withRegs_eng (s : State) (f : CoreRegs → CoreRegs) : (s.withRegs f).eng = s.eng := rfl
@[simp] theorem State.withRegs_net (s : State) (f : CoreRegs → CoreRegs) : (s.withRegs f).net = s.net := rfl
@[simp] theorem State.withRegs_seqNo (s : State) (f : CoreRegs → CoreRegs) : (s.withRegs f).seqNo = s.seqNo := rfl
@[simp] theorem State.withRegs_tlb (s : State) (f : CoreRegs → CoreRegs) : (s.withRegs f).tlb = s.tlb := rfl
@[simp] theorem State.withRegs_bars (s : State) (f : CoreRegs → CoreRegs) : (s.withRegs f).bars = s.bars := rfl
@[simp] theorem State.withRegs_groups (s : State) (f : CoreRegs → CoreRegs) : (s.withRegs f).groups = s.groups := rfl
@[simp] theorem State.withRegs_tasks (s : State) (f : CoreRegs → CoreRegs) : (s.withRegs f).tasks = s.tasks := rfl
@[simp] theorem State.withRegs_queues (s : State) (f : CoreRegs → CoreRegs) : (s.withRegs f).queues = s.queues := rfl
@[simp] theorem State.withRegs_drone (s : State) (f : CoreRegs → CoreRegs) : (s.withRegs f).drone = s.drone := rfl
@[simp] theorem State.withRegs_migrations (s : State) (f : CoreRegs → CoreRegs) : (s.withRegs f).migrations = s.migrations := rfl
@[simp] theorem State.withRegs_service (s : State) (f : CoreRegs → CoreRegs) : (s.withRegs f).service = s.service := rfl
@[simp] theorem State.withRegs_launch (s : State) (f : CoreRegs → CoreRegs) : (s.withRegs f).launch = s.launch := rfl
@[simp] theorem State.withRegs_dbg (s : State) (f : CoreRegs → CoreRegs) : (s.withRegs f).dbg = s.dbg := rfl
@[simp] theorem State.withRegs_guard (s : State) (f : CoreRegs → CoreRegs) : (s.withRegs f).guard = s.guard := rfl
@[simp] theorem State.withRegs_links (s : State) (f : CoreRegs → CoreRegs) : (s.withRegs f).links = s.links := rfl
@[simp] theorem State.withRegs_sent (s : State) (f : CoreRegs → CoreRegs) : (s.withRegs f).sent = s.sent := rfl
@[simp] theorem State.withRegs_toHost (s : State) (f : CoreRegs → CoreRegs) : (s.withRegs f).toHost = s.toHost := rfl
@[simp] theorem State.withRegs_tick (s : State) (f : CoreRegs → CoreRegs) : (s.withRegs f).tick = s.tick := rfl
@[simp] theorem State.withRegs_inbox (s : State) (f : CoreRegs → CoreRegs) : (s.withRegs f).inbox = s.inbox := rfl
@[simp] theorem State.withRegs_lines (s : State) (f : CoreRegs → CoreRegs) : (s.withRegs f).lines = s.lines := rfl
@[simp] theorem State.withRegs_replicas (s : State) (f : CoreRegs → CoreRegs) : (s.withRegs f).replicas = s.replicas := rfl
@[simp] theorem State.withRegs_early (s : State) (f : CoreRegs → CoreRegs) : (s.withRegs f).early = s.early := rfl
@[simp] theorem State.withRegs_strays (s : State) (f : CoreRegs → CoreRegs) : (s.withRegs f).strays = s.strays := rfl
@[simp] theorem State.withRegs_rnrs (s : State) (f : CoreRegs → CoreRegs) : (s.withRegs f).rnrs = s.rnrs := rfl
@[simp] theorem State.withRegs_evRnrs (s : State) (f : CoreRegs → CoreRegs) : (s.withRegs f).evRnrs = s.evRnrs := rfl
@[simp] theorem State.withRegs_owed (s : State) (f : CoreRegs → CoreRegs) : (s.withRegs f).owed = s.owed := rfl
@[simp] theorem State.withRegs_sectors (s : State) (f : CoreRegs → CoreRegs) : (s.withRegs f).sectors = s.sectors := rfl

/-! ### `withEng` -/

@[simp] theorem State.withEng_core (s : State) (f : Engines → Engines) : (s.withEng f).core = s.core := rfl
@[simp] theorem State.withEng_pkg (s : State) (f : Engines → Engines) : (s.withEng f).pkg = s.pkg := rfl
@[simp] theorem State.withEng_cur (s : State) (f : Engines → Engines) : (s.withEng f).cur = s.cur := rfl
@[simp] theorem State.withEng_ctxs (s : State) (f : Engines → Engines) : (s.withEng f).ctxs = s.ctxs := rfl
@[simp] theorem State.withEng_regs (s : State) (f : Engines → Engines) : (s.withEng f).regs = s.regs := rfl
@[simp] theorem State.withEng_units (s : State) (f : Engines → Engines) : (s.withEng f).units = s.units := rfl
@[simp] theorem State.withEng_mem (s : State) (f : Engines → Engines) : (s.withEng f).mem = s.mem := rfl
@[simp] theorem State.withEng_spad (s : State) (f : Engines → Engines) : (s.withEng f).spad = s.spad := rfl
@[simp] theorem State.withEng_sems (s : State) (f : Engines → Engines) : (s.withEng f).sems = s.sems := rfl
@[simp] theorem State.withEng_chans (s : State) (f : Engines → Engines) : (s.withEng f).chans = s.chans := rfl
@[simp] theorem State.withEng_away (s : State) (f : Engines → Engines) : (s.withEng f).away = s.away := rfl
@[simp] theorem State.withEng_mx (s : State) (f : Engines → Engines) : (s.withEng f).mx = s.mx := rfl
@[simp] theorem State.withEng_net (s : State) (f : Engines → Engines) : (s.withEng f).net = s.net := rfl
@[simp] theorem State.withEng_seqNo (s : State) (f : Engines → Engines) : (s.withEng f).seqNo = s.seqNo := rfl
@[simp] theorem State.withEng_tlb (s : State) (f : Engines → Engines) : (s.withEng f).tlb = s.tlb := rfl
@[simp] theorem State.withEng_bars (s : State) (f : Engines → Engines) : (s.withEng f).bars = s.bars := rfl
@[simp] theorem State.withEng_groups (s : State) (f : Engines → Engines) : (s.withEng f).groups = s.groups := rfl
@[simp] theorem State.withEng_tasks (s : State) (f : Engines → Engines) : (s.withEng f).tasks = s.tasks := rfl
@[simp] theorem State.withEng_queues (s : State) (f : Engines → Engines) : (s.withEng f).queues = s.queues := rfl
@[simp] theorem State.withEng_drone (s : State) (f : Engines → Engines) : (s.withEng f).drone = s.drone := rfl
@[simp] theorem State.withEng_migrations (s : State) (f : Engines → Engines) : (s.withEng f).migrations = s.migrations := rfl
@[simp] theorem State.withEng_service (s : State) (f : Engines → Engines) : (s.withEng f).service = s.service := rfl
@[simp] theorem State.withEng_launch (s : State) (f : Engines → Engines) : (s.withEng f).launch = s.launch := rfl
@[simp] theorem State.withEng_dbg (s : State) (f : Engines → Engines) : (s.withEng f).dbg = s.dbg := rfl
@[simp] theorem State.withEng_guard (s : State) (f : Engines → Engines) : (s.withEng f).guard = s.guard := rfl
@[simp] theorem State.withEng_links (s : State) (f : Engines → Engines) : (s.withEng f).links = s.links := rfl
@[simp] theorem State.withEng_sent (s : State) (f : Engines → Engines) : (s.withEng f).sent = s.sent := rfl
@[simp] theorem State.withEng_toHost (s : State) (f : Engines → Engines) : (s.withEng f).toHost = s.toHost := rfl
@[simp] theorem State.withEng_tick (s : State) (f : Engines → Engines) : (s.withEng f).tick = s.tick := rfl
@[simp] theorem State.withEng_inbox (s : State) (f : Engines → Engines) : (s.withEng f).inbox = s.inbox := rfl
@[simp] theorem State.withEng_lines (s : State) (f : Engines → Engines) : (s.withEng f).lines = s.lines := rfl
@[simp] theorem State.withEng_replicas (s : State) (f : Engines → Engines) : (s.withEng f).replicas = s.replicas := rfl
@[simp] theorem State.withEng_early (s : State) (f : Engines → Engines) : (s.withEng f).early = s.early := rfl
@[simp] theorem State.withEng_strays (s : State) (f : Engines → Engines) : (s.withEng f).strays = s.strays := rfl
@[simp] theorem State.withEng_rnrs (s : State) (f : Engines → Engines) : (s.withEng f).rnrs = s.rnrs := rfl
@[simp] theorem State.withEng_evRnrs (s : State) (f : Engines → Engines) : (s.withEng f).evRnrs = s.evRnrs := rfl
@[simp] theorem State.withEng_owed (s : State) (f : Engines → Engines) : (s.withEng f).owed = s.owed := rfl
@[simp] theorem State.withEng_sectors (s : State) (f : Engines → Engines) : (s.withEng f).sectors = s.sectors := rfl

/-! ### `withMx` -/

@[simp] theorem State.withMx_core (s : State) (f : Matrix → Matrix) : (s.withMx f).core = s.core := rfl
@[simp] theorem State.withMx_pkg (s : State) (f : Matrix → Matrix) : (s.withMx f).pkg = s.pkg := rfl
@[simp] theorem State.withMx_cur (s : State) (f : Matrix → Matrix) : (s.withMx f).cur = s.cur := rfl
@[simp] theorem State.withMx_ctxs (s : State) (f : Matrix → Matrix) : (s.withMx f).ctxs = s.ctxs := rfl
@[simp] theorem State.withMx_regs (s : State) (f : Matrix → Matrix) : (s.withMx f).regs = s.regs := rfl
@[simp] theorem State.withMx_units (s : State) (f : Matrix → Matrix) : (s.withMx f).units = s.units := rfl
@[simp] theorem State.withMx_mem (s : State) (f : Matrix → Matrix) : (s.withMx f).mem = s.mem := rfl
@[simp] theorem State.withMx_spad (s : State) (f : Matrix → Matrix) : (s.withMx f).spad = s.spad := rfl
@[simp] theorem State.withMx_sems (s : State) (f : Matrix → Matrix) : (s.withMx f).sems = s.sems := rfl
@[simp] theorem State.withMx_chans (s : State) (f : Matrix → Matrix) : (s.withMx f).chans = s.chans := rfl
@[simp] theorem State.withMx_away (s : State) (f : Matrix → Matrix) : (s.withMx f).away = s.away := rfl
@[simp] theorem State.withMx_eng (s : State) (f : Matrix → Matrix) : (s.withMx f).eng = s.eng := rfl
@[simp] theorem State.withMx_net (s : State) (f : Matrix → Matrix) : (s.withMx f).net = s.net := rfl
@[simp] theorem State.withMx_seqNo (s : State) (f : Matrix → Matrix) : (s.withMx f).seqNo = s.seqNo := rfl
@[simp] theorem State.withMx_tlb (s : State) (f : Matrix → Matrix) : (s.withMx f).tlb = s.tlb := rfl
@[simp] theorem State.withMx_bars (s : State) (f : Matrix → Matrix) : (s.withMx f).bars = s.bars := rfl
@[simp] theorem State.withMx_groups (s : State) (f : Matrix → Matrix) : (s.withMx f).groups = s.groups := rfl
@[simp] theorem State.withMx_tasks (s : State) (f : Matrix → Matrix) : (s.withMx f).tasks = s.tasks := rfl
@[simp] theorem State.withMx_queues (s : State) (f : Matrix → Matrix) : (s.withMx f).queues = s.queues := rfl
@[simp] theorem State.withMx_drone (s : State) (f : Matrix → Matrix) : (s.withMx f).drone = s.drone := rfl
@[simp] theorem State.withMx_migrations (s : State) (f : Matrix → Matrix) : (s.withMx f).migrations = s.migrations := rfl
@[simp] theorem State.withMx_service (s : State) (f : Matrix → Matrix) : (s.withMx f).service = s.service := rfl
@[simp] theorem State.withMx_launch (s : State) (f : Matrix → Matrix) : (s.withMx f).launch = s.launch := rfl
@[simp] theorem State.withMx_dbg (s : State) (f : Matrix → Matrix) : (s.withMx f).dbg = s.dbg := rfl
@[simp] theorem State.withMx_guard (s : State) (f : Matrix → Matrix) : (s.withMx f).guard = s.guard := rfl
@[simp] theorem State.withMx_links (s : State) (f : Matrix → Matrix) : (s.withMx f).links = s.links := rfl
@[simp] theorem State.withMx_sent (s : State) (f : Matrix → Matrix) : (s.withMx f).sent = s.sent := rfl
@[simp] theorem State.withMx_toHost (s : State) (f : Matrix → Matrix) : (s.withMx f).toHost = s.toHost := rfl
@[simp] theorem State.withMx_tick (s : State) (f : Matrix → Matrix) : (s.withMx f).tick = s.tick := rfl
@[simp] theorem State.withMx_inbox (s : State) (f : Matrix → Matrix) : (s.withMx f).inbox = s.inbox := rfl
@[simp] theorem State.withMx_lines (s : State) (f : Matrix → Matrix) : (s.withMx f).lines = s.lines := rfl
@[simp] theorem State.withMx_replicas (s : State) (f : Matrix → Matrix) : (s.withMx f).replicas = s.replicas := rfl
@[simp] theorem State.withMx_early (s : State) (f : Matrix → Matrix) : (s.withMx f).early = s.early := rfl
@[simp] theorem State.withMx_strays (s : State) (f : Matrix → Matrix) : (s.withMx f).strays = s.strays := rfl
@[simp] theorem State.withMx_rnrs (s : State) (f : Matrix → Matrix) : (s.withMx f).rnrs = s.rnrs := rfl
@[simp] theorem State.withMx_evRnrs (s : State) (f : Matrix → Matrix) : (s.withMx f).evRnrs = s.evRnrs := rfl
@[simp] theorem State.withMx_owed (s : State) (f : Matrix → Matrix) : (s.withMx f).owed = s.owed := rfl
@[simp] theorem State.withMx_sectors (s : State) (f : Matrix → Matrix) : (s.withMx f).sectors = s.sectors := rfl

/-! ### `withDrone` -/

@[simp] theorem State.withDrone_core (s : State) (f : Drone → Drone) : (s.withDrone f).core = s.core := rfl
@[simp] theorem State.withDrone_pkg (s : State) (f : Drone → Drone) : (s.withDrone f).pkg = s.pkg := rfl
@[simp] theorem State.withDrone_cur (s : State) (f : Drone → Drone) : (s.withDrone f).cur = s.cur := rfl
@[simp] theorem State.withDrone_ctxs (s : State) (f : Drone → Drone) : (s.withDrone f).ctxs = s.ctxs := rfl
@[simp] theorem State.withDrone_regs (s : State) (f : Drone → Drone) : (s.withDrone f).regs = s.regs := rfl
@[simp] theorem State.withDrone_units (s : State) (f : Drone → Drone) : (s.withDrone f).units = s.units := rfl
@[simp] theorem State.withDrone_mem (s : State) (f : Drone → Drone) : (s.withDrone f).mem = s.mem := rfl
@[simp] theorem State.withDrone_spad (s : State) (f : Drone → Drone) : (s.withDrone f).spad = s.spad := rfl
@[simp] theorem State.withDrone_sems (s : State) (f : Drone → Drone) : (s.withDrone f).sems = s.sems := rfl
@[simp] theorem State.withDrone_chans (s : State) (f : Drone → Drone) : (s.withDrone f).chans = s.chans := rfl
@[simp] theorem State.withDrone_away (s : State) (f : Drone → Drone) : (s.withDrone f).away = s.away := rfl
@[simp] theorem State.withDrone_mx (s : State) (f : Drone → Drone) : (s.withDrone f).mx = s.mx := rfl
@[simp] theorem State.withDrone_eng (s : State) (f : Drone → Drone) : (s.withDrone f).eng = s.eng := rfl
@[simp] theorem State.withDrone_net (s : State) (f : Drone → Drone) : (s.withDrone f).net = s.net := rfl
@[simp] theorem State.withDrone_seqNo (s : State) (f : Drone → Drone) : (s.withDrone f).seqNo = s.seqNo := rfl
@[simp] theorem State.withDrone_tlb (s : State) (f : Drone → Drone) : (s.withDrone f).tlb = s.tlb := rfl
@[simp] theorem State.withDrone_bars (s : State) (f : Drone → Drone) : (s.withDrone f).bars = s.bars := rfl
@[simp] theorem State.withDrone_groups (s : State) (f : Drone → Drone) : (s.withDrone f).groups = s.groups := rfl
@[simp] theorem State.withDrone_tasks (s : State) (f : Drone → Drone) : (s.withDrone f).tasks = s.tasks := rfl
@[simp] theorem State.withDrone_queues (s : State) (f : Drone → Drone) : (s.withDrone f).queues = s.queues := rfl
@[simp] theorem State.withDrone_migrations (s : State) (f : Drone → Drone) : (s.withDrone f).migrations = s.migrations := rfl
@[simp] theorem State.withDrone_service (s : State) (f : Drone → Drone) : (s.withDrone f).service = s.service := rfl
@[simp] theorem State.withDrone_launch (s : State) (f : Drone → Drone) : (s.withDrone f).launch = s.launch := rfl
@[simp] theorem State.withDrone_dbg (s : State) (f : Drone → Drone) : (s.withDrone f).dbg = s.dbg := rfl
@[simp] theorem State.withDrone_guard (s : State) (f : Drone → Drone) : (s.withDrone f).guard = s.guard := rfl
@[simp] theorem State.withDrone_links (s : State) (f : Drone → Drone) : (s.withDrone f).links = s.links := rfl
@[simp] theorem State.withDrone_sent (s : State) (f : Drone → Drone) : (s.withDrone f).sent = s.sent := rfl
@[simp] theorem State.withDrone_toHost (s : State) (f : Drone → Drone) : (s.withDrone f).toHost = s.toHost := rfl
@[simp] theorem State.withDrone_tick (s : State) (f : Drone → Drone) : (s.withDrone f).tick = s.tick := rfl
@[simp] theorem State.withDrone_inbox (s : State) (f : Drone → Drone) : (s.withDrone f).inbox = s.inbox := rfl
@[simp] theorem State.withDrone_lines (s : State) (f : Drone → Drone) : (s.withDrone f).lines = s.lines := rfl
@[simp] theorem State.withDrone_replicas (s : State) (f : Drone → Drone) : (s.withDrone f).replicas = s.replicas := rfl
@[simp] theorem State.withDrone_early (s : State) (f : Drone → Drone) : (s.withDrone f).early = s.early := rfl
@[simp] theorem State.withDrone_strays (s : State) (f : Drone → Drone) : (s.withDrone f).strays = s.strays := rfl
@[simp] theorem State.withDrone_rnrs (s : State) (f : Drone → Drone) : (s.withDrone f).rnrs = s.rnrs := rfl
@[simp] theorem State.withDrone_evRnrs (s : State) (f : Drone → Drone) : (s.withDrone f).evRnrs = s.evRnrs := rfl
@[simp] theorem State.withDrone_owed (s : State) (f : Drone → Drone) : (s.withDrone f).owed = s.owed := rfl
@[simp] theorem State.withDrone_sectors (s : State) (f : Drone → Drone) : (s.withDrone f).sectors = s.sectors := rfl

/-! ### `putSem` -/

@[simp] theorem State.putSem_core (s : State) (n v : Nat) : (s.putSem n v).core = s.core := rfl
@[simp] theorem State.putSem_pkg (s : State) (n v : Nat) : (s.putSem n v).pkg = s.pkg := rfl
@[simp] theorem State.putSem_cur (s : State) (n v : Nat) : (s.putSem n v).cur = s.cur := rfl
@[simp] theorem State.putSem_ctxs (s : State) (n v : Nat) : (s.putSem n v).ctxs = s.ctxs := rfl
@[simp] theorem State.putSem_regs (s : State) (n v : Nat) : (s.putSem n v).regs = s.regs := rfl
@[simp] theorem State.putSem_units (s : State) (n v : Nat) : (s.putSem n v).units = s.units := rfl
@[simp] theorem State.putSem_mem (s : State) (n v : Nat) : (s.putSem n v).mem = s.mem := rfl
@[simp] theorem State.putSem_spad (s : State) (n v : Nat) : (s.putSem n v).spad = s.spad := rfl
@[simp] theorem State.putSem_chans (s : State) (n v : Nat) : (s.putSem n v).chans = s.chans := rfl
@[simp] theorem State.putSem_away (s : State) (n v : Nat) : (s.putSem n v).away = s.away := rfl
@[simp] theorem State.putSem_mx (s : State) (n v : Nat) : (s.putSem n v).mx = s.mx := rfl
@[simp] theorem State.putSem_eng (s : State) (n v : Nat) : (s.putSem n v).eng = s.eng := rfl
@[simp] theorem State.putSem_net (s : State) (n v : Nat) : (s.putSem n v).net = s.net := rfl
@[simp] theorem State.putSem_seqNo (s : State) (n v : Nat) : (s.putSem n v).seqNo = s.seqNo := rfl
@[simp] theorem State.putSem_tlb (s : State) (n v : Nat) : (s.putSem n v).tlb = s.tlb := rfl
@[simp] theorem State.putSem_bars (s : State) (n v : Nat) : (s.putSem n v).bars = s.bars := rfl
@[simp] theorem State.putSem_groups (s : State) (n v : Nat) : (s.putSem n v).groups = s.groups := rfl
@[simp] theorem State.putSem_tasks (s : State) (n v : Nat) : (s.putSem n v).tasks = s.tasks := rfl
@[simp] theorem State.putSem_queues (s : State) (n v : Nat) : (s.putSem n v).queues = s.queues := rfl
@[simp] theorem State.putSem_drone (s : State) (n v : Nat) : (s.putSem n v).drone = s.drone := rfl
@[simp] theorem State.putSem_migrations (s : State) (n v : Nat) : (s.putSem n v).migrations = s.migrations := rfl
@[simp] theorem State.putSem_service (s : State) (n v : Nat) : (s.putSem n v).service = s.service := rfl
@[simp] theorem State.putSem_launch (s : State) (n v : Nat) : (s.putSem n v).launch = s.launch := rfl
@[simp] theorem State.putSem_dbg (s : State) (n v : Nat) : (s.putSem n v).dbg = s.dbg := rfl
@[simp] theorem State.putSem_guard (s : State) (n v : Nat) : (s.putSem n v).guard = s.guard := rfl
@[simp] theorem State.putSem_links (s : State) (n v : Nat) : (s.putSem n v).links = s.links := rfl
@[simp] theorem State.putSem_sent (s : State) (n v : Nat) : (s.putSem n v).sent = s.sent := rfl
@[simp] theorem State.putSem_toHost (s : State) (n v : Nat) : (s.putSem n v).toHost = s.toHost := rfl
@[simp] theorem State.putSem_tick (s : State) (n v : Nat) : (s.putSem n v).tick = s.tick := rfl
@[simp] theorem State.putSem_inbox (s : State) (n v : Nat) : (s.putSem n v).inbox = s.inbox := rfl
@[simp] theorem State.putSem_lines (s : State) (n v : Nat) : (s.putSem n v).lines = s.lines := rfl
@[simp] theorem State.putSem_replicas (s : State) (n v : Nat) : (s.putSem n v).replicas = s.replicas := rfl
@[simp] theorem State.putSem_early (s : State) (n v : Nat) : (s.putSem n v).early = s.early := rfl
@[simp] theorem State.putSem_strays (s : State) (n v : Nat) : (s.putSem n v).strays = s.strays := rfl
@[simp] theorem State.putSem_rnrs (s : State) (n v : Nat) : (s.putSem n v).rnrs = s.rnrs := rfl
@[simp] theorem State.putSem_evRnrs (s : State) (n v : Nat) : (s.putSem n v).evRnrs = s.evRnrs := rfl
@[simp] theorem State.putSem_owed (s : State) (n v : Nat) : (s.putSem n v).owed = s.owed := rfl
@[simp] theorem State.putSem_sectors (s : State) (n v : Nat) : (s.putSem n v).sectors = s.sectors := rfl

/-! ### `setNow` -/

@[simp] theorem State.setNow_core (s : State) (t : Nat) : (s.setNow t).core = s.core := rfl
@[simp] theorem State.setNow_pkg (s : State) (t : Nat) : (s.setNow t).pkg = s.pkg := rfl
@[simp] theorem State.setNow_cur (s : State) (t : Nat) : (s.setNow t).cur = s.cur := rfl
@[simp] theorem State.setNow_ctxs (s : State) (t : Nat) : (s.setNow t).ctxs = s.ctxs := rfl
@[simp] theorem State.setNow_units (s : State) (t : Nat) : (s.setNow t).units = s.units := rfl
@[simp] theorem State.setNow_mem (s : State) (t : Nat) : (s.setNow t).mem = s.mem := rfl
@[simp] theorem State.setNow_spad (s : State) (t : Nat) : (s.setNow t).spad = s.spad := rfl
@[simp] theorem State.setNow_sems (s : State) (t : Nat) : (s.setNow t).sems = s.sems := rfl
@[simp] theorem State.setNow_chans (s : State) (t : Nat) : (s.setNow t).chans = s.chans := rfl
@[simp] theorem State.setNow_away (s : State) (t : Nat) : (s.setNow t).away = s.away := rfl
@[simp] theorem State.setNow_mx (s : State) (t : Nat) : (s.setNow t).mx = s.mx := rfl
@[simp] theorem State.setNow_eng (s : State) (t : Nat) : (s.setNow t).eng = s.eng := rfl
@[simp] theorem State.setNow_net (s : State) (t : Nat) : (s.setNow t).net = s.net := rfl
@[simp] theorem State.setNow_seqNo (s : State) (t : Nat) : (s.setNow t).seqNo = s.seqNo := rfl
@[simp] theorem State.setNow_tlb (s : State) (t : Nat) : (s.setNow t).tlb = s.tlb := rfl
@[simp] theorem State.setNow_bars (s : State) (t : Nat) : (s.setNow t).bars = s.bars := rfl
@[simp] theorem State.setNow_groups (s : State) (t : Nat) : (s.setNow t).groups = s.groups := rfl
@[simp] theorem State.setNow_tasks (s : State) (t : Nat) : (s.setNow t).tasks = s.tasks := rfl
@[simp] theorem State.setNow_queues (s : State) (t : Nat) : (s.setNow t).queues = s.queues := rfl
@[simp] theorem State.setNow_drone (s : State) (t : Nat) : (s.setNow t).drone = s.drone := rfl
@[simp] theorem State.setNow_migrations (s : State) (t : Nat) : (s.setNow t).migrations = s.migrations := rfl
@[simp] theorem State.setNow_service (s : State) (t : Nat) : (s.setNow t).service = s.service := rfl
@[simp] theorem State.setNow_launch (s : State) (t : Nat) : (s.setNow t).launch = s.launch := rfl
@[simp] theorem State.setNow_dbg (s : State) (t : Nat) : (s.setNow t).dbg = s.dbg := rfl
@[simp] theorem State.setNow_guard (s : State) (t : Nat) : (s.setNow t).guard = s.guard := rfl
@[simp] theorem State.setNow_links (s : State) (t : Nat) : (s.setNow t).links = s.links := rfl
@[simp] theorem State.setNow_sent (s : State) (t : Nat) : (s.setNow t).sent = s.sent := rfl
@[simp] theorem State.setNow_toHost (s : State) (t : Nat) : (s.setNow t).toHost = s.toHost := rfl
@[simp] theorem State.setNow_tick (s : State) (t : Nat) : (s.setNow t).tick = s.tick := rfl
@[simp] theorem State.setNow_inbox (s : State) (t : Nat) : (s.setNow t).inbox = s.inbox := rfl
@[simp] theorem State.setNow_lines (s : State) (t : Nat) : (s.setNow t).lines = s.lines := rfl
@[simp] theorem State.setNow_replicas (s : State) (t : Nat) : (s.setNow t).replicas = s.replicas := rfl
@[simp] theorem State.setNow_early (s : State) (t : Nat) : (s.setNow t).early = s.early := rfl
@[simp] theorem State.setNow_strays (s : State) (t : Nat) : (s.setNow t).strays = s.strays := rfl
@[simp] theorem State.setNow_rnrs (s : State) (t : Nat) : (s.setNow t).rnrs = s.rnrs := rfl
@[simp] theorem State.setNow_evRnrs (s : State) (t : Nat) : (s.setNow t).evRnrs = s.evRnrs := rfl
@[simp] theorem State.setNow_owed (s : State) (t : Nat) : (s.setNow t).owed = s.owed := rfl
@[simp] theorem State.setNow_sectors (s : State) (t : Nat) : (s.setNow t).sectors = s.sectors := rfl

/-! ### `setHold` -/

@[simp] theorem State.setHold_core (s : State) (b : Bool) : (s.setHold b).core = s.core := rfl
@[simp] theorem State.setHold_pkg (s : State) (b : Bool) : (s.setHold b).pkg = s.pkg := rfl
@[simp] theorem State.setHold_cur (s : State) (b : Bool) : (s.setHold b).cur = s.cur := rfl
@[simp] theorem State.setHold_ctxs (s : State) (b : Bool) : (s.setHold b).ctxs = s.ctxs := rfl
@[simp] theorem State.setHold_units (s : State) (b : Bool) : (s.setHold b).units = s.units := rfl
@[simp] theorem State.setHold_mem (s : State) (b : Bool) : (s.setHold b).mem = s.mem := rfl
@[simp] theorem State.setHold_spad (s : State) (b : Bool) : (s.setHold b).spad = s.spad := rfl
@[simp] theorem State.setHold_sems (s : State) (b : Bool) : (s.setHold b).sems = s.sems := rfl
@[simp] theorem State.setHold_chans (s : State) (b : Bool) : (s.setHold b).chans = s.chans := rfl
@[simp] theorem State.setHold_away (s : State) (b : Bool) : (s.setHold b).away = s.away := rfl
@[simp] theorem State.setHold_mx (s : State) (b : Bool) : (s.setHold b).mx = s.mx := rfl
@[simp] theorem State.setHold_eng (s : State) (b : Bool) : (s.setHold b).eng = s.eng := rfl
@[simp] theorem State.setHold_net (s : State) (b : Bool) : (s.setHold b).net = s.net := rfl
@[simp] theorem State.setHold_seqNo (s : State) (b : Bool) : (s.setHold b).seqNo = s.seqNo := rfl
@[simp] theorem State.setHold_tlb (s : State) (b : Bool) : (s.setHold b).tlb = s.tlb := rfl
@[simp] theorem State.setHold_bars (s : State) (b : Bool) : (s.setHold b).bars = s.bars := rfl
@[simp] theorem State.setHold_groups (s : State) (b : Bool) : (s.setHold b).groups = s.groups := rfl
@[simp] theorem State.setHold_tasks (s : State) (b : Bool) : (s.setHold b).tasks = s.tasks := rfl
@[simp] theorem State.setHold_queues (s : State) (b : Bool) : (s.setHold b).queues = s.queues := rfl
@[simp] theorem State.setHold_drone (s : State) (b : Bool) : (s.setHold b).drone = s.drone := rfl
@[simp] theorem State.setHold_migrations (s : State) (b : Bool) : (s.setHold b).migrations = s.migrations := rfl
@[simp] theorem State.setHold_service (s : State) (b : Bool) : (s.setHold b).service = s.service := rfl
@[simp] theorem State.setHold_launch (s : State) (b : Bool) : (s.setHold b).launch = s.launch := rfl
@[simp] theorem State.setHold_dbg (s : State) (b : Bool) : (s.setHold b).dbg = s.dbg := rfl
@[simp] theorem State.setHold_guard (s : State) (b : Bool) : (s.setHold b).guard = s.guard := rfl
@[simp] theorem State.setHold_links (s : State) (b : Bool) : (s.setHold b).links = s.links := rfl
@[simp] theorem State.setHold_sent (s : State) (b : Bool) : (s.setHold b).sent = s.sent := rfl
@[simp] theorem State.setHold_toHost (s : State) (b : Bool) : (s.setHold b).toHost = s.toHost := rfl
@[simp] theorem State.setHold_tick (s : State) (b : Bool) : (s.setHold b).tick = s.tick := rfl
@[simp] theorem State.setHold_inbox (s : State) (b : Bool) : (s.setHold b).inbox = s.inbox := rfl
@[simp] theorem State.setHold_lines (s : State) (b : Bool) : (s.setHold b).lines = s.lines := rfl
@[simp] theorem State.setHold_replicas (s : State) (b : Bool) : (s.setHold b).replicas = s.replicas := rfl
@[simp] theorem State.setHold_early (s : State) (b : Bool) : (s.setHold b).early = s.early := rfl
@[simp] theorem State.setHold_strays (s : State) (b : Bool) : (s.setHold b).strays = s.strays := rfl
@[simp] theorem State.setHold_rnrs (s : State) (b : Bool) : (s.setHold b).rnrs = s.rnrs := rfl
@[simp] theorem State.setHold_evRnrs (s : State) (b : Bool) : (s.setHold b).evRnrs = s.evRnrs := rfl
@[simp] theorem State.setHold_owed (s : State) (b : Bool) : (s.setHold b).owed = s.owed := rfl
@[simp] theorem State.setHold_sectors (s : State) (b : Bool) : (s.setHold b).sectors = s.sectors := rfl

/-! ### `setStage` -/

@[simp] theorem State.setStage_core (s : State) (id : Nat) (st : Stage) : (s.setStage id st).core = s.core := rfl
@[simp] theorem State.setStage_pkg (s : State) (id : Nat) (st : Stage) : (s.setStage id st).pkg = s.pkg := rfl
@[simp] theorem State.setStage_cur (s : State) (id : Nat) (st : Stage) : (s.setStage id st).cur = s.cur := rfl
@[simp] theorem State.setStage_ctxs (s : State) (id : Nat) (st : Stage) : (s.setStage id st).ctxs = s.ctxs := rfl
@[simp] theorem State.setStage_regs (s : State) (id : Nat) (st : Stage) : (s.setStage id st).regs = s.regs := rfl
@[simp] theorem State.setStage_units (s : State) (id : Nat) (st : Stage) : (s.setStage id st).units = s.units := rfl
@[simp] theorem State.setStage_mem (s : State) (id : Nat) (st : Stage) : (s.setStage id st).mem = s.mem := rfl
@[simp] theorem State.setStage_spad (s : State) (id : Nat) (st : Stage) : (s.setStage id st).spad = s.spad := rfl
@[simp] theorem State.setStage_sems (s : State) (id : Nat) (st : Stage) : (s.setStage id st).sems = s.sems := rfl
@[simp] theorem State.setStage_chans (s : State) (id : Nat) (st : Stage) : (s.setStage id st).chans = s.chans := rfl
@[simp] theorem State.setStage_away (s : State) (id : Nat) (st : Stage) : (s.setStage id st).away = s.away := rfl
@[simp] theorem State.setStage_mx (s : State) (id : Nat) (st : Stage) : (s.setStage id st).mx = s.mx := rfl
@[simp] theorem State.setStage_eng (s : State) (id : Nat) (st : Stage) : (s.setStage id st).eng = s.eng := rfl
@[simp] theorem State.setStage_seqNo (s : State) (id : Nat) (st : Stage) : (s.setStage id st).seqNo = s.seqNo := rfl
@[simp] theorem State.setStage_tlb (s : State) (id : Nat) (st : Stage) : (s.setStage id st).tlb = s.tlb := rfl
@[simp] theorem State.setStage_bars (s : State) (id : Nat) (st : Stage) : (s.setStage id st).bars = s.bars := rfl
@[simp] theorem State.setStage_groups (s : State) (id : Nat) (st : Stage) : (s.setStage id st).groups = s.groups := rfl
@[simp] theorem State.setStage_tasks (s : State) (id : Nat) (st : Stage) : (s.setStage id st).tasks = s.tasks := rfl
@[simp] theorem State.setStage_queues (s : State) (id : Nat) (st : Stage) : (s.setStage id st).queues = s.queues := rfl
@[simp] theorem State.setStage_drone (s : State) (id : Nat) (st : Stage) : (s.setStage id st).drone = s.drone := rfl
@[simp] theorem State.setStage_migrations (s : State) (id : Nat) (st : Stage) : (s.setStage id st).migrations = s.migrations := rfl
@[simp] theorem State.setStage_service (s : State) (id : Nat) (st : Stage) : (s.setStage id st).service = s.service := rfl
@[simp] theorem State.setStage_launch (s : State) (id : Nat) (st : Stage) : (s.setStage id st).launch = s.launch := rfl
@[simp] theorem State.setStage_dbg (s : State) (id : Nat) (st : Stage) : (s.setStage id st).dbg = s.dbg := rfl
@[simp] theorem State.setStage_guard (s : State) (id : Nat) (st : Stage) : (s.setStage id st).guard = s.guard := rfl
@[simp] theorem State.setStage_links (s : State) (id : Nat) (st : Stage) : (s.setStage id st).links = s.links := rfl
@[simp] theorem State.setStage_sent (s : State) (id : Nat) (st : Stage) : (s.setStage id st).sent = s.sent := rfl
@[simp] theorem State.setStage_toHost (s : State) (id : Nat) (st : Stage) : (s.setStage id st).toHost = s.toHost := rfl
@[simp] theorem State.setStage_tick (s : State) (id : Nat) (st : Stage) : (s.setStage id st).tick = s.tick := rfl
@[simp] theorem State.setStage_inbox (s : State) (id : Nat) (st : Stage) : (s.setStage id st).inbox = s.inbox := rfl
@[simp] theorem State.setStage_lines (s : State) (id : Nat) (st : Stage) : (s.setStage id st).lines = s.lines := rfl
@[simp] theorem State.setStage_replicas (s : State) (id : Nat) (st : Stage) : (s.setStage id st).replicas = s.replicas := rfl
@[simp] theorem State.setStage_early (s : State) (id : Nat) (st : Stage) : (s.setStage id st).early = s.early := rfl
@[simp] theorem State.setStage_strays (s : State) (id : Nat) (st : Stage) : (s.setStage id st).strays = s.strays := rfl
@[simp] theorem State.setStage_rnrs (s : State) (id : Nat) (st : Stage) : (s.setStage id st).rnrs = s.rnrs := rfl
@[simp] theorem State.setStage_evRnrs (s : State) (id : Nat) (st : Stage) : (s.setStage id st).evRnrs = s.evRnrs := rfl
@[simp] theorem State.setStage_owed (s : State) (id : Nat) (st : Stage) : (s.setStage id st).owed = s.owed := rfl
@[simp] theorem State.setStage_sectors (s : State) (id : Nat) (st : Stage) : (s.setStage id st).sectors = s.sectors := rfl

/-! ### `setEngQueue` -/

@[simp] theorem State.setEngQueue_core (s : State) (g : Bool) (l : List EngCmd) : (s.setEngQueue g l).core = s.core := rfl
@[simp] theorem State.setEngQueue_pkg (s : State) (g : Bool) (l : List EngCmd) : (s.setEngQueue g l).pkg = s.pkg := rfl
@[simp] theorem State.setEngQueue_cur (s : State) (g : Bool) (l : List EngCmd) : (s.setEngQueue g l).cur = s.cur := rfl
@[simp] theorem State.setEngQueue_ctxs (s : State) (g : Bool) (l : List EngCmd) : (s.setEngQueue g l).ctxs = s.ctxs := rfl
@[simp] theorem State.setEngQueue_regs (s : State) (g : Bool) (l : List EngCmd) : (s.setEngQueue g l).regs = s.regs := rfl
@[simp] theorem State.setEngQueue_units (s : State) (g : Bool) (l : List EngCmd) : (s.setEngQueue g l).units = s.units := rfl
@[simp] theorem State.setEngQueue_mem (s : State) (g : Bool) (l : List EngCmd) : (s.setEngQueue g l).mem = s.mem := rfl
@[simp] theorem State.setEngQueue_spad (s : State) (g : Bool) (l : List EngCmd) : (s.setEngQueue g l).spad = s.spad := rfl
@[simp] theorem State.setEngQueue_sems (s : State) (g : Bool) (l : List EngCmd) : (s.setEngQueue g l).sems = s.sems := rfl
@[simp] theorem State.setEngQueue_chans (s : State) (g : Bool) (l : List EngCmd) : (s.setEngQueue g l).chans = s.chans := rfl
@[simp] theorem State.setEngQueue_away (s : State) (g : Bool) (l : List EngCmd) : (s.setEngQueue g l).away = s.away := rfl
@[simp] theorem State.setEngQueue_mx (s : State) (g : Bool) (l : List EngCmd) : (s.setEngQueue g l).mx = s.mx := rfl
@[simp] theorem State.setEngQueue_net (s : State) (g : Bool) (l : List EngCmd) : (s.setEngQueue g l).net = s.net := rfl
@[simp] theorem State.setEngQueue_seqNo (s : State) (g : Bool) (l : List EngCmd) : (s.setEngQueue g l).seqNo = s.seqNo := rfl
@[simp] theorem State.setEngQueue_tlb (s : State) (g : Bool) (l : List EngCmd) : (s.setEngQueue g l).tlb = s.tlb := rfl
@[simp] theorem State.setEngQueue_bars (s : State) (g : Bool) (l : List EngCmd) : (s.setEngQueue g l).bars = s.bars := rfl
@[simp] theorem State.setEngQueue_groups (s : State) (g : Bool) (l : List EngCmd) : (s.setEngQueue g l).groups = s.groups := rfl
@[simp] theorem State.setEngQueue_tasks (s : State) (g : Bool) (l : List EngCmd) : (s.setEngQueue g l).tasks = s.tasks := rfl
@[simp] theorem State.setEngQueue_queues (s : State) (g : Bool) (l : List EngCmd) : (s.setEngQueue g l).queues = s.queues := rfl
@[simp] theorem State.setEngQueue_drone (s : State) (g : Bool) (l : List EngCmd) : (s.setEngQueue g l).drone = s.drone := rfl
@[simp] theorem State.setEngQueue_migrations (s : State) (g : Bool) (l : List EngCmd) : (s.setEngQueue g l).migrations = s.migrations := rfl
@[simp] theorem State.setEngQueue_service (s : State) (g : Bool) (l : List EngCmd) : (s.setEngQueue g l).service = s.service := rfl
@[simp] theorem State.setEngQueue_launch (s : State) (g : Bool) (l : List EngCmd) : (s.setEngQueue g l).launch = s.launch := rfl
@[simp] theorem State.setEngQueue_dbg (s : State) (g : Bool) (l : List EngCmd) : (s.setEngQueue g l).dbg = s.dbg := rfl
@[simp] theorem State.setEngQueue_guard (s : State) (g : Bool) (l : List EngCmd) : (s.setEngQueue g l).guard = s.guard := rfl
@[simp] theorem State.setEngQueue_links (s : State) (g : Bool) (l : List EngCmd) : (s.setEngQueue g l).links = s.links := rfl
@[simp] theorem State.setEngQueue_sent (s : State) (g : Bool) (l : List EngCmd) : (s.setEngQueue g l).sent = s.sent := rfl
@[simp] theorem State.setEngQueue_toHost (s : State) (g : Bool) (l : List EngCmd) : (s.setEngQueue g l).toHost = s.toHost := rfl
@[simp] theorem State.setEngQueue_tick (s : State) (g : Bool) (l : List EngCmd) : (s.setEngQueue g l).tick = s.tick := rfl
@[simp] theorem State.setEngQueue_inbox (s : State) (g : Bool) (l : List EngCmd) : (s.setEngQueue g l).inbox = s.inbox := rfl
@[simp] theorem State.setEngQueue_lines (s : State) (g : Bool) (l : List EngCmd) : (s.setEngQueue g l).lines = s.lines := rfl
@[simp] theorem State.setEngQueue_replicas (s : State) (g : Bool) (l : List EngCmd) : (s.setEngQueue g l).replicas = s.replicas := rfl
@[simp] theorem State.setEngQueue_early (s : State) (g : Bool) (l : List EngCmd) : (s.setEngQueue g l).early = s.early := rfl
@[simp] theorem State.setEngQueue_strays (s : State) (g : Bool) (l : List EngCmd) : (s.setEngQueue g l).strays = s.strays := rfl
@[simp] theorem State.setEngQueue_rnrs (s : State) (g : Bool) (l : List EngCmd) : (s.setEngQueue g l).rnrs = s.rnrs := rfl
@[simp] theorem State.setEngQueue_evRnrs (s : State) (g : Bool) (l : List EngCmd) : (s.setEngQueue g l).evRnrs = s.evRnrs := rfl
@[simp] theorem State.setEngQueue_owed (s : State) (g : Bool) (l : List EngCmd) : (s.setEngQueue g l).owed = s.owed := rfl
@[simp] theorem State.setEngQueue_sectors (s : State) (g : Bool) (l : List EngCmd) : (s.setEngQueue g l).sectors = s.sectors := rfl

/-! ### What the changed fields become -/

@[simp] theorem State.withRegs_regs (s : State) (f : CoreRegs → CoreRegs) : (s.withRegs f).regs = f s.regs := rfl
@[simp] theorem State.withEng_eng (s : State) (f : Engines → Engines) : (s.withEng f).eng = f s.eng := rfl
@[simp] theorem State.withMx_mx (s : State) (f : Matrix → Matrix) : (s.withMx f).mx = f s.mx := rfl
@[simp] theorem State.withDrone_drone (s : State) (f : Drone → Drone) : (s.withDrone f).drone = f s.drone := rfl
@[simp] theorem State.at_modifyAt (s : State) (i : Fin 11) (f : Ctx → Ctx) : (s.modifyAt i f).at i = f (s.at i) := s.at_putAt i _

theorem State.at_modifyAt_ne (s : State) (i j : Fin 11) (f : Ctx → Ctx) (h : j ≠ i) : (s.modifyAt i f).at j = s.at j :=
  s.at_putAt_ne i j _ h

/-- A semaphore written reads back. -/
theorem State.sem_putSem (s : State) (n v : Nat) (h : n < 256) : (s.putSem n v).sem n = v % 2 ^ 16 := by
  simp [State.sem, State.putSem, nth, upd, h]

theorem State.sem_putSem_ne (s : State) (n m v : Nat) (h : m ≠ n) : (s.putSem n v).sem m = s.sem m := by
  simp [State.sem, State.putSem, nth, upd, Vector.getElem?_setIfInBounds_ne (Ne.symm h)]

/-! ### The machine's own stores of memory -/

theorem State.mark_eq (s : State) (ga : Nat) (l : List Nat) : ∃ m, s.mark ga l = { s with migrations := m } := by
  unfold mark; split
  · exact ⟨s.migrations, rfl⟩
  · exact ⟨_, rfl⟩

theorem State.touch_eq (s : State) (ga : Nat) : ∃ l, s.touch ga = { s with sectors := l } := by
  unfold touch; split
  · exact ⟨_, rfl⟩
  · exact ⟨s.sectors, rfl⟩

/-- A store of the machine changes memory, as the home's plain store does, and what migrations and sector buffers remember. -/
theorem State.storeAt_eq (s : State) (ga : Nat) (l : List (Nat × Byte)) :
    ∃ m q, (s.storeAt ga l).1 = { s with mem := (s.mem.store (s.moved ga) l).1, migrations := m, sectors := q } := by
  obtain ⟨m, h⟩ := State.mark_eq { s with mem := (s.mem.store (s.moved ga) l).1 } (s.moved ga) (l.map (·.1))
  obtain ⟨q, e⟩ := State.touch_eq { s with mem := (s.mem.store (s.moved ga) l).1, migrations := m } (s.moved ga)
  exact ⟨m, q, by rw [← e, ← h]; rfl⟩

theorem State.poke_eq (s : State) (ga n v : Nat) :
    ∃ m q, s.poke ga n v = { s with mem := (s.mem.store (s.moved ga) (listed v n)).1, migrations := m, sectors := q } := s.storeAt_eq ga _

/-- It keeps the canonical form of memory. -/
theorem State.poke_wf (s : State) (ga n v : Nat) (h : s.mem.wf = true) : (s.poke ga n v).mem.wf = true := by
  obtain ⟨m, q, e⟩ := s.poke_eq ga n v
  rw [e]; exact Memory.store_wf _ _ _ h

@[simp] theorem State.storeAt_core (s : State) (ga : Nat) (l : List (Nat × Byte)) : (s.storeAt ga l).1.core = s.core := by
  obtain ⟨m, q, e⟩ := s.storeAt_eq ga l; rw [e]
@[simp] theorem State.storeAt_pkg (s : State) (ga : Nat) (l : List (Nat × Byte)) : (s.storeAt ga l).1.pkg = s.pkg := by
  obtain ⟨m, q, e⟩ := s.storeAt_eq ga l; rw [e]
@[simp] theorem State.storeAt_cur (s : State) (ga : Nat) (l : List (Nat × Byte)) : (s.storeAt ga l).1.cur = s.cur := by
  obtain ⟨m, q, e⟩ := s.storeAt_eq ga l; rw [e]
@[simp] theorem State.storeAt_ctxs (s : State) (ga : Nat) (l : List (Nat × Byte)) : (s.storeAt ga l).1.ctxs = s.ctxs := by
  obtain ⟨m, q, e⟩ := s.storeAt_eq ga l; rw [e]
@[simp] theorem State.storeAt_regs (s : State) (ga : Nat) (l : List (Nat × Byte)) : (s.storeAt ga l).1.regs = s.regs := by
  obtain ⟨m, q, e⟩ := s.storeAt_eq ga l; rw [e]
@[simp] theorem State.storeAt_units (s : State) (ga : Nat) (l : List (Nat × Byte)) : (s.storeAt ga l).1.units = s.units := by
  obtain ⟨m, q, e⟩ := s.storeAt_eq ga l; rw [e]
@[simp] theorem State.storeAt_spad (s : State) (ga : Nat) (l : List (Nat × Byte)) : (s.storeAt ga l).1.spad = s.spad := by
  obtain ⟨m, q, e⟩ := s.storeAt_eq ga l; rw [e]
@[simp] theorem State.storeAt_sems (s : State) (ga : Nat) (l : List (Nat × Byte)) : (s.storeAt ga l).1.sems = s.sems := by
  obtain ⟨m, q, e⟩ := s.storeAt_eq ga l; rw [e]
@[simp] theorem State.storeAt_chans (s : State) (ga : Nat) (l : List (Nat × Byte)) : (s.storeAt ga l).1.chans = s.chans := by
  obtain ⟨m, q, e⟩ := s.storeAt_eq ga l; rw [e]
@[simp] theorem State.storeAt_away (s : State) (ga : Nat) (l : List (Nat × Byte)) : (s.storeAt ga l).1.away = s.away := by
  obtain ⟨m, q, e⟩ := s.storeAt_eq ga l; rw [e]
@[simp] theorem State.storeAt_mx (s : State) (ga : Nat) (l : List (Nat × Byte)) : (s.storeAt ga l).1.mx = s.mx := by
  obtain ⟨m, q, e⟩ := s.storeAt_eq ga l; rw [e]
@[simp] theorem State.storeAt_eng (s : State) (ga : Nat) (l : List (Nat × Byte)) : (s.storeAt ga l).1.eng = s.eng := by
  obtain ⟨m, q, e⟩ := s.storeAt_eq ga l; rw [e]
@[simp] theorem State.storeAt_net (s : State) (ga : Nat) (l : List (Nat × Byte)) : (s.storeAt ga l).1.net = s.net := by
  obtain ⟨m, q, e⟩ := s.storeAt_eq ga l; rw [e]
@[simp] theorem State.storeAt_seqNo (s : State) (ga : Nat) (l : List (Nat × Byte)) : (s.storeAt ga l).1.seqNo = s.seqNo := by
  obtain ⟨m, q, e⟩ := s.storeAt_eq ga l; rw [e]
@[simp] theorem State.storeAt_tlb (s : State) (ga : Nat) (l : List (Nat × Byte)) : (s.storeAt ga l).1.tlb = s.tlb := by
  obtain ⟨m, q, e⟩ := s.storeAt_eq ga l; rw [e]
@[simp] theorem State.storeAt_bars (s : State) (ga : Nat) (l : List (Nat × Byte)) : (s.storeAt ga l).1.bars = s.bars := by
  obtain ⟨m, q, e⟩ := s.storeAt_eq ga l; rw [e]
@[simp] theorem State.storeAt_groups (s : State) (ga : Nat) (l : List (Nat × Byte)) : (s.storeAt ga l).1.groups = s.groups := by
  obtain ⟨m, q, e⟩ := s.storeAt_eq ga l; rw [e]
@[simp] theorem State.storeAt_tasks (s : State) (ga : Nat) (l : List (Nat × Byte)) : (s.storeAt ga l).1.tasks = s.tasks := by
  obtain ⟨m, q, e⟩ := s.storeAt_eq ga l; rw [e]
@[simp] theorem State.storeAt_queues (s : State) (ga : Nat) (l : List (Nat × Byte)) : (s.storeAt ga l).1.queues = s.queues := by
  obtain ⟨m, q, e⟩ := s.storeAt_eq ga l; rw [e]
@[simp] theorem State.storeAt_drone (s : State) (ga : Nat) (l : List (Nat × Byte)) : (s.storeAt ga l).1.drone = s.drone := by
  obtain ⟨m, q, e⟩ := s.storeAt_eq ga l; rw [e]
@[simp] theorem State.storeAt_service (s : State) (ga : Nat) (l : List (Nat × Byte)) : (s.storeAt ga l).1.service = s.service := by
  obtain ⟨m, q, e⟩ := s.storeAt_eq ga l; rw [e]
@[simp] theorem State.storeAt_launch (s : State) (ga : Nat) (l : List (Nat × Byte)) : (s.storeAt ga l).1.launch = s.launch := by
  obtain ⟨m, q, e⟩ := s.storeAt_eq ga l; rw [e]
@[simp] theorem State.storeAt_dbg (s : State) (ga : Nat) (l : List (Nat × Byte)) : (s.storeAt ga l).1.dbg = s.dbg := by
  obtain ⟨m, q, e⟩ := s.storeAt_eq ga l; rw [e]
@[simp] theorem State.storeAt_guard (s : State) (ga : Nat) (l : List (Nat × Byte)) : (s.storeAt ga l).1.guard = s.guard := by
  obtain ⟨m, q, e⟩ := s.storeAt_eq ga l; rw [e]
@[simp] theorem State.storeAt_links (s : State) (ga : Nat) (l : List (Nat × Byte)) : (s.storeAt ga l).1.links = s.links := by
  obtain ⟨m, q, e⟩ := s.storeAt_eq ga l; rw [e]
@[simp] theorem State.storeAt_sent (s : State) (ga : Nat) (l : List (Nat × Byte)) : (s.storeAt ga l).1.sent = s.sent := by
  obtain ⟨m, q, e⟩ := s.storeAt_eq ga l; rw [e]
@[simp] theorem State.storeAt_toHost (s : State) (ga : Nat) (l : List (Nat × Byte)) : (s.storeAt ga l).1.toHost = s.toHost := by
  obtain ⟨m, q, e⟩ := s.storeAt_eq ga l; rw [e]
@[simp] theorem State.storeAt_tick (s : State) (ga : Nat) (l : List (Nat × Byte)) : (s.storeAt ga l).1.tick = s.tick := by
  obtain ⟨m, q, e⟩ := s.storeAt_eq ga l; rw [e]
@[simp] theorem State.storeAt_inbox (s : State) (ga : Nat) (l : List (Nat × Byte)) : (s.storeAt ga l).1.inbox = s.inbox := by
  obtain ⟨m, q, e⟩ := s.storeAt_eq ga l; rw [e]
@[simp] theorem State.storeAt_lines (s : State) (ga : Nat) (l : List (Nat × Byte)) : (s.storeAt ga l).1.lines = s.lines := by
  obtain ⟨m, q, e⟩ := s.storeAt_eq ga l; rw [e]
@[simp] theorem State.storeAt_replicas (s : State) (ga : Nat) (l : List (Nat × Byte)) : (s.storeAt ga l).1.replicas = s.replicas := by
  obtain ⟨m, q, e⟩ := s.storeAt_eq ga l; rw [e]
@[simp] theorem State.storeAt_early (s : State) (ga : Nat) (l : List (Nat × Byte)) : (s.storeAt ga l).1.early = s.early := by
  obtain ⟨m, q, e⟩ := s.storeAt_eq ga l; rw [e]
@[simp] theorem State.storeAt_strays (s : State) (ga : Nat) (l : List (Nat × Byte)) : (s.storeAt ga l).1.strays = s.strays := by
  obtain ⟨m, q, e⟩ := s.storeAt_eq ga l; rw [e]
@[simp] theorem State.storeAt_rnrs (s : State) (ga : Nat) (l : List (Nat × Byte)) : (s.storeAt ga l).1.rnrs = s.rnrs := by
  obtain ⟨m, q, e⟩ := s.storeAt_eq ga l; rw [e]
@[simp] theorem State.storeAt_evRnrs (s : State) (ga : Nat) (l : List (Nat × Byte)) : (s.storeAt ga l).1.evRnrs = s.evRnrs := by
  obtain ⟨m, q, e⟩ := s.storeAt_eq ga l; rw [e]
@[simp] theorem State.storeAt_owed (s : State) (ga : Nat) (l : List (Nat × Byte)) : (s.storeAt ga l).1.owed = s.owed := by
  obtain ⟨m, q, e⟩ := s.storeAt_eq ga l; rw [e]
@[simp] theorem State.poke_core (s : State) (ga n v : Nat) : (s.poke ga n v).core = s.core := by
  obtain ⟨m, q, e⟩ := s.poke_eq ga n v; rw [e]
@[simp] theorem State.poke_pkg (s : State) (ga n v : Nat) : (s.poke ga n v).pkg = s.pkg := by
  obtain ⟨m, q, e⟩ := s.poke_eq ga n v; rw [e]
@[simp] theorem State.poke_cur (s : State) (ga n v : Nat) : (s.poke ga n v).cur = s.cur := by
  obtain ⟨m, q, e⟩ := s.poke_eq ga n v; rw [e]
@[simp] theorem State.poke_ctxs (s : State) (ga n v : Nat) : (s.poke ga n v).ctxs = s.ctxs := by
  obtain ⟨m, q, e⟩ := s.poke_eq ga n v; rw [e]
@[simp] theorem State.poke_regs (s : State) (ga n v : Nat) : (s.poke ga n v).regs = s.regs := by
  obtain ⟨m, q, e⟩ := s.poke_eq ga n v; rw [e]
@[simp] theorem State.poke_units (s : State) (ga n v : Nat) : (s.poke ga n v).units = s.units := by
  obtain ⟨m, q, e⟩ := s.poke_eq ga n v; rw [e]
@[simp] theorem State.poke_spad (s : State) (ga n v : Nat) : (s.poke ga n v).spad = s.spad := by
  obtain ⟨m, q, e⟩ := s.poke_eq ga n v; rw [e]
@[simp] theorem State.poke_sems (s : State) (ga n v : Nat) : (s.poke ga n v).sems = s.sems := by
  obtain ⟨m, q, e⟩ := s.poke_eq ga n v; rw [e]
@[simp] theorem State.poke_chans (s : State) (ga n v : Nat) : (s.poke ga n v).chans = s.chans := by
  obtain ⟨m, q, e⟩ := s.poke_eq ga n v; rw [e]
@[simp] theorem State.poke_away (s : State) (ga n v : Nat) : (s.poke ga n v).away = s.away := by
  obtain ⟨m, q, e⟩ := s.poke_eq ga n v; rw [e]
@[simp] theorem State.poke_mx (s : State) (ga n v : Nat) : (s.poke ga n v).mx = s.mx := by
  obtain ⟨m, q, e⟩ := s.poke_eq ga n v; rw [e]
@[simp] theorem State.poke_eng (s : State) (ga n v : Nat) : (s.poke ga n v).eng = s.eng := by
  obtain ⟨m, q, e⟩ := s.poke_eq ga n v; rw [e]
@[simp] theorem State.poke_net (s : State) (ga n v : Nat) : (s.poke ga n v).net = s.net := by
  obtain ⟨m, q, e⟩ := s.poke_eq ga n v; rw [e]
@[simp] theorem State.poke_seqNo (s : State) (ga n v : Nat) : (s.poke ga n v).seqNo = s.seqNo := by
  obtain ⟨m, q, e⟩ := s.poke_eq ga n v; rw [e]
@[simp] theorem State.poke_tlb (s : State) (ga n v : Nat) : (s.poke ga n v).tlb = s.tlb := by
  obtain ⟨m, q, e⟩ := s.poke_eq ga n v; rw [e]
@[simp] theorem State.poke_bars (s : State) (ga n v : Nat) : (s.poke ga n v).bars = s.bars := by
  obtain ⟨m, q, e⟩ := s.poke_eq ga n v; rw [e]
@[simp] theorem State.poke_groups (s : State) (ga n v : Nat) : (s.poke ga n v).groups = s.groups := by
  obtain ⟨m, q, e⟩ := s.poke_eq ga n v; rw [e]
@[simp] theorem State.poke_tasks (s : State) (ga n v : Nat) : (s.poke ga n v).tasks = s.tasks := by
  obtain ⟨m, q, e⟩ := s.poke_eq ga n v; rw [e]
@[simp] theorem State.poke_queues (s : State) (ga n v : Nat) : (s.poke ga n v).queues = s.queues := by
  obtain ⟨m, q, e⟩ := s.poke_eq ga n v; rw [e]
@[simp] theorem State.poke_drone (s : State) (ga n v : Nat) : (s.poke ga n v).drone = s.drone := by
  obtain ⟨m, q, e⟩ := s.poke_eq ga n v; rw [e]
@[simp] theorem State.poke_service (s : State) (ga n v : Nat) : (s.poke ga n v).service = s.service := by
  obtain ⟨m, q, e⟩ := s.poke_eq ga n v; rw [e]
@[simp] theorem State.poke_launch (s : State) (ga n v : Nat) : (s.poke ga n v).launch = s.launch := by
  obtain ⟨m, q, e⟩ := s.poke_eq ga n v; rw [e]
@[simp] theorem State.poke_dbg (s : State) (ga n v : Nat) : (s.poke ga n v).dbg = s.dbg := by
  obtain ⟨m, q, e⟩ := s.poke_eq ga n v; rw [e]
@[simp] theorem State.poke_guard (s : State) (ga n v : Nat) : (s.poke ga n v).guard = s.guard := by
  obtain ⟨m, q, e⟩ := s.poke_eq ga n v; rw [e]
@[simp] theorem State.poke_links (s : State) (ga n v : Nat) : (s.poke ga n v).links = s.links := by
  obtain ⟨m, q, e⟩ := s.poke_eq ga n v; rw [e]
@[simp] theorem State.poke_sent (s : State) (ga n v : Nat) : (s.poke ga n v).sent = s.sent := by
  obtain ⟨m, q, e⟩ := s.poke_eq ga n v; rw [e]
@[simp] theorem State.poke_toHost (s : State) (ga n v : Nat) : (s.poke ga n v).toHost = s.toHost := by
  obtain ⟨m, q, e⟩ := s.poke_eq ga n v; rw [e]
@[simp] theorem State.poke_tick (s : State) (ga n v : Nat) : (s.poke ga n v).tick = s.tick := by
  obtain ⟨m, q, e⟩ := s.poke_eq ga n v; rw [e]
@[simp] theorem State.poke_inbox (s : State) (ga n v : Nat) : (s.poke ga n v).inbox = s.inbox := by
  obtain ⟨m, q, e⟩ := s.poke_eq ga n v; rw [e]
@[simp] theorem State.poke_lines (s : State) (ga n v : Nat) : (s.poke ga n v).lines = s.lines := by
  obtain ⟨m, q, e⟩ := s.poke_eq ga n v; rw [e]
@[simp] theorem State.poke_replicas (s : State) (ga n v : Nat) : (s.poke ga n v).replicas = s.replicas := by
  obtain ⟨m, q, e⟩ := s.poke_eq ga n v; rw [e]
@[simp] theorem State.poke_early (s : State) (ga n v : Nat) : (s.poke ga n v).early = s.early := by
  obtain ⟨m, q, e⟩ := s.poke_eq ga n v; rw [e]
@[simp] theorem State.poke_strays (s : State) (ga n v : Nat) : (s.poke ga n v).strays = s.strays := by
  obtain ⟨m, q, e⟩ := s.poke_eq ga n v; rw [e]
@[simp] theorem State.poke_rnrs (s : State) (ga n v : Nat) : (s.poke ga n v).rnrs = s.rnrs := by
  obtain ⟨m, q, e⟩ := s.poke_eq ga n v; rw [e]
@[simp] theorem State.poke_evRnrs (s : State) (ga n v : Nat) : (s.poke ga n v).evRnrs = s.evRnrs := by
  obtain ⟨m, q, e⟩ := s.poke_eq ga n v; rw [e]
@[simp] theorem State.poke_owed (s : State) (ga n v : Nat) : (s.poke ga n v).owed = s.owed := by
  obtain ⟨m, q, e⟩ := s.poke_eq ga n v; rw [e]

end Sys2Proof.Machine
end

