-- ==== Sys2Proof/Laws/Words.lean ====
section
/-!
SUPPORT. The bits of a word after a change of some of them.
-/

namespace Sys2Proof

open Sys2Proof.Machine

/-- A bit of a word in which a field has been replaced. -/
theorem Word.bit_setBits (w : Word) (lo len v j : Nat) (h : lo + len ≤ 64) :
    (w.setBits lo len v).bit j = if lo ≤ j ∧ j < lo + len then v.testBit (j - lo) else w.bit j := by
  have hm : ((2 ^ len - 1) <<< lo) < 2 ^ 64 := by
    rw [Nat.shiftLeft_eq]
    calc (2 ^ len - 1) * 2 ^ lo < 2 ^ len * 2 ^ lo := by
          apply Nat.mul_lt_mul_of_pos_right _ (Nat.two_pow_pos _)
          have := Nat.two_pow_pos len; omega
      _ = 2 ^ (len + lo) := (Nat.pow_add 2 len lo).symm
      _ ≤ 2 ^ 64 := Nat.pow_le_pow_right (by decide) (by omega)
  have e : 2 ^ 64 - 1 - ((2 ^ len - 1) <<< lo) = 2 ^ 64 - ((2 ^ len - 1) <<< lo + 1) := by omega
  simp only [bit, setBits, BitVec.getLsbD_ofNat, e, Nat.testBit_or, Nat.testBit_and, Nat.testBit_two_pow_sub_succ hm,
    Nat.testBit_shiftLeft, Nat.testBit_two_pow_sub_one, Nat.testBit_mod_two_pow]
  by_cases h1 : lo ≤ j
  · by_cases h2 : j < lo + len
    · have : j - lo < len := by omega
      have : j < 64 := by omega
      simp [*]
    · have h3 : ¬ (j - lo < len) := by omega
      by_cases h4 : j < 64
      · simp [h1, h2, h3, h4, BitVec.testBit_toNat]
      · simp [h2, h4, BitVec.getLsbD_of_ge w j (by omega)]
  · by_cases h4 : j < 64
    · simp [h1, h4, BitVec.testBit_toNat]
    · exact absurd (Nat.le_trans (Nat.le_of_add_right_le h) (Nat.le_of_not_lt h4)) h1

/-- A bit of a word in which one bit has been replaced. -/
theorem Word.bit_putBit (w : Word) (i j : Nat) (b : Bool) (h : i < 64) :
    (putBit w i b).bit j = if j = i then b else w.bit j := by
  rw [putBit, Word.bit_setBits w i 1 _ j (by omega)]
  by_cases e : j = i
  · subst e; cases b <;> simp
  · rw [if_neg (by omega), if_neg e]

/-- A field of a word that was made of a number. -/
theorem Word.bits_ofNat (n lo len : Nat) (h : lo + len ≤ 64) : Word.bits (BitVec.ofNat 64 n) lo len = n / 2 ^ lo % 2 ^ len := by
  simp only [bits, BitVec.toNat_ofNat, Nat.shiftRight_eq_div_pow]
  apply Nat.eq_of_testBit_eq
  intro i
  simp only [Nat.testBit_mod_two_pow, Nat.testBit_div_two_pow]
  by_cases hi : i < len
  · have : lo + i < 64 := by omega
    have : i + lo < 64 := by omega
    simp [*]
  · simp [hi]

end Sys2Proof
end

