-- ==== Sys2Proof/Tests/Slice0.lean ====
section
/-!
SUPPORT. Tests of the model on fixed values: words written out from the encodings of the specification, terms that the checks refuse,
single steps with results worked out by hand from the rules, and for the statements a state and operands that meet the hypotheses of
their clauses.
-/

set_option maxRecDepth 20000

namespace Sys2Proof.Tests

open Sys2Proof Sys2Proof.Machine

/-- A state in which a job of the control context runs: its slice's first 2 MiB map to themselves. -/
def mapped : State := State.reset.withFetchWord 16 0x0040

/-- That state with registers of the control context given. -/
def withG (l : List (Nat × Nat)) : State :=
  mapped.modifyAt 0 fun c => { c with g := l.foldl (fun g p => upd g p.1 (BitVec.ofNat 64 p.2)) c.g }

/-- Every instruction with these operands issues, whatever its class and privilege. -/
abbrev Issues (s : State) (uses : List Use) : Prop := s.canIssue .ordered uses true = true ∧ s.ctx.spec = []

abbrev here : Word := 0x10002

/-- A state in which an instruction issues as an ordered one, it issues as any. -/
theorem Issues.any {s : State} {uses : List Use} (h : Issues s uses) (cls : Machine.Class) (p : Bool) : s.canIssue cls uses p = true := by
  obtain ⟨h, e⟩ := h
  unfold State.canIssue at h ⊢
  simp only [e, List.isEmpty_nil, Bool.true_or, Bool.and_true, Bool.not_true, Bool.false_or, Bool.and_eq_true] at h ⊢
  obtain ⟨⟨⟨⟨⟨h1, h2⟩, h3⟩, h4⟩, h5⟩, h6⟩ := h
  refine ⟨⟨⟨⟨⟨h1, ?_⟩, h3⟩, ?_⟩, h5⟩, h6⟩
  · simp [h2]
  · rw [Bool.or_eq_true] at h4 ⊢
    exact h4.imp (fun h => absurd h (by decide)) id

/-- The state an instruction leaves. -/
noncomputable def after (i : Instr) (s : State) : State :=
  match exec i s with
  | .next t => t
  | _ => s

/-- An instruction answers a next state. -/
noncomputable def goes (i : Instr) (s : State) : Bool :=
  match exec i s with
  | .next _ => true
  | _ => false

/-- The control context's fields changed. -/
def ctl (s : State) (f : Ctx → Ctx) : State := s.modifyAt 0 f

/-- A helper runs and issues, at level 0. -/
def helper : State := { mapped.startHelper 1 1 0 0 here 7 with cur := 1 }.modifyAt 1 fun c => { c with status := 0 }

/-- An address translates, and what comes of it. -/
def passes {ε α : Type} (x : Except ε α) (p : α → Bool) : Bool :=
  match x with
  | .ok a => p a
  | .error _ => false

theorem ok_of {ε α : Type} {x : Except ε α} {p : α → Bool} {P : α → Prop} (h : passes x p = true) (k : ∀ a, p a = true → P a) :
    ∃ a, x = .ok a ∧ P a := by
  cases x with
  | error e => simp [passes] at h
  | ok a => exact ⟨a, rfl, k a h⟩

def traps {ε α : Type} (x : Except ε α) : Bool := !passes x fun _ => true

theorem error_of {ε α : Type} {x : Except ε α} (h : traps x = true) : ∃ e, x = .error e := by
  cases x with
  | error e => exact ⟨e, rfl⟩
  | ok a => simp [traps, passes] at h

/-- The state with three more pages: at 2 MiB another core's slice, at 4 MiB the memory behind a port, at 6 MiB sealed memory of
the own slice. -/
def spread (l : List (Nat × Nat)) : State :=
  let s := withG l
  let m := s.mem.write (s.ownBase + 0x4008) 8 (s.ownBase + 2 ^ 33 + 0x3F)
  let m := m.write (s.ownBase + 0x4010) 8 (2 ^ 62 + 0x3F)
  { s with mem := m }

def ownB (s : State) (p : Piece) : Bool :=
  s.ownSlice p.ga && !s.launch.acked && !s.behindRefused && s.net.isEmpty && s.migrations.isEmpty && s.mem.frozen.isEmpty &&
    s.mem.poison.isEmpty && s.early.isEmpty && s.inFlight == 0 && !s.overtakes [(p.ga, p.n)]

theorem own_of {s : State} {p : Piece} (h : ownB s p = true) :
    Claims.own s p ∧ Claims.unread s p ∧ Claims.clean s p.ga p.n ∧ Claims.noInvalidation s := by
  simp only [ownB, Bool.and_eq_true, List.isEmpty_iff, Bool.not_eq_true', beq_iff_eq] at h
  obtain ⟨⟨⟨⟨⟨⟨⟨⟨⟨h1, h0⟩, h2⟩, h3⟩, h4⟩, h5⟩, h6⟩, h8⟩, h9⟩, h10⟩ := h
  have h7 : Claims.noInvalidation s := by intro e he; simp [h3] at he
  refine ⟨⟨h1, h0, h2, h7, ?_, ?_, h10, ?_⟩, ?_, ?_, h7⟩
  · simp [State.moved, h4]
  · simp [h5]
  · simp [h9]
  · simp [Claims.unread, h8]
  · intro i _; simp [h6]

def remoteB (s : State) (p : Piece) : Bool :=
  !s.ownSlice p.ga && s.deadHome p.ga == none && decide (s.inFlight < Config.outstanding) && !s.overtakes [(p.ga, p.n)]

theorem remote_of {s : State} {p : Piece} (h : remoteB s p = true) : Claims.remote s p := by
  simpa [remoteB, Claims.remote, and_assoc] using h

/-- A value that is there, of which this holds. -/
def there {α : Type} (x : Option α) (p : α → Bool) : Bool :=
  match x with
  | some a => p a
  | none => false

/-! ### Integer and control flow -/

theorem test_witness_IntegerArithmetic :
    Issues (withG [(6, 7), (7, 2)]) [.wG 5, .rG 1 6, .rG 2 7] ∧ Issues mapped [.wG 31, .rG 1 31, .rG 2 0] ∧ (1 : Word) ≠ 0 := by decide

theorem test_witness_IntegerLogic : Issues mapped [.wG 0, .rG 1 0, .rG 2 31] ∧ Issues mapped [.wG 5, .rG 1 6] := by decide

theorem test_witness_IntegerFields :
    Issues mapped [.wG 5, .rG 1 6] ∧ Issues mapped [.rwG 31, .rG 1 0] ∧ Issues mapped [.wG 5, .rG 1 6, .rG 2 7, .rG 3 8] := by decide

theorem test_witness_IntegerImmediates : (0 : BitVec 4).toNat < 8 ∧ (7 : BitVec 4).toNat < 8 ∧ Issues mapped [.wG 31] := by decide

theorem test_witness_IntegerFrame : goes (.add 5 6 7) mapped = true ∧ goes (.bfi 5 6 0 63) mapped = true ∧ goes (.add 45 0 0) mapped = true ∧
    (mapped.ctx.vectoring = false) := by decide

theorem test_witness_TransfersComplete :
    Issues (withG [(6, 1), (7, 2), (8, 0x10002)]) [.rG 0 6, .rG 1 7] ∧ Issues (withG [(6, 1), (7, 2), (8, 0x10002)]) [.wG 31, .rG 1 8] ∧
    (let s := withG [(6, 1), (7, 2), (8, 0x10002)]
     Claims.holds 7 (s.readG 6) (s.readG 7) = false ∧ Claims.holds 0 (s.readG 6) (s.readG 6) = true ∧ s.readG 6 ≠ 0 ∧ s.readG 5 = 0 ∧
       s.checkTarget (Claims.target (0 : BitVec 22) s) = none ∧ s.checkTarget (s.readG 8) = none ∧
       s.diverge.checkTarget (Claims.target (0 : BitVec 22) s) = none ∧ s.diverge.checkTarget (s.readG 8) = none) := by decide

theorem test_witness_LoopCountsDown :
    Issues (withG [(6, 2), (8, 0x10004)]) [.rwG 6] ∧
    (let s := withG [(6, 2), (7, 1), (8, 0x10004)]
     s.readG 5 = 0 ∧ s.readG 7 = 1 ∧ 1 < (s.readG 6).toNat ∧ s.checkTarget (Claims.target (0 : BitVec 26) s) = none ∧
       s.checkTarget (Claims.target (1 : BitVec 26) s) = some ⟨4, 0, some 0x10004, 0, none⟩ ∧
       s.diverge.checkTarget (Claims.target (1 : BitVec 26) s) = some ⟨4, 0, some 0x10004, 0, none⟩ ∧
       s.diverge.checkTarget (s.readG 8) = some ⟨4, 0, some 0x10004, 0, none⟩) := by decide

/-! ### Traps -/

theorem test_witness_TrapEntry : State.reset.regs.tvec = 0 := by decide

theorem test_witness_TrapInstructions :
    Issues (withG [(6, 1)]) [.rG 1 6] ∧ Issues mapped [] ∧ mapped.ctx.spec = [] ∧ mapped.dbg.brkh = false ∧
    (let s : State := { mapped with dbg := { mapped.dbg with brkh := true } }; Issues s [] ∧ s.dbg.brkh = true) ∧
    (withG [(6, 1)]).readG 6 ≠ 0 ∧ (withG [(6, 1)]).readG 5 = 0 := by decide

theorem test_witness_ReturnFromTrap :
    (let s := ctl mapped fun c => { c with epc := here }; Issues s [] ∧ s.ctx.report = none ∧ s.checkTarget s.ctx.epc = none) ∧
    (let s := ctl mapped fun c => { c with epc := 0x10004 }
     Issues s [] ∧ s.ctx.report = none ∧ s.checkTarget s.ctx.epc = some ⟨4, 0, some 0x10004, 0, none⟩) := by decide

theorem test_witness_IssueTraps :
    mapped.useFault (.rG 1 44) = some 0 ∧ helper.useFault (.rG 1 8) = some 1 ∧ mapped.useFault (.rG 1 32) = some 2 ∧
    mapped.useFault (.wG 31) = none ∧ helper.ctx.pl = false ∧ helper.ctx.spec = [] ∧ helper.useFault (.wG 7) = none ∧
    helper.useFault (.rG 1 7) = none ∧ helper.useFault (.rG 2 0) = none ∧ writePriv 0x040 = true ∧ readPriv 0x042 = false := by decide

/-! ### Control registers -/

theorem test_witness_ControlReads :
    (0x180, mapped.units.pcyc) ∈ Claims.storedRegisters mapped ∧ (0, mapped.ctx.status) ∈ Claims.storedRegisters mapped ∧
      Issues mapped [.wG 5] ∧ Claims.assigned 0x012 ∧ ¬ Claims.assigned 0x013 ∧ ¬ Claims.assigned 0x113 := by
  unfold Claims.assigned; decide

theorem test_witness_ControlWrites :
    (0x001, 0xE00000000000FFFF) ∈ Claims.writtenRegisters ∧ (0x111, BitVec.allOnes 64) ∈ Claims.writtenRegisters ∧
      0x005 ∈ Claims.ignoringRegisters ∧ Claims.assigned 0x068 ∧ Claims.assigned 0x112 ∧ ¬ Claims.assigned 0x069 ∧ ¬ Claims.assigned 0x3FF ∧
      0x060 ∉ Claims.ownRows ∧ Issues mapped [.rG 1 6] := by
  unfold Claims.assigned; decide

theorem test_witness_RegisterFields :
    Issues (withG [(6, 1), (7, 256)]) [.rG 1 6] ∧
    (let s := withG [(6, 1), (7, 256)]
     s.readG 5 = 0 ∧ s.units.pcyc.toNat < (s.readG 6).toNat ∧ (s.readG 5).bits 0 2 = s.regs.chmode.bits 0 2 ∧ (s.readG 6).bits 0 2 < 2 ∧
       (s.readG 6).bits 0 2 ≠ s.regs.chmode.bits 0 2 ∧ (s.readG 7).bit 8 = true ∧ (s.readG 6).bit 8 = false ∧ s.tileNamed 7 = false ∧
       s.owners 3 = []) ∧
    (let s : State := { withG [(6, 1)] with units := { mapped.units with pcyc := 1 } }
     Issues s [.rG 1 6] ∧ s.readG 6 ≠ 0 ∧ (s.readG 6).toNat ≤ s.units.pcyc.toNat) ∧
    (let s := after (.tzero 3 .none) (after (.mzero 1 .none) mapped)
     Issues s [.rG 1 6] ∧ s.tileNamed 3 = true ∧ s.owners 1 ≠ []) := by decide

/-! ### Contexts -/

theorem test_witness_StartBeginsHelper :
    (let s := withG [(6, 0x10002), (7, 9), (8, 10)]
     Issues s [.wG 5, .rG 1 6, .rG 2 7, .rG 3 8] ∧ s.cur = 0 ∧ s.checkTarget (s.readG 6) = none ∧ s.requestWaiting = false ∧
       s.fits 4 4 = true ∧ s.lowestFree = some 1 ∧ s.readG 8 = BitVec.ofNat 64 (10 : Fin 11).val ∧ (s.at 10).live = false ∧
       (s.readG 9).toNat < 1 ∧ 10 < (s.readG 6).toNat) ∧
    (let s : State := (withG [(6, 0x10002)]).startHelper 1 28 4 0 here 0
     Issues s [.wG 5, .rG 1 6, .rG 2 7, .rG 3 8] ∧ s.cur = 0 ∧ s.checkTarget (s.readG 6) = none ∧ s.fits 1 0 = false) ∧
    helper.cur ≠ 0 := by decide

theorem test_witness_ExitFreesContext :
    (Issues mapped [] ∧ mapped.ctx.report = none ∧ mapped.ctx.claims = false ∧ mapped.ctx.inGroup = false ∧ mapped.quiet mapped.cur = true ∧
      mapped.ctx.task = 0 ∧ mapped.cur = 0) ∧
    (helper.canIssue .ordered [] false = true ∧ helper.ctx.report = none ∧ helper.ctx.claims = false ∧ helper.ctx.inGroup = false ∧
      helper.quiet helper.cur = true ∧ helper.ctx.task = 0 ∧ helper.cur ≠ 0 ∧ helper.ctx.hobj.bit 40 = false ∧ helper.dbg.sessions = [] ∧
      ∀ j : Fin 11, j ≠ helper.cur → (helper.at j).block = none) ∧
    (let s := (withG [(6, 1), (7, 11), (8, 10)]).startHelper 1 1 0 0 here 7
     Issues s [.wG 5, .rG 1 6] ∧ (s.readG 5).toNat < 1 ∧ 10 < (s.readG 7).toNat ∧ (s.readG 5).toNat = s.cur.val ∧
       (10 : Fin 11).val = (s.readG 8).toNat ∧ (s.at 10).live = false ∧ (s.readG 6).toNat = (1 : Fin 11).val ∧ 1 ≠ s.cur ∧
       (s.at 1).live = true) := by decide

theorem test_witness_ParkAndWake :
    (let s := ctl (withG [(6, 11), (7, 10)]) fun c => { c with token := true }
     Issues s [.rG 1 6] ∧ s.ctx.token = true ∧ 10 < (s.readG 6).toNat ∧ (s.readG 7).toNat = (10 : Fin 11).val ∧ (s.at 10).live = false ∧
       (s.at 0).live = true ∧ (s.at 0).block = none) ∧
    (Issues mapped [.wG 5, .rG 1 6] ∧ mapped.ctx.token = false) ∧
    (let s := ctl mapped fun c => { c with block := some ⟨.park, 0, []⟩ }; (s.at 0).live = true ∧ (s.at 0).block = some ⟨.park, 0, []⟩) := by decide

theorem test_witness_AllotmentMoves :
    (let s := ctl mapped fun c => { c with sn := 1, vn := 0 }
     Issues s [.wG 5] ∧ ¬ (max s.ctx.sn (32 / 8) = s.ctx.sn ∧ max s.ctx.vn (0 / 8) = s.ctx.vn) ∧ s.requestWaiting = false ∧ s.fits 3 0 = true) ∧
    (max mapped.ctx.sn (32 / 8) = mapped.ctx.sn ∧ Issues mapped [.wG 5]) ∧
    (let s := ctl (mapped.startHelper 1 29 0 0 here 0) fun c => { c with sn := 1, vn := 0 }
     Issues s [.wG 5] ∧ s.fits 3 0 = false) ∧
    (let s := withG [(6, 11), (7, 10)]
     Issues s [.wG 5, .rG 1 6] ∧ 10 < (s.readG 6).toNat ∧ (s.readG 7).toNat = (10 : Fin 11).val) := by decide

theorem test_witness_GangsForm :
    (let s := withG [(6, 1), (7, 3), (8, 16)]
     Issues s [.wG 5, .rG 1 6] ∧ s.core % 4 = 0 ∧ (s.readG 5).toNat.testBit 0 = false ∧ 2 ^ 4 ≤ (s.readG 8).toNat ∧ s.gangBusy = false ∧
       (s.readG 6).toNat = 2 ^ (s.core % 4) ∧ (s.readG 7).toNat.testBit 0 = true ∧ (s.readG 7).toNat ≠ 2 ^ (s.core % 4) ∧
       (s.readG 7).toNat < 2 ^ 4) ∧
    (let s := ctl mapped fun c => { c with block := some ⟨.gang 5 false 3, 0, []⟩ }
     (s.at 0).live = true ∧ (s.at 0).block = some ⟨.gang 5 false 3, 0, []⟩ ∧ ∀ j : Fin 11, j ≠ 0 → (s.at j).block = none) := by decide

/-! ### Services, images and translations -/

theorem test_witness_ServicesAsk :
    ((let s := ctl mapped fun c => { c with token := true }; Issues s [] ∧ s.ctx.token = true) ∧
      Issues mapped [] ∧ mapped.ctx.status.bits 9 3 = 0 ∧ mapped.ctx.token = false ∧ Issues mapped [.wG 5, .rG 1 6, .rG 2 7]) ∧
    (let s := spread [(6, 0x20000), (7, 0x20001), (8, 0x400000), (9, 0)]
     Issues s [.wG 5, .rG 1 6, .rG 2 7] ∧ s.inFlight + 1 ≤ Config.outstanding ∧ s.ownSlice managementHome = false ∧
       s.storesClear s.cur 9 = true ∧ s.ctx.report = none ∧
       passes (s.translate s.cur (s.readG 6) 1 .store 0x0D 0) (fun t => t.ga % 4096 = 0 ∧ gaSpace t.ga < 2) = true ∧
       passes (s.translate s.cur (s.readG 7) 1 .store 0x0D 0) (fun t => t.ga % 4096 ≠ 0) = true ∧
       passes (s.translate s.cur (s.readG 8) 1 .store 0x0A 0) (fun t => t.x.level ≠ 2 ∧ t.x.size ≠ 0 ∧ (s.readG 9).toNat % t.x.size = 0 ∧
         gaSpace (s.readG 9).toNat < 2 ∧ gaSpace (leafFrame t.x.leaf) = 1 ∧ homeAligned (s.readG 9).toNat = true ∧
         (walkLeaf s.mem (s.readG 8).toNat walkLevels (s.ctx.root.toNat / 2 ^ 12 * 2 ^ 12)).isSome = true ∧
         (s.install t.x).inFlight + 1 ≤ Config.outstanding) = true) := by decide

theorem test_witness_ContextImages :
    (let s := withG [(6, 0), (7, 0x20000), (8, 11), (9, 1)]
     Issues s [.wG 5, .rG 1 6, .rG 2 7] ∧
       passes (s.imageFor (s.readG 7) 4096 .store 0x0B) (fun x => x.1.readG 6 = s.readG 6 ∧ (s.readG 6).toNat = x.1.cur.val ∧
         10 < (x.1.readG 8).toNat ∧ (x.1.readG 9).toNat = (1 : Fin 11).val ∧ 1 ≠ x.1.cur ∧ (x.1.at 1).live = false) = true ∧
       passes (s.imageFor (s.readG 7) 4096 .load 0x0C) (fun x => (x.1.readG 9).toNat = (1 : Fin 11).val ∧ (x.1.at 1).live = false ∧
         x.1.imageOk x.2 = false ∧ (x.1.imageAt x.2 10).bit 63 = false) = true) ∧
    (let s := (withG [(7, 0x20000), (9, 1)]).startHelper 1 1 0 0 here 7
     passes (s.imageFor (s.readG 7) 4096 .store 0x0B) (fun x => (x.1.readG 9).toNat = (1 : Fin 11).val ∧ 1 ≠ x.1.cur ∧
       (x.1.at 1).live = true) = true) ∧
    (let s := withG [(7, 0x20000), (9, 1)]
     let s : State := { s with mem := s.mem.write 0x20030 8 0x01 }
     Issues s [.wG 5, .rG 1 9, .rG 2 7] ∧
       passes (s.imageFor (s.readG 7) 4096 .load 0x0C) (fun x => (x.1.readG 9).toNat = (1 : Fin 11).val ∧ 1 ≠ x.1.cur ∧
         (x.1.at 1).live = false ∧ x.1.imageOk x.2 = true ∧ x.1.requestWaiting = false ∧
         x.1.fitsFor 1 (x.1.imageSn x.2) (x.1.imageVn x.2) = true) = true) := by decide

theorem test_witness_CoreImages :
    (let s := withG [(7, 0x20000)]
     Issues s [.wG 5, .rG 2 7] ∧ s.inFlight = 0 ∧ s.eng.copy = [] ∧ s.eng.gather = [] ∧ s.eng.event = [] ∧ s.mx.queue = [] ∧
       passes (s.imageFor (s.readG 7) 32768 .store 0x0B) (fun x => x.1.draining = false) = true ∧
       passes (s.imageFor (s.readG 7) 32768 .load 0x0C) (fun _ => true) = true) ∧
    (let s := (after (.mzero 1 .none) (withG [(7, 0x20000)])).withMx fun m => { m with queue := m.queue.map fun c => { c with started := true } }
     Issues s [.wG 5, .rG 2 7] ∧ (s.mx.queue.any (·.started)) = true ∧
       passes (s.imageFor (s.readG 7) 32768 .store 0x0B) (fun x => x.1.draining = true) = true) := by decide

/-! ### Floating point and vectors -/

theorem test_witness_RoundingIsCorrect :
    fp32 ∈ [fp32, fp16, bf16, e4m3, e5m2, e2m1, fa48] ∧ (4 : Nat) < 5 ∧ (65535 : Nat) < 2 ^ 16 ∧
    Claims.magnitude fp32 (327 * 2 ^ 23) = 2 ^ 200 ∧ fp32.largest < 327 * 2 ^ 23 ∧
    Claims.magnitude fp32 (127 * 2 ^ 23) = 1 ∧ 127 * 2 ^ 23 + 1 ≤ fp32.largest := by
  refine ⟨by decide, by decide, by decide, ?_, by decide, ?_, by decide⟩ <;> norm_num [Claims.magnitude, fp32]

theorem test_witness_FloatArithmetic :
    Issues mapped [.wF 5, .rF 1 6, .rF 2 7, .rF 3 8] ∧ Issues mapped [.wF 15, .rF 1 15] ∧
    (fp32.read 0x7FC00000).isNan = true ∧ (fp32.read 0x3F800000).isNan = false ∧
    (fp32.read 0xBF800000).cmp (fp32.read 0x3F800000) < 0 ∧ (fp32.read 0x80000000).cmp (fp32.read 0) = 0 ∧
    (fp32.read 0x80000000).sign = true ∧ (fp32.read 0).sign = false := by decide

theorem test_witness_FloatMovesAndConversions :
    Issues mapped [.wF 5, .rF 1 6, .rF 2 7] ∧ Issues mapped [.wG 5, .rF 1 6, .rG 2 7] ∧ Issues mapped [.wG 5, .rG 1 6, .rG 2 7] ∧
    Issues mapped [.wF 5, .rG 1 6, .rG 2 7] ∧ Issues mapped [.rwF 5, .rF 1 6] ∧ (4 : BitVec 3).toNat < 5 ∧
    (readCode 0 0x7F800001).isSnan = true ∧ (readCode 0 0xFF800000).isInf = true ∧ (readCode 0 0x80000000).isZero = true ∧
    (readCode 0 1).isNan = false ∧ (readCode 0 1).isInf = false ∧ (readCode 0 1).isZero = false := by decide

theorem test_witness_VectorInteger :
    Issues mapped [.wV 5, .rV 1 6, .rV 2 7] ∧ Issues mapped [.rwV 5, .rV 1 6, .rG 2 7] ∧ 64 ∈ [8, 16, 32, 64] ∧ 7 < 512 / 64 := by decide

theorem test_witness_VectorFloating :
    Issues mapped [.wV 5, .rV 1 6, .rV 2 7, .rV 3 8] ∧ Issues mapped [.wV 5, .rV 1 6, .rF 2 7] ∧ Issues mapped [.rwV 5, .rV 1 6, .rV 2 7] ∧
    (6 : BitVec 6).getLsbD 3 = false ∧ (6 : BitVec 6).toNat % 4 < 3 ∧ (3 : BitVec 2) ≠ 0 ∧ (12 : BitVec 6).getLsbD 3 = true := by decide

theorem test_witness_VectorData :
    Issues mapped [.wK 5, .rV 1 6, .rF 2 7] ∧ Issues mapped [.wK 7, .rK 1 1, .rK 2 7] ∧ Issues mapped [.wG 5, .rV 1 6, .rG 3 7] ∧
    Issues mapped [.wV 5, .rV 1 6, .rV 2 7, .rG 3 8] ∧ Issues mapped [.wF 5, .rV 1 6] ∧ Issues mapped [.wG 5, .rK 1 6] ∧
    (7 : BitVec 4).toNat < 8 ∧ 64 ≤ 64 ∧ (3 : BitVec 2) ≠ 0 ∧ (2 : BitVec 2) ≠ 3 ∧
    ([-128, 127] : List Int) ≠ [] ∧ (∀ x ∈ ([-128, 127] : List Int), x ≤ 2 ^ 7 - 1 ∧ -2 ^ 7 ≤ x) := by decide

theorem test_witness_FloatVectorFrame :
    goes (.fadd 5 6 7 4) mapped = true ∧ goes (.vadd ⟨5, 6, 7, false, false, 0, 0⟩ 1) mapped = true ∧ goes (.kopTog 5 1) mapped = true ∧
    (after (.fadd 5 6 7 4) mapped).ctx.vectoring = false := by decide

/-! ### Memory accesses -/

theorem test_witness_Loads :
    (let s := spread [(6, 0x20000), (7, 0x200000), (8, 0x800000), (9, 0x1003C), (10, 1)]
     Issues s [.wG 5, .rG 1 6] ∧ Issues s [.rG 0 5, .rG 1 10, .rG 2 9] ∧
       passes (s.translateAll .load 0x80 0 (.plain 8) (pieces 9 (s.readG 6) 8)) (fun ps => ps.all (ownB s)) = true ∧
       passes (s.translateAll .load 0x80 0 (.plain 8) (pieces 9 (s.readG 6 + 510) 8)) (fun ps => ps.all (ownB s) ∧ ps.length = 2) = true ∧
       passes (s.translateAll .load 0x80 0 (.plain 8) (pieces 9 (s.readG 7) 8)) (fun ps => ps.all (remoteB s) ∧ ps.all (!·.x.seal) ∧
         s.inFlight + ps.length ≤ Config.outstanding) = true ∧
       passes (s.translateAll .load 0x80 0 (.plain 8) (pieces 9 (s.readG 8) 8)) (fun _ => true) = false ∧
       (s.readG 10).toNat ≤ (s.readG 6).toNat ∧ (s.readG 5).toNat < (s.readG 10).toNat ∧
       passes (s.diverge.translateAll .load 0x47 0 (.plain 4) (pieces 9 ((s.readG 9 &&& ~~~3) + 4 * s.readG 5) 4)) (fun ps =>
         ps.all (ownB s.diverge)) = true) ∧
    (let s := spread [(7, 0x200000)]
     let s := s.asked ⟨0x200000, s.ownBase + 2 ^ 33, .access (.write [(0, 1)]), true, true⟩
     Issues s [.wG 5, .rG 1 7] ∧ passes (s.translateAll .load 0x80 0 (.plain 8) (pieces 9 (s.readG 7) 8)) (fun ps =>
       ps.any fun p => s.overtakes [(p.ga, p.n)]) = true) ∧
    (let s := withG [(6, 0x20000)]
     let u : State := { s with mem := { s.mem with poison := [0x4000] } }
     Issues u [.wG 5, .rG 1 6] ∧ passes (u.translateAll .load 0x80 0 (.plain 8) (pieces 9 (u.readG 6) 8)) (fun ps =>
       ps.all fun p => ownB s p ∧ p.ga / 8 = 0x4000 ∧ ps.length = 1) = true) := by decide

theorem test_witness_AddressesAndHints :
    (let s := withG [(6, 0x20000), (7, 0x800000), (8, 0x1000), (9, 2 ^ 22), (10, 0x40000)]
     Issues s [.wG 5, .rG 1 6] ∧ passes (s.translate s.cur (s.readG 6) 1 .load 0x8F 0) (fun _ => true) = true ∧
       passes (s.translate s.cur (s.readG 6) 1 .store 0x8F 0) (fun _ => true) = true ∧
       passes (s.translate s.cur (s.readG 7) 1 .load 0x8F 0) (fun _ => true) = false ∧
       passes (s.translate s.cur (s.readG 7) 1 .store 0x8F 0) (fun _ => true) = false ∧
       passes (s.translate s.cur (s.readG 7) 1 .load 0x88 0) (fun _ => true) = false ∧
       passes (s.translate s.cur (s.readG 6) 1 .load 0x8B 0) (fun _ => true) = true ∧
       2 ^ 22 ≤ (s.readG 9).toNat ∧ s.holder ((s.readG 8).toNat / 4096) = some (s.core % 16) ∧ s.spadBad 0x1000 8 = false ∧
       s.holder ((s.readG 10).toNat / 4096) ≠ some (s.core % 16) ∧
       (let t : State := { s with spad := { s.spad with poison := [0x400] } }; t.spadBad 0x1000 8 = true ∧ Issues t [.wG 5, .rG 1 8])) := by decide

/-- A member of a group of two, and then with a `cbr` of its group unresolved: `cjoin` and `cbr.any`. -/
noncomputable def grouped (l : List (Nat × Nat)) : State := after (.cjoin 5 30 29 0) (spread ([(30, 3), (29, 2)] ++ l))
noncomputable def speculating (l : List (Nat × Nat)) : State := after (.cbrAny 0 false 0) (grouped l)

theorem test_witness_Stores :
    (let s := spread [(5, 77), (6, 0x20000), (7, 0x200000), (8, 0x800000)]
     Issues s [.rG 0 5, .rG 1 6] ∧ s.mem.wf = true ∧ s.ctx.holds = false ∧
       passes (s.translateAll .store 0x81 0 (.plain 8) (pieces 9 (s.readG 6) 8)) (fun ps => ps.all fun p =>
         ownB s p ∧ ∀ i < p.n, s.mem.isSealed (p.ga + i) = false) = true ∧
       passes (s.translateAll .store 0x81 0 (.plain 8) (pieces 9 (s.readG 6 + 510) 8)) (fun ps =>
         ps.map (fun p => (p.ga, p.n)) = [(0x201FE, 2), (0x20200, 6)] ∧ ps.all fun p => ownB s p) = true ∧
       passes (s.translateAll .store 0x81 0 (.plain 8) (pieces 9 (s.readG 7) 8)) (fun ps => ps.all (remoteB s) ∧
         s.inFlight + ps.length ≤ Config.outstanding) = true ∧
       passes (s.translateAll .store 0x81 0 (.plain 8) (pieces 9 (s.readG 8) 8)) (fun _ => true) = false) ∧
    (let s := speculating [(5, 77), (6, 0x20000), (7, 0x1000)]
     s.canIssue .free [.rG 0 5, .rG 1 6] false = true ∧ s.ctx.holds = true ∧
       passes (s.translateAll .store 0x81 0 (.plain 8) (pieces 9 (s.readG 6) 8)) (fun ps => s.ctx.hold.length + ps.length ≤ Config.holdDepth) = true ∧
       (s.readG 7).toNat < 2 ^ 22 ∧ s.holder ((s.readG 7).toNat / 4096) = some (s.core % 16)) ∧
    (let s := spread [(5, 77), (6, 0x1000), (7, 0x40000)]
     let t : State := { s with spad := { s.spad with poison := [0x400] } }
     Issues s [.rG 0 5, .rG 1 6] ∧ cellsWf s.spad.cells = true ∧ s.spadBad 0x1000 2 = false ∧ t.spadBad 0x1000 2 = true ∧
       Issues t [.rG 0 5, .rG 1 6] ∧ t.ctx.holds = false ∧ s.holder ((s.readG 6).toNat / 4096) = some (s.core % 16) ∧
       s.holder ((s.readG 7).toNat / 4096) ≠ some (s.core % 16)) ∧
    (let p : Piece := ⟨0x201FE, 2, 0x201FE, ⟨0, 2 ^ 21, 0x3F, 3, []⟩⟩; ([p, p].map Piece.n).sum = [1, 2, 3, (4 : Byte)].length) := by decide

theorem test_witness_StoreFrame :
    (let s := spread [(5, 77), (6, 0x20000), (7, 0x1000)]
     goes (.st 5 6 3 0) s = true ∧ goes (.stA 5 6 3 0) s = true ∧ goes (.spst 5 7 3 0) s = true ∧ (after (.st 5 6 3 0) s).ctx.vectoring = false ∧
       passes (s.translateAll .store 0x81 0 (.plain 8) (pieces 9 (s.readG 6 + (0 : BitVec 23).signExtend 64) 8)) (fun ps => ps.length = 1) = true) := by
  decide

/-- One piece of an access. -/
def onePiece (x : Except TrapInfo (List Piece)) (f : Piece → Bool) : Bool :=
  passes x fun ps => match ps with
    | [p] => f p
    | _ => false

theorem test_witness_Atomics :
    (let s := spread [(6, 0x20000), (7, 0x200000), (8, 0x20008)]
     let w (op : Nat) (ea : Word) (n : Nat) := s.translateAll .atomic op 0 .memory [(BitVec.ofNat 64 (ea.toNat / n * n), n)]
     Issues s [.wG 5, .rG 1 6, .rG 2 7, .rG 3 8] ∧ Issues s [.wF 5, .rG 1 6, .rF 2 7] ∧ s.mem.wf = true ∧
       onePiece (w 0x85 (s.readG 6) 8) (fun p => ownB s p ∧ s.mem.isSealed p.ga = false) = true ∧
       onePiece (w 0x86 (s.readG 6) 4) (fun p => ownB s p ∧ s.mem.isSealed p.ga = false) = true ∧
       onePiece (w 0x87 (s.readG 8) 8) (fun p => ownB s p ∧ s.mem.isSealed p.ga = false) = true ∧
       onePiece (w 0x85 (s.readG 7) 8) (fun p => remoteB s p) = true ∧ (2 : BitVec 2) ≠ 3) ∧
    (let s := spread [(6, 0x20000)]
     let s : State := { s with mem := { s.mem with sealed := [2] } }
     Issues s [.wG 5, .rG 1 6, .rG 2 7] ∧
       onePiece (s.translateAll .atomic 0x85 0 .memory [(0x20000, 8)]) (fun p => ownB s p ∧ s.mem.isSealed p.ga = true) = true) := by decide

theorem test_witness_FullEmpty :
    (let s := spread [(6, 0x20000), (7, 0x200000)]
     let e : State := { s with mem := { s.mem with empty := [0x4000] } }
     let w (s : State) (op : Nat) (ea : Word) (k : Access) := s.translateAll k op 0 .home [(BitVec.ofNat 64 (ea.toNat / 8 * 8), 8)]
     Issues s [.wG 5, .rG 1 6] ∧ Issues s [.rG 0 5, .rG 1 6] ∧ Issues e [.wG 5, .rG 1 6] ∧ Issues e [.rG 0 5, .rG 1 6] ∧ e.mem.wf = true ∧
       s.mem.retry = [] ∧ e.mem.retry = [] ∧
       onePiece (w s 0x82 (s.readG 6) .load) (fun p => ownB s p ∧ s.mem.full p.ga = true ∧ s.mem.poisoned p.ga 8 = false) = true ∧
       onePiece (w e 0x82 (s.readG 6) .load) (fun p => ownB e p ∧ e.mem.full p.ga = false) = true ∧
       onePiece (w s 0x82 (s.readG 7) .load) (fun p => remoteB s p) = true ∧
       onePiece (w e 0x83 (s.readG 6) .store) (fun p => ownB e p ∧ e.mem.isSealed p.ga = false ∧ e.mem.full p.ga = false) = true ∧
       onePiece (w s 0x83 (s.readG 6) .store) (fun p => ownB s p ∧ s.mem.isSealed p.ga = false ∧ s.mem.full p.ga = true) = true ∧
       onePiece (w s 0x83 (s.readG 7) .store) (fun p => remoteB s p) = true ∧
       onePiece (w s 0x84 (s.readG 6) .store) (fun p => ownB s p ∧ s.mem.isSealed p.ga = false) = true ∧
       onePiece (w s 0x84 (s.readG 7) .store) (fun p => remoteB s p) = true) := by decide

theorem test_witness_SealsAndHandles :
    (let s := spread [(6, 0x20000), (7, 1), (9, 64)]
     Issues s [.rG 1 6, .rG 2 7] ∧ s.readG 5 = 0 ∧ s.readG 7 ≠ 0 ∧ s.ctx.sentBefore = 0 ∧ s.inFlight < Config.outstanding ∧ s.behindRefused = false ∧
       passes (s.sealPages 0x89 false ((s.readG 7).toNat / 65536 + 2) (s.readG 6).toNat
         (min ((s.readG 6).toNat + (s.readG 7).toNat - 1) (2 ^ 64 - 1))) (fun ps => ps.length = 1 ∧ (granulesOf ps).all (ownB s)) = true ∧
       s.holdsBuf ((s.readG 7).bits 0 10) = true ∧ (s.readG 7).bits 0 4 ≠ s.core % 16 ∧ (s.readG 5).bits 0 4 = s.core % 16 ∧
       s.holdsBuf ((s.readG 9).bits 0 10) = false) ∧
    (let s := spread [(6, 0x20000), (7, 1)]
     let s : State := { s with mem := { s.mem with sealed := List.range 32 } }
     Issues s [.rG 1 6, .rG 2 7] ∧ s.readG 7 ≠ 0 ∧ s.ctx.sentBefore = 0 ∧ s.behindRefused = false ∧ s.launch.acked = false ∧ s.net = [] ∧
       s.walkWaits (s.readG 6) = false ∧ passes (s.sealPages 0x8A true ((s.readG 7).toNat / 65536 + 2) (s.readG 6).toNat
       (min ((s.readG 6).toNat + (s.readG 7).toNat - 1) (2 ^ 64 - 1))) (fun ps => ps.length = 1 ∧ (granulesOf ps).all (ownB s)) = true) ∧
    (1 : BitVec 4).toNat ≤ 1 ∧ 2 ≤ (2 : BitVec 4).toNat := by decide

/-- The sectors of an element's accesses lie in the own slice. -/
def ownElems (s : State) (x : List Elem × Option TrapInfo) : Bool :=
  x.2.isNone && !x.1.isEmpty && x.1.all fun e => e.2.all fun p => ownB s p && ownB s { p with ga := p.ga / 32 * 32, n := 32 }

theorem test_witness_VectorMemory :
    (let s := spread [(6, 0x20000), (7, 8), (8, 0x200000), (9, 0x800000)]
     let addr (a : Word) (j : Nat) : Word := a + BitVec.ofNat 64 (j * 2 ^ 3)
     Issues s [.wV 5, .rG 1 6] ∧ Issues s [.wV 5, .rG 1 6, .rG 2 7] ∧ Issues s [.wV 5, .rG 1 6, .rV 2 7] ∧ Issues s [.rV 0 5, .rG 1 6, .rV 2 7] ∧
       s.ctx.vstart.bits 0 6 < 512 / (8 * 2 ^ (3 : BitVec 2).toNat) ∧ s.ctx.sentLoads = ([], [], 0, none) ∧ s.ctx.holds = false ∧
       s.ctx.sentBefore = 0 ∧ s.mem.wf = true ∧ s.migrations = [] ∧ s.mem.sealed = [] ∧
       ownElems s (s.translateElems 0xE0 8 .load (addr (s.readG 6)) (s.elements 0 3)) = true ∧
       ownElems s (s.translateElems 0xE1 8 .store (addr (s.readG 6)) (s.elements 0 3)) = true ∧
       (let x := s.translateElems 0xE0 8 .load (addr (s.readG 8)) (s.elements 0 3)
        x.2 = none ∧ x.1 ≠ [] ∧ ((messagesOf x.1).all fun m => remoteB s m.first && !m.first.x.seal) = true ∧
          s.inFlight + (messagesOf x.1).length ≤ Config.outstanding) ∧
       (let x := s.translateElems 0xE1 8 .store (addr (s.readG 9)) (s.elements 0 3); x.1 = [] ∧ x.2.isSome = true)) ∧
    (let s := ctl mapped fun c => { c with vstart := 8 }; Issues s [.wV 5, .rG 1 6] ∧ 512 / (8 * 2 ^ (3 : BitVec 2).toNat) ≤ s.ctx.vstart.bits 0 6) := by
  decide

/-! ### Fences, barriers and collective branches -/

theorem test_witness_IssueTraps_window : (speculating []).ctx.spec.length = 1 ∧ readPriv 0x112 = true := by decide

theorem test_witness_FencesOrder :
    (Issues mapped [] ∧ Issues mapped [.rG 1 6, .rG 2 7] ∧ mapped.ctx.report = none ∧ mapped.storesClear mapped.cur 9 = true ∧
      mapped.storesClear mapped.cur 1 = true ∧ mapped.enginesClear mapped.cur = true ∧ mapped.inFlight ≤ Config.outstanding) ∧
    (let s := mapped.asked ⟨0x200000, mapped.ownBase + 2 ^ 33, .access (.write [(0, 1)]), true, false⟩
     Issues s [] ∧ s.storesClear s.cur 9 = false ∧ (∃ r ∈ s.net, r.ctx = s.cur ∧ r.gen = s.ctx.gen ∧ r.posted = true ∧
       s.inScope r.ga 9 = true)) ∧
    (let s := after (.mzero 1 .none) mapped; Issues s [] ∧ s.enginesClear s.cur = false) ∧
    (let s := ctl mapped fun c => { c with pending := some ⟨0, false, 17, 0, 0x20000, 0⟩ }
     Issues s [] ∧ s.ctx.report.isSome = true ∧ s.storesClear s.cur 9 = true ∧ s.enginesClear s.cur = true) := by decide

/-- Context 0 alone in the barrier of scope 1, with `bar`, and with `barv`. -/
noncomputable def atBar : State := after (.bar 1) mapped
noncomputable def atBarv : State := after (.barvAdd 5 6 1) (withG [(6, 7)])

theorem test_witness_BarriersMeet :
    (Issues mapped [] ∧ Issues mapped [.wG 5, .rG 1 6] ∧ mapped.ctx.report = none ∧ mapped.storesClear mapped.cur 1 = true ∧
      (1 : BitVec 4) ≠ 0 ∧ mapped.governing 1 ≠ 0) ∧
    (let s : State := { mapped with regs := { mapped.regs with barcfg := 0 } }; Issues s [.wG 5, .rG 1 6] ∧ s.governing 1 = 0) ∧
    ((atBar.barrier 1).signalled = true ∧ (atBar.barrier 1).field = 1 ∧ atBar.arrivedAt 1 = [0] ∧
      (atBar.at 0).block.isSome = true ∧ ((atBar.at 0).block.map (·.wait)) = some (.bar 1 none)) ∧
    ((atBarv.barrier 1).signalled = true ∧ (atBarv.barrier 1).field = 1 ∧ atBarv.arrivedAt 1 = [0] ∧
      ((atBarv.at 0).block.map (·.wait)) = some (.bar 1 (some (5, .add, 7))) ∧ ∀ v ∈ (atBarv.barrier 1).vals, v.1 = .add) ∧
    (let s := (ctl mapped fun c => { c with block := some ⟨.bar 2 none, 0, []⟩ }).setBarrier 2 fun b => { b with field := 1, members := [(0, 0)] }
     (s.barrier 2).signalled = false ∧ (s.barrier 2).field ≠ 0 ∧ (s.barrier 2).field ≤ (s.barrier 2).members.length ∧
       (s.barrier 2).members.length < ((s.setBarrier 2 fun b => { b with field := 2 }).barrier 2).field) ∧
    (1 ≠ mapped.lcore ∧ (1 : BitVec 29).toNat ∉ (mapped.barrier 1).others ∧ (mapped.barrier 1).signalled = false) := by decide

theorem test_witness_CollectivesArrive :
    (let s := spread [(6, 3), (7, 2)]
     Issues s [.wG 5, .rG 1 6, .rG 2 7] ∧ Issues s [.rG 0 6] ∧ Issues s [.rG 0 5] ∧ s.ctx.inGroup = false ∧ s.readG 5 = 0 ∧
       s.readG 7 ≠ 0 ∧ (s.readG 7).toNat < 2 ^ 33 ∧ s.groups.length < 8 ∧ s.ctx.report = none ∧ s.readG 6 ≠ 0 ∧
       s.checkTarget (Claims.target (0 : BitVec 26) s) = none ∧
       s.checkTarget (Claims.target (1 : BitVec 26) s) = some ⟨4, 0, some 0x10004, 0, none⟩) ∧
    (let s := grouped []
     Issues s [.wG 5] ∧ s.ctx.inGroup = true ∧ s.ctx.brk = 0 ∧ s.ctx.voted = false ∧ 0 < s.ctx.count.toNat ∧
       (s.groups.all fun g => g.broken.isNone && g.arrivals.isEmpty) = true ∧
       (ctl s fun c => { c with cgrp := c.cgrp.setBits 61 2 1 }).ctx.brk ≠ 0) ∧
    (let s := speculating []
     s.canIssue .free [.rG 0 0] false = true ∧ s.ctx.report = none ∧ s.ctx.inGroup = true ∧ s.ctx.brk = 0 ∧ s.ctx.spec.length = 1 ∧
       s.checkTarget (Claims.target (0 : BitVec 26) s) = none) ∧
    (let s := after (.cbrAny 0 false 0) (speculating [])
     s.canIssue .free [.rG 0 0] false = true ∧ s.ctx.spec.length = 2 ∧ s.ctx.brk = 0) := by decide

/-- One member of a group of one waits in `cred.add`. -/
noncomputable def reducing : State := after (.credAdd 5 6) (after (.cjoin 5 30 29 0) (withG [(30, 3), (29, 1), (6, 7)]))

theorem test_witness_CollectivesResolve :
    (let s := grouped []
     s.group 3 1 = none ∧ there (s.group 3 0) (fun g => g.broken = none ∧ g.arrivals = [] ∧ g.members = [0] ∧
         g.complete = false) = true ∧
       (s.at 0).brk = 0 ∧ (s.at 0).inEpisode = false) ∧
    (let s := reducing
     there (s.group 3 0) (fun g => g.complete = true ∧ g.members = [0] ∧ g.early = [] ∧
         g.arrivals.map (·.2.2) = [.cred .add 7]) = true ∧
       (s.at 0).spec = [] ∧ there ((s.at 0).block) (fun b => b.wait = .cred 5 ∧ b.srcs = []) = true) ∧
    (let s := speculating []
     (s.at 0).spec.length = 1 ∧ s.dbg.sessions = [] ∧ (s.at 0).block = none ∧ ((s.at 0).spec.map (·.hint)) = [false]) ∧
    (let s := speculating []
     let s : State := { s with regs := { s.regs with tvec := 0x10000 } }
     there (s.group 3 0) (fun g => g.members = [0]) = true ∧ (s.at 0).brk = 0 ∧ (s.at 0).inEpisode = true ∧ s.dbg.brkh = false ∧ s.regs.tvec ≠ 0) := by decide

/-! ### The matrix unit -/

/-- A layout-table entry of rank 2, 64 by 64 elements of a size code in the scratchpad. -/
def square (es : Nat) : Layout :=
  (((Vector.replicate 16 (0 : Word)).set 1 (BitVec.ofNat 64 (1 + es * 2 ^ 8 + 2 * 2 ^ 16))).set 2 (BitVec.ofNat 64 (64 + 2 ^ 20))).set 3
    (BitVec.ofNat 64 (64 + 64 * 2 ^ 20))

/-- The first entries of the layout table given. -/
def withLayouts (s : State) (l : List Layout) : State :=
  s.withEng fun e => { e with layouts := (l.zipIdx).foldl (fun t p => upd t p.2 p.1) e.layouts }

/-- Every tile's width code, every accumulator's kind, and a word staged for q2. -/
def shaped (a b kind : Nat) (l : List Layout) (q : Word) : State :=
  let s := withLayouts (withG [(6, 7)]) l
  let s : State := { s with regs := { s.regs with
    tshape := ((Vector.replicate 8 (BitVec.ofNat 64 (0x2040 + a * 2 ^ 16))).set 4 (BitVec.ofNat 64 (0x2040 + b * 2 ^ 16))).set 5
      (BitVec.ofNat 64 (0x2040 + b * 2 ^ 16))
    acfg := .replicate 4 (BitVec.ofNat 64 kind) } }
  ctl s fun c => { c with stage := upd c.stage 2 [q] }

/-- The queue is full. -/
noncomputable def queueFull (s : State) : State :=
  let t := after (.mzero 3 .none) s
  t.withMx fun m => { m with queue := m.queue.flatMap (List.replicate 16) }

def tiny : MmaArgs := ⟨0, 0, 4, 0, 0, 0, false, false, true, false⟩

theorem test_witness_MatrixQueues :
    ((∀ op ∈ [0xA2, 0xA3, 0xA4, 0xA5, 0xA6, 0xA7, 0xA8, 0xA9, 0xAA, 0xAB, 0xAC], there (pairOf op) (fun p =>
        let s := shaped (fmtEw p.a) (fmtEw p.b) p.kind [] 0
        s.mmaFault op tiny false = none ∧ s.mx.queue.length < Config.stageDepth ∧ (s.mmaFault op { tiny with nc := 4 } false).isSome = true) = true) ∧
      Issues (shaped 2 2 0 [] 0) [.acc 0 0, .tile 1 0, .tile 2 4] ∧ Issues (shaped 2 2 0 [] 0) [.acc 0 0, .tile 1 0, .rF 3 15]) ∧
    (let s := queueFull (shaped 2 2 0 [] 0)
     s.mmaFault 0xA2 tiny false = none ∧ Config.stageDepth ≤ s.mx.queue.length ∧ Issues s [.tile 0 7]) ∧
    (let s := shaped 2 2 0 [square 2, square 3] 64
     (s.words 2).head? = some 64 ∧ readOutBad (streamFmt 64) (streamRm 64) (streamShift 64) = false ∧ s.mmaFault 0xA2 tiny true = none ∧
       there (pairOf 0xA2) (fun p => streamServes p tiny 64 (s.layout (streamSlt 64)) (s.layout (streamDlt 64))) = true ∧
       mstMc 64 ≠ 3 ∧ mstNc 64 ≤ 3 ∧ (s.layout 1).serves (readEs 0) ((mstBox 64 false).map (·.2.2)) = true) ∧
    ((ctl (shaped 2 2 0 [] 0) fun c => { c with stage := .replicate 4 [] }).words 2 = []) := by decide

theorem test_witness_MatrixQueues_moves :
    (let s := withLayouts mapped [square 2]
     let s : State := { s with regs := { s.regs with tshape := .replicate 8 0x20402 } }
     Issues s [.tile 0 1] ∧ s.moveFault 1 (s.layout 0) 0 0 false = none ∧ (s.moveFault 1 (s.layout 1) 0 0 false).isSome = true) := by decide

theorem test_witness_MatrixReads :
    (Issues mapped [.wV 5] ∧ mapped.met .none = true ∧ mapped.owners 3 = [] ∧ mapped.mx.queue = [] ∧ mapped.ctx.report = none ∧
      mapped.met ⟨true, 3, 1, false, 0, 0⟩ = false ∧ Issues mapped [.wG 5, .acc 1 3] ∧ 15 < 512 / readBits 0) ∧
    (let s := after (.mzero 3 .none) mapped
     s.met .none = true ∧ s.owners 3 ≠ [] ∧ s.ctx.block = none ∧ (∃ c ∈ s.mx.queue, c.id < s.seqNo) ∧ ∃ c ∈ s.owners 3, c.id < s.seqNo) ∧
    (let s := withG [(6, 32768), (7, 32767)]
     Issues s [.wG 5, .rG 1 6, .rG 2 7, .rG 3 8] ∧ s.coreOfJob ((s.readG 6).bits 0 29) = false ∧
       s.coreOfJob ((s.readG 7).bits 0 29) = true ∧ s.inFlight < Config.outstanding) ∧
    (let s : State := { mapped with regs := { mapped.regs with mcap := 9 } }
     s.regs.mcap.bits 0 32 ≠ 0 ∧ s.regs.mcap.bits 0 32 = (9 : BitVec 32).toNat ∧ s.regs.mcap.bits 0 32 ≠ (8 : BitVec 32).toNat ∧
       passes (s.remoteCmd 0xA1 0 0x8000000000000000) (fun _ => true) = true ∧ s.mx.waiting = [] ∧ s.mx.queue.length < Config.stageDepth ∧
       (s.at 0).status.bit 11 = false) := by decide

theorem test_witness_MatrixRuns :
    (mapped.mxReady.isNone = true ∧ (splitAt 5 [] mapped.mx.queue).isNone = true ∧ mapped.dbg.clusterHalted = false ∧ mapped.mx.active = false ∧
      allowance mapped.units.rampup 3 mapped.guard.capped ≤ 2048 ∧ pairOf 0xA7 = some ⟨8, 8, 64, 1, false⟩ ∧ (3 : Field).toNat < 4) ∧
    (let s := after (.mzero 3 .none) mapped
     there s.mxReady (fun x => x.1 = [] ∧ x.2.1.what.streams = false ∧ x.2.2 = []) = true) ∧
    (let s := (after (.mzero 3 .none) mapped).withMx fun m => { m with queue := m.queue.map fun c => { c with started := true } }
     there (splitAt mapped.seqNo [] s.mx.queue) (fun x => x.1 = [] ∧ x.2.1.started = true ∧ x.2.1.ran = none ∧
       x.2.1.failed = false ∧ x.2.1.what.streams = false ∧ x.2.1.rpt = false ∧ x.2.1.y.se = false ∧ x.2.1.note = none) = true) ∧
    (let s := mapped.withMx fun m => { m with active := true }
     s.mx.active = true ∧ s.mxReady.isNone = true ∧ s.mx.queue = [] ∧ 0 < allowance s.units.rampdn 3 s.guard.capped ∧
       allowance s.units.rampdn 3 s.guard.capped ≤ 2048) := by decide

/-! ### The engines -/

/-- A layout-table entry of rank 1, 64 elements of a size code in a space. -/
def row (es space : Nat) : Layout :=
  ((Vector.replicate 16 (0 : Word)).set 1 (BitVec.ofNat 64 (space + es * 2 ^ 8 + 2 ^ 16))).set 2 (BitVec.ofNat 64 (64 + 2 ^ 20))

def staged (s : State) (q : Nat) (l : List Word) : State := ctl s fun c => { c with stage := upd c.stage q l }

theorem test_witness_EnginesQueue :
    (let s := staged (withLayouts mapped [row 3 1, row 3 0, row 1 1, row 2 1]) 0 [1]
     let t := (after (.cpy 0 1 1 false false .none) s)
     let u := staged (t.withEng fun e => { e with copy := e.copy.flatMap (List.replicate 16) }) 0 [1]
     Issues s [] ∧ Issues u [] ∧ (s.layout 0).valid = true ∧ (s.layout 1).valid = true ∧ (s.layout 0).es = (s.layout 1).es ∧ (s.layout 1).space = 0 ∧
       (s.layout 0).es = cpyrEs 0 ∧ (s.layout 1).es = cpyrEs 0 ∧ (s.words 0).length = 1 ∧ (EngOp.cpy (s.layout 0) (s.layout 1) [1] 0).size ≤ 2 ^ 32 - 1 ∧
       s.eng.copy.length < Config.stageDepth ∧ Config.stageDepth ≤ u.eng.copy.length ∧ (u.words 0).length = 1 ∧ (s.layout 9).valid = false ∧
       (let r := staged s 0 [0xFFFFF0000000000, 0xFFFFF0000000000]; 2 ^ 32 - 1 < (EngOp.cpy (r.layout 0) (r.layout 1) (r.words 0) 0).size) ∧
       (s.layout 0).rank = 1 ∧ (s.layout 2).es = 1 ∧ (s.layout 2).stride 0 = 1) ∧
    (let s := { spread [(6, 1), (7, 0x20000), (8, 64), (9, 2 ^ 63)] with launch := { mapped.launch with nx := 1, ny := 1 } }
     Issues s [.wG 5, .rG 1 6, .rG 2 7, .rG 3 8] ∧ (s.readG 5).bits 0 24 = 0 ∧ (s.readG 8).bits 0 24 ≠ 0 ∧ (s.readG 9).bit 63 = true ∧
       s.coreOfJob ((s.readG 6).bits 0 29) = true ∧ s.inFlight < Config.outstanding ∧
       passes (s.kickSource (s.readG 7) ((s.readG 8).bits 0 24)) (fun t => s.storesTo t.ga = false) = true) ∧
    (7 : BitVec 4).toNat.testBit 0 = true ∧ (7 : BitVec 4).toNat.testBit 3 = false := by decide

theorem test_witness_SemaphoresAndLayouts :
    (let s := mapped.putSem 3 5
     Issues s [] ∧ Issues s [.wG 5] ∧ Issues s [.rG 1 6] ∧ s.sem 3 = 5 ∧ (5 : BitVec 16).toNat ≤ s.sem (3 : BitVec 8).toNat ∧
       s.sem (4 : BitVec 8).toNat < (1 : BitVec 16).toNat ∧ 65535 < s.sem 3 + 65535 ∧ s.regs.semstat.bit 8 = false ∧ s.eng.kicks.length < Config.kickDepth ∧
       (∀ i, (s.at i).block = none) ∧ s.eng.copy = [] ∧ s.eng.gather = [] ∧ s.eng.event = [] ∧ s.mx.queue = []) ∧
    (let s := spread [(6, 0x20000)]
     let t : State := { s with mem := (s.mem.write 0x20008 8 (0x10301)).write 0x20010 8 (64 + 2 ^ 20) }
     let l (s : State) (ps : List Piece) : Layout := .ofFn fun i => BitVec.ofNat 64 (ofBytes (((ps.flatMap fun p =>
       bytesOf (s.mem.read p.ga p.n) p.n).drop (8 * i.val)).take 8))
     Issues s [.rG 1 6] ∧
       passes (s.translateAll .load 0xBB 0 (.plain 128) (pieces 9 (s.readG 6) 128)) (fun ps => ps.all (ownB s) ∧ (l s ps).loads = false) = true ∧
       passes (t.translateAll .load 0xBB 0 (.plain 128) (pieces 9 (t.readG 6) 128)) (fun ps => ps.all (ownB t) ∧ (l t ps).loads = true) = true) := by decide

theorem test_witness_EnginesRun :
    (mapped.eng.queueOf false = []) ∧
    (let s := after (.cpy 0 1 1 false false .none) (staged (withLayouts mapped [row 3 1, row 3 0]) 0 [1])
     there (s.eng.queueOf false).head? (fun c => c.started = false ∧ c.after = [] ∧ s.met c.y = true ∧ c.failed = false ∧ c.ran = false ∧
       c.rpt = false ∧ c.y.se = false ∧ c.owner = some (0, 0)) = true ∧ s.mem.frozen = [] ∧ (s.at 0).live = true ∧ (s.at 0).gen = 0) ∧
    (let s := (after (.pull 0 0 0 false .none) (withLayouts mapped [row 1 1])).withEng fun e => { e with kicks := [⟨0, 1, false, 0, 0⟩] }
     there (s.eng.queueOf false).head? (fun c => c.started = false ∧ c.after = []) = true ∧ s.eng.kicks ≠ []) ∧
    boxSize [0x10000000000] = 1 ∧ (row 3 1).locate ([0xFFFFF].map dimSc) = none ∧
    there ((row 3 1).locate ([(0 : Word)].map dimSc)) (fun p => inSpad p.addr) = true ∧ (row 3 1).space = 1 := by decide

/-! ### Bank conflicts (R242, R408) -/

/-- R408: the beat of channels 0 to 15 at a spacing of 1,021 bytes takes 5 cycles. -/
theorem test_bank_conflict : sideExtra 0 ((List.range 16).map fun c => 1021 * c / 4) = 4 := by decide

/-- R408: at a spacing of 65 bytes their banks are distinct. -/
theorem test_bank_diagonal : sideExtra 0 ((List.range 16).map fun c => 65 * c / 4) = 0 := by decide

/-! ### The Drone -/

/-- Object 3 with a state of so many words and two slots, at 0x30000. -/
def withObject (sw : Nat) (l : List (Nat × Nat)) : State := ((withG l).create 3 0x30000 (BitVec.ofNat 64 (sw * 256 + 2 * 8192))).1

/-- An event for it. -/
def anEvent : Ev := ⟨3, 0, 0, 5, false, 0, 0, [1, 2, 3, 4], false, 0⟩

theorem test_witness_DroneObjects :
    (let s := withObject 4 [(6, 3), (7, 0x3F800000), (8, 9), (9, 0x7FC00000), (10, 2)]
     Issues s [.rG 1 6, .rG 2 7] ∧ Issues s [.wV 5, .rG 1 6, .rG 2 7] ∧ Issues s [.wG 5, .rG 1 6, .rG 2 7] ∧ Issues s [.wF 5, .rG 1 6] ∧
       Issues s [.rV 0 5, .rG 1 6] ∧ Issues s [.rF 0 5, .rG 1 6] ∧ objIndex (s.readG 6) = 3 ∧ dirSt (s.dir 3) = 1 ∧ dirSt (s.dir 9) = 0 ∧
       objIndex (s.readG 8) = 9 ∧ leakBad ((s.readG 7).bits 0 32) = false ∧ leakBad ((s.readG 9).bits 0 32) = true ∧ hdSw (s.hd 3 0) = 4 ∧
       (s.readG 5).toNat < hdNs (s.hd 3 0) ∧ ¬ (s.readG 10).toNat < hdNs (s.hd 3 0)) ∧
    (let s := withObject 20 [(6, 3)]
     Issues s [.wV 30, .rG 1 6] ∧ 16 < hdSw (s.hd 3 0) ∧ (30 : Field).toNat + 1 < 8 * s.ctx.vn ∧ 31 ≤ (31 : Field).toNat ∧ Issues s [.wV 31, .rG 1 6]) := by
  decide

theorem test_witness_DroneInstructions :
    (let s := withG [(5, 2 ^ 63 + 3), (6, 0x30000), (7, 4 * 256), (8, 32768 * 4096), (9, 0), (10, 65536), (11, 16)]
     Issues s [.rG 0 5, .rG 2 6, .rG 3 7] ∧ Claims.named s (s.readG 5) ∧ ¬ Claims.named s (s.readG 8) ∧ (s.readG 7).bits 0 2 ≠ 3 ∧
       1 ≤ (s.readG 7).bits 8 5 ∧ (s.readG 7).bits 8 5 ≤ 28 ∧ (s.readG 9).bits 8 5 < 1 ∧
       passes (s.translate s.cur (s.readG 6) 1 .store 0xC0 0) (fun t => t.ga % 32 = 0 ∧
         inSlice (s.sliceOf (Claims.names s (s.readG 5))) t.ga (recordSize ((s.readG 7).bits 8 5) ((s.readG 7).bits 13 6)) = true) = true ∧
       s.eng.event.length < Config.stageDepth ∧ 65535 < (s.readG 10).toNat ∧ (s.readG 11).toNat ≤ 65535 ∧
       passes (s.translate s.cur (s.readG 6) 1 .load 0xC8 0) (fun t => t.ga % 16 = 0 ∧
         inSlice s.ownBase t.ga (16 * (s.readG 11).toNat) = true) = true) := by
  refine ⟨by decide, Or.inl (by decide), fun h => h.elim (by decide) (by decide), ?_⟩
  decide

theorem test_witness_DroneInstructions_rest :
    (let s := withObject 4 [(5, 2 ^ 63 + 3), (6, 0x30000), (11, 16)]
     Issues s [.rG 0 5, .rG 2 6, .rG 3 11] ∧ dirSt (s.dir ((s.readG 5).bits 0 12)) ≠ 0) ∧
    (let s := after (.odel 5 false .none) (withG [(5, 2 ^ 63 + 3)])
     let t := s.withEng fun e => { e with event := e.event.flatMap (List.replicate 16) }
     Issues t [.rG 0 5] ∧ Config.stageDepth ≤ t.eng.event.length) ∧
    Issues mapped [.rG 0 5, .rG 2 6, .rF 3 7] ∧ Issues mapped [.rG 0 5, .rG 2 6, .rV 3 30] ∧ (30 : BitVec 6).toNat + 1 < 8 * mapped.ctx.vn ∧
    Issues mapped [.wV 5, .rV 1 6, .rV 2 7, .rF 3 8] ∧ Issues mapped [.wG 5, .rG 1 6, .rG 2 7] ∧ Issues mapped [.rG 1 6, .rG 2 7, .rF 3 8] ∧
    (let s := withG [(6, 0xFFFFFFFF), (7, 5), (8, 0x12), (9, 0x3000)]
     let past (x y : Nat) : Prop := 1 ≤ (y + 2 ^ 32 - x) % 2 ^ 32 ∧ (y + 2 ^ 32 - x) % 2 ^ 32 < 2 ^ 31
     past ((s.readG 6).bits 0 32) (s.regs.etime.bits 0 32) ∧ ¬ past ((s.readG 7).bits 0 32) (s.regs.etime.bits 0 32) ∧
       past (s.regs.etime.bits 0 32) ((s.readG 7).bits 0 32) ∧ s.readG 5 = 0 ∧ s.readG 6 ≠ 0 ∧ (s.readG 8).bits 0 3 = 2 ∧
       (s.readG 8).bits 4 3 = 1 ∧ (s.readG 8).bits 12 2 ≠ 3 ∧ (s.readG 9).bits 0 3 = 0) ∧
    (mapped.regs.etcfg.bit 16 = false ∧ (let s : State := { mapped with regs := { mapped.regs with etcfg := 65536 } }
      Issues s [.wG 5] ∧ s.regs.etcfg.bit 16 = true ∧ s.writingBack = false)) := by decide

theorem test_witness_FrontEndRuns :
    (let s := withObject 4 []
     s.drone.pending.length < pendingDepth ∧ (s.now + 2 ^ 32 - (0xFFFFFFFF : BitVec 32).toNat) % 2 ^ 32 = 1 ∧
       ((5 : BitVec 32).toNat + 2 ^ 32 - s.now) % 2 ^ 32 < 2 ^ 31 ∧ s.nextDue = none ∧ s.startableHandler = none ∧ s.eng.event = [] ∧
       dirSt (s.dir 3) = 1 ∧ dirGen (s.dir 3) = 0 ∧ dirSt (s.dir 4) ≠ 1 ∧ hdNs (s.hd 3 0) = 2 ∧ hdSw (s.hd 3 0) = 4 ∧ hdKind (s.hd 3 0) ≠ 2 ∧
       slice (s.tagOf 3 0) 62 2 ≠ 1 ∧ s.regs.etcfg.bits 0 16 = 0 ∧ s.writingBack = false) ∧
    (let s := (withObject 4 []).withDrone fun d => { d with pending := [⟨0, true, anEvent⟩, ⟨1, false, anEvent⟩] }
     s.nextDue = some ⟨0, true, anEvent⟩ ∧ s.held = false ∧ s.dbg.clusterHalted = false) ∧
    (let s := (withObject 4 []).withDrone fun d =>
       { d with residual := [(3, 0, 0)], phase := 9, handlers := upd d.handlers 0 ⟨true, here, 1, 0, 0, 0, 0, 0, false⟩ }
     let t : State := { s with regs := { s.regs with etcfg := 9 } }
     let u : State := { s with regs := { s.regs with etcfg := 65536 } }
     s.startableHandler = some (3, 1) ∧ ((s.leaveQueue 3).handler (hdType ((s.leaveQueue 3).hd 3 0))).valid = true ∧
       t.regs.etcfg.bits 0 16 ≠ 0 ∧ t.regs.etcfg.bits 0 16 ≤ t.drone.phase ∧ u.writingBack = true ∧ u.held = true) ∧
    (let s := after (.odel 5 false .none) (withG [(5, 2 ^ 63 + 3)])
     there s.eng.event.head? (fun c => c.started = false ∧ c.after = [] ∧ s.met c.y = true ∧ c.req = none ∧ c.results = [] ∧ c.fault = none ∧
       c.y.se = false) = true) := by decide

/-! ### Tasks and work queues -/

/-- A bound queue of four items, one of them in it. -/
def aQueue : BoundQueue := ⟨5, 0x40000, 2, 0, 1, 0, 0, 0, 0, 0⟩

theorem test_witness_TasksAndQueues :
    (let s := spread [(6, 0x20000), (7, 5), (8, 0x2000), (9, 0x20008), (10, 0x200000)]
     Issues s [.wG 5, .rG 1 6, .rG 2 7] ∧ Issues s [.rG 1 6] ∧ s.inFlight < Config.outstanding ∧ (s.readG 7).bits 13 3 = 0 ∧
       (s.readG 8).bits 13 3 ≠ 0 ∧ s.ctx.qlast.bit 63 = false ∧
       passes (s.translate s.cur (s.readG 6) 8 .atomic 0xD0 0) (fun t => (s.readG 6).toNat % 64 = 0 ∧ gaSpace t.ga = 0 ∧ s.deadHome t.ga = none) = true ∧
       passes (s.translate s.cur (s.readG 6) 8 .atomic 0xD1 0) (fun t => (s.readG 6).toNat % 64 = 0 ∧ gaSpace t.ga = 0 ∧ s.deadHome t.ga = none) = true ∧
       passes (s.translate s.cur (s.readG 9) 8 .atomic 0xD1 0) (fun _ => (s.readG 9).toNat % 64 ≠ 0) = true ∧
       passes (s.translateAll .load 0xD6 0 (.plain 64) (pieces 9 (s.readG 6) 64)) (fun ps => ps.all (ownB s)) = true) ∧
    (let s := ctl mapped fun c => { c with qlast := BitVec.ofNat 64 (2 ^ 63 + 5 * 2 ^ 32) }
     Issues s [] ∧ s.ctx.qlast.bit 63 = true ∧ s.ctx.qlast.bit 62 = false) ∧
    (let s : State := { mapped with queues := [aQueue] }
     s.queueOf 5 = some aQueue ∧ s.queueOf 6 = none ∧ aQueue.head ≠ aQueue.tail ∧ aQueue.tail - aQueue.head ≠ BitVec.ofNat 64 (2 ^ aQueue.log2) ∧
       (let q := { aQueue with tail := 4 }; q.tail - q.head = BitVec.ofNat 64 (2 ^ q.log2))) ∧
    (mapped.launch.acked = false ∧ mapped.recordError (mapped.moved 0x20000) = none ∧ mapped.mem.frozen.contains (granule 0x20000) = false ∧
      (let w := mapped.taskWord (mapped.moved 0x20000) 4; recState w ≠ 1 ∧ recState w ≠ 2 ∧ recState w ≠ 3 ∧ recSn w = 0) ∧
      (let s : State := { mapped with mem := mapped.mem.write 0x20020 8 (2 ^ 36 + 2 ^ 45) }; recState (s.taskWord 0x20000 4) = 1 ∧
        recPred (s.taskWord 0x20000 3) ≠ 1) ∧
      (let s : State := { mapped with mem := mapped.mem.write 0x20020 8 (2 ^ 36) }; recState (s.taskWord 0x20000 4) = 0 ∧ recSn (s.taskWord 0x20000 4) = 1)) ∧
    (let s : State := { mapped with mem := mapped.mem.write 0x20020 8 (2 ^ 36 + 2 * 2 ^ 45), tasks := { mapped.tasks with lists := .replicate 4 [0x20000] } }
     s.startableTask.isSome = true ∧ s.mem.wf = true ∧ s.migrations = []) ∧
    (mapped.startableTask = none ∧ (∀ i, (mapped.at i).works 5 = false) ∧ ∀ i, (mapped.at i).block = none) := by decide

/-! ### Messages, migration, resets and the host -/

/-- A `resync` waits, and its answer has come. -/
noncomputable def answered : State :=
  let s := after (.resync 5 6) (spread [(6, 0x20000)])
  { s with net := s.net.map fun q => { q with stage := .replied (.data 9) } }

/-- A migration of a page of the machine's. -/
def moving (frozen forwarding : Bool) : State :=
  { mapped with migrations := [⟨⟨0x10000, 0x103F, 2 ^ 62, 0x100000, 16, none, 0⟩, [], 0, frozen, forwarding⟩] }

theorem test_witness_MessagesArrive :
    (let s := ctl { mapped with units := { mapped.units with pcyc := 5 } } fun c => { c with dtime := 5 }
     (s.at 0).live = true ∧ (s.at 0).dtime ≠ 0 ∧ (s.at 0).dtime.toNat ≤ s.units.pcyc.toNat ∧ (mapped.at 0).dtime = 0 ∧ s.stopped 0 = false) ∧
    (let s : State := { mapped with mem := { mapped.mem with poison := [0x4001] } }
     gaSpace 0x20000 = 0 ∧ s.closedAt (gaPkg 0x20000) (gaCore 0x20000) = none ∧ s.unserved 0x20000 = false ∧ s.launch.acked = false ∧
       s.moved 0x20000 = 0x20000 ∧ s.mem.frozen.contains (granule 0x20000) = false ∧
       (∀ i < 8, s.mem.poison.contains ((0x20000 + i) / 8) = false) ∧ (∃ i < 16, s.mem.poison.contains ((0x20000 + i) / 8) = true)) ∧
    (let s := after (.hcall 5 6 7) mapped
     there s.net.head? (fun q => there (s.arriving q.id) (fun r => match r.msg with
       | .hcall .. => true
       | _ => false)) = true ∧ s.arriving (s.seqNo + 1) = none ∧ s.net.find? (·.id == s.seqNo + 1) = none) ∧
    (let s := answered
     there s.net.head? (fun q => q.stage = .replied (.data 9) ∧ q.posted = false ∧ s.eng.event = [] ∧ q.ctx = 0 ∧ (s.at 0).live = true ∧
       (s.at 0).gen = q.gen ∧ there (s.at 0).block (fun b => b.wait = .reply [q.id] [] (.write 5)) = true ∧ s.net.length = 1) = true) ∧
    (let s : State := { answered with net := answered.net.map fun q => { q with stage := .refused } }
     there s.net.head? (fun q => q.stage = .refused ∧ q.tries < s.regs.rnrlim.bits 0 8) = true) ∧
    (∀ q ∈ mapped.net, q.stage ≠ .listed) ∧
    (passes (mapped.translate mapped.cur 0x20000 1 .load 0 0) (fun t => mapped.leaving t.x = false) = true ∧
      passes (mapped.translate mapped.cur 0x800000 1 .load 0 0) (fun _ => true) = false ∧
      (let s := (after (.tlbInvalidation 0x20000 1 false) mapped)
       passes (s.translate s.cur 0x20000 1 .load 0 0) (fun t => s.leaving t.x = true) = true)) ∧
    (mapped.migrations = [] ∧ (∃ x ∈ (moving false false).migrations, x.m.old = 2 ^ 62) ∧ mapped.mem.wf = true ∧
      (0x100000 : Nat) + 2 ^ 16 ≤ 2 ^ 62 ∧ mapped.migration 0x10000 = none) ∧
    (there ((moving false false).migration 0x10000) (fun x => x.frozen = false ∧ x.forwarding = false ∧ x.marked.length ≤ 64) = true ∧
      there ((moving true false).migration 0x10000) (fun x => x.frozen = true ∧ x.forwarding = false) = true ∧
      there ((moving false true).migration 0x10000) (fun x => x.forwarding = true ∧ x.m.sem = none) = true ∧
      (moving false true).shotDown 0x10000 = true) := by decide

/-- A launch record at 0x40000 of a job of one package, its firmware verified and its clusters with power. -/
def record : State :=
  { State.reset with
    mem := State.reset.mem.write 0x40028 8 (2 ^ 56 + 2 ^ 48), guard := { State.reset.guard with security := 0, offClusters := [] } }

/-- No job runs. -/
def idle : State := { mapped with launch := { mapped.launch with state := 0 } }

/-- One request of context 0, which waits for it, to a home of another package, or of another cluster of this one. -/
def waiting (ga : Nat) (doubt : List (BitVec 18)) : State :=
  ctl { mapped with net := [⟨5, 0, 0, ga, 0x20000, here, .access (.read 8), false, false, 0, doubt, .sent, 0⟩] } fun c =>
    { c with block := some ⟨.reply [5] [] (.write 5), 0, []⟩ }

theorem alone_of {s : State} {q : Request} (h : s.net = [q]) (w : (!q.posted && q.tries == 0 && s.eng.event.isEmpty &&
      (s.at q.ctx).live && (s.at q.ctx).gen == q.gen && (s.at q.ctx).block == some ⟨.reply [q.id] [] (.write 5), 0, []⟩ &&
      (allCtx.all fun j => j == q.ctx || (s.at j).block.isNone)) = true)
    (e : ∀ a x, q.msg ≠ .event a x) : Claims.alone s q := by
  simp only [Bool.and_eq_true, beq_iff_eq, List.isEmpty_iff, List.all_eq_true, Bool.or_eq_true, Option.isNone_iff_eq_none,
    Bool.not_eq_true'] at w
  obtain ⟨⟨⟨⟨⟨⟨h1, h2⟩, h3⟩, h4⟩, h5⟩, h6⟩, h7⟩ := w
  exact ⟨h, h1, h2, e, h3, h4, h5, ⟨5, 0, [], h6⟩, fun j n => (h7 j (List.mem_finRange j)).resolve_left n⟩

theorem test_witness_LifecycleAndHost :
    (let s : State := { State.reset with links := { State.reset.links with retraining := [3] } }
     (3 : BitVec 3) ∈ s.links.retraining ∧ 2 ∉ s.links.retraining ∧ nth s.links.retrains 3 0 ≠ BitVec.allOnes 64) ∧
    ((3 : BitVec 3) ≠ 7 ∧ (1 : BitVec 18).toNat ≠ mapped.pkg ∧ (0 : BitVec 18).toNat = mapped.pkg ∧ (1 : BitVec 18) ∉ mapped.launch.failed ∧
      (∀ k : Fin 11, (mapped.at k).block = none) ∧ mapped.groups = [] ∧ mapped.net = [] ∧ mapped.launch.acked = false) ∧
    (let s : State := { mapped with launch := { mapped.launch with acked := true, state := 2, failed := [1] }, units := { mapped.units with dumpaddr := 2 ^ 60 } }
     s.launch.acked = true ∧ s.launch.state = 2 ∧ 1 ∈ s.launch.failed ∧ s.mem.wf = true ∧ ∀ c < 16, s.clusterSlice c + 2 ^ 24 ≤ s.units.dumpaddr.toNat) ∧
    (let s : State := { mapped with launch := { mapped.launch with state := 3 } }; s.launch.state = 3) ∧
    ((0 : BitVec 7).toNat = mapped.core / 16 ∧ mapped.drone.residual = [] ∧ mapped.drone.ring = [] ∧
      (∀ k : Fin 11, (mapped.at k).live = true → (mapped.at k).hobj.bit 40 = false) ∧ (0 : BitVec 7) ∉ mapped.guard.closedClusters) ∧
    (let s : State := { mapped with guard := { mapped.guard with closedClusters := [0] } }
     (0 : BitVec 7) ∈ s.guard.closedClusters ∧ gaSpace 0x20000 ≠ 1 ∧ (s.closedAt (gaPkg 0x20000) (gaCore 0x20000)).isSome = true) ∧
    (record.launchable = true ∧ mapped.launchable = false ∧ (record.jobOf 0x40000).nx = 1 ∧ (record.jobOf 0x40000).ny = 1) ∧
    ((1 : BitVec 29) ≠ mapped.lcore ∧ (0 : BitVec 29) = mapped.lcore ∧ (mapped.at 0).gen = 0 ∧ (mapped.at 0).live = true ∧ (mapped.at 0).block = none) ∧
    (let s : State := { mapped with service := { mapped.service with unacked := 2, queue := [.interrupt 7] } }
     let t : State := { mapped with service := { mapped.service with unacked := 1, queue := [] } }
     (∀ q ∈ s.net, q.stage ≠ .listed) ∧ s.service.unacked = 1 + 1 ∧ s.service.queue = [.interrupt 7] ∧ t.service.unacked = 0 + 1 ∧
       t.service.queue = [] ∧ mapped.service.unacked = 0) ∧
    (let s : State := { mapped with net := [⟨5, 0, 0, 3 * 2 ^ 62, 0, here, .access (.read 8), false, false, 0, [], .listed, 0⟩] }
     there (s.net.find? fun q => q.id == 5 && q.stage == .listed && gaSpace q.ga == 3 && q.msg.op.isSome) (fun q => q.msg = .access (.read 8)) = true) := by
  decide

/-- Requests of the host: served, refused by their home, behind one that waits there, and turned away. -/
theorem test_witness_LifecycleAndHost_requests :
    (mapped.guard.security = 0 ∧ mapped.guard.asleep = false ∧ mapped.service.waiting = [] ∧ Claims.hostDrained mapped ∧
      mapped.ownService 0x20000 = true ∧ mapped.hostStatus 0x20000 true = 0 ∧ gaSpace 0x20000 = 0 ∧ mapped.mem.frozen = [] ∧
      mapped.launch.acked = false ∧ mapped.mem.poisoned (mapped.moved 0x20000) 8 = false ∧ mapped.hostStatus 0x20000 false = 0) ∧
    (let s : State := { mapped with mem := { mapped.mem with frozen := [granule 0x20000] } }
     s.hostStatus 0x20000 true = 0 ∧ s.hostStatus 0x20000 false = 0 ∧ s.mem.frozen.contains (granule 0x20000) = true ∧ gaSpace 0x20000 < 2) ∧
    (let s : State := { mapped with service := { mapped.service with waiting := [⟨9, 0x20000, .read 8, 0⟩] } }
     s.guard.security = 0 ∧ ∃ y ∈ s.service.waiting, serviceOf y.ga = serviceOf 0x20000) ∧
    (let s : State := { mapped with mem := { mapped.mem with poison := [0x4000] } }
     s.hostStatus 0x20000 true = 0 ∧ s.mem.poisoned (s.moved 0x20000) 8 = true) ∧
    (let s : State := { mapped with launch := { mapped.launch with failed := [0] } }
     (s.deadPackage (gaPkg 0x20000)).isSome = true ∧ s.hostStatus 0x20000 false = 2) ∧
    (let s : State := { mapped with guard := { mapped.guard with closedClusters := [0] } }
     s.hostPackage (gaPkg 0x20000) = true ∧ (s.deadPackage (gaPkg 0x20000)).isSome = false ∧ s.hostStatus 0x20000 false = 4) ∧
    (let s : State := { mapped with guard := { mapped.guard with offClusters := [0] } }
     (s.closedAt 0 0).isSome = false ∧ s.hostStatus 0x20000 false = 5) ∧
    (let s : State := { mapped with pools := [⟨0, 0, 2 ^ 40, 1⟩] }; s.launch.failed = [] ∧ gaSpace (2 ^ 62) = 1) ∧
    (gaSpace (2 ^ 63 + 2 ^ 13) = 2 ∧ mapped.hostStatus (2 ^ 63) true = 0 ∧ (8 : Nat) ≠ 4) ∧
    (let s : State := { mapped with guard := { mapped.guard with security := 1, asleep := true } }; s.guard.security ≠ 0 ∧ s.guard.asleep = true) := by
  unfold Claims.hostDrained; decide

theorem test_witness_LifecycleAndHost_resets :
    (∃ q, Claims.alone (waiting (sliceBase 16 0) []) q ∧ (waiting (sliceBase 16 0) []).waitsOn q 16 0 = true ∧ q.safe = false ∧ (16 : Nat) ≠ mapped.pkg) ∧
    (∃ q, Claims.alone (waiting (sliceBase 0 16) []) q ∧ (waiting (sliceBase 0 16) []).waitsOn q 0 1 = true ∧ q.safe = false ∧ (1 : Nat) ≠ mapped.core / 16) ∧
    (∃ q, Claims.alone (waiting (sliceBase 16 0) [16]) q ∧ (16 : BitVec 18) ∈ q.doubt) ∧
    (∀ q ∈ (waiting (sliceBase 16 0) []).net, (waiting (sliceBase 16 0) []).waitsOn q 0 1 = false) ∧
    (∀ k n, (mapped.at k).atBarrier n = false) := by
  refine ⟨⟨_, alone_of rfl (by decide) (by intro a x; simp), by decide, by decide, by decide⟩,
    ⟨_, alone_of rfl (by decide) (by intro a x; simp), by decide, by decide, by decide⟩,
    ⟨_, alone_of rfl (by decide) (by intro a x; simp), by decide⟩, by decide, ?_⟩
  have h : ∀ k : Fin 11, (mapped.at k).block = none := by decide
  intro k n
  simp [Ctx.atBarrier, h]

/-- The package is the first of the job, whatever the extent of the system. -/
theorem test_witness_LifecycleAndHost_launch :
    record.launchable = true ∧ record.chassisX (record.jobOf 0x40000).lx0 < (record.jobOf 0x40000).nx ∧
      record.chassisY (record.jobOf 0x40000).ly0 < (record.jobOf 0x40000).ny := by
  have h : (record.jobOf 0x40000).nx = 1 ∧ (record.jobOf 0x40000).ny = 1 ∧ (record.jobOf 0x40000).lx0 = 0 ∧ (record.jobOf 0x40000).ly0 = 0 ∧
    record.pkg = 0 ∧ record.launchable = true := by decide
  obtain ⟨h1, h2, h3, h4, h5, h6⟩ := h
  rw [h1, h2, h3, h4]
  exact ⟨h6, by simp [State.chassisX, h5], by simp [State.chassisY, h5]⟩

/-- The machine with debug unlocked, halted or not, and translation in use. -/
def debugged (halted : Option HaltCause) : State :=
  { mapped with
    guard := { mapped.guard with debug := 1 }, regs := { mapped.regs with ptb := mapped.ctx.root }, dbg := { mapped.dbg with halted := halted } }

/-- A session on context 0 whose sample is due. -/
def sampling : State :=
  { mapped with
    dbg := { mapped.dbg with sessions := [⟨0, 0, 0, 0x40000, 12, 0xFF, 5, 0, [], 0⟩] }, units := { mapped.units with coreTime := 5 * 1250 } }

theorem test_witness_DebugAndPower :
    (State.reset.guard.debug = 0 ∧ mapped.guard.debug = 0 ∧ mapped.dbg.clusterHalted = false ∧ 0 ∉ mapped.guard.offClusters ∧ State.reset.dbg.halted = none ∧
      State.reset.guard.capped = false ∧ (0 : BitVec 7).toNat = State.reset.core / 16 ∧ State.reset.guard.hours ≠ BitVec.allOnes 64) ∧
    (let s := debugged (some .cluster)
     s.guard.debug ≠ 0 ∧ 0 ∉ s.guard.offClusters ∧ s.dbg.score = s.core % 16 ∧ s.dbg.halted ≠ none ∧ (s.at 0).live = true ∧ (s.at 1).live = false ∧
       s.hostStatus 0x20000 false = 0 ∧ gaSpace 0x20000 = 0 ∧ there (s.patchPlace 0 0x20000) (fun x => x.1.testBit 6 = false ∧
         (s.mem.store (s.moved x.2) (numbered (List.replicate 64 0))).2 = .data 0) = true ∧ (s.patchPlace 0 0x800000).isNone = true ∧
       s.incarnation 0 0 ≠ none ∧ s.incarnation 0 1 = none ∧ bufferOk 0x40000 12 = true ∧ bufferOk 0x40001 12 = false ∧
       s.dbg.sessions.length < 16 ∧ s.lcore = 0 ∧ s.traceCluster 0 = some (s.core / 16) ∧ s.launch.preemptHeld = false ∧
       ({ s with launch := { s.launch with failed := [0] } } : State).woken.hostStatus 0x20000 false ≠ 0) ∧
    (let s : State := { debugged none with dbg := { mapped.dbg with score := 3 } }; s.dbg.score ≠ s.core % 16) ∧
    (let s : State := { debugged none with guard := { mapped.guard with debug := 1, offClusters := [0] } }; 0 ∈ s.guard.offClusters ∧ s.guard.debug ≠ 0) ∧
    (let s : State := { debugged none with mem := mapped.mem.write (mapped.ownBase + 0x4000) 8 (mapped.ownBase + 0x7F) }
     there (s.patchPlace 0 0x20000) (fun x => x.1.testBit 6) = true) ∧
    (mapped.launch.state = 2 ∧ 0 ∉ mapped.guard.closedClusters ∧ State.reset.launch.state = 0 ∧
      (0 : BitVec 7) ∈ (after (.clusterPowerOff 0) idle).guard.offClusters ∧ (after (.clusterPowerOff 0) idle).guard.asleep = false ∧
      (after (.clusterPowerOff 0) idle).guard.security = 0) ∧
    ([] : List Byte).length ≠ 32 ∧ (List.replicate 32 (0 : Byte)).length = 32 ∧ record.guard.security = 0 ∧
    (3 : BitVec 12).toNat % 8 ≠ 0 ∧ (0x1F8 : BitVec 12).toNat / 8 = 0x3F ∧ (16 : BitVec 12).toNat / 8 = 2 ∧
    (1 : Word).bits 0 3 = 1 ∧ (2 : Word).bits 0 3 = 2 ∧ (4 : Word).bits 0 3 = 4 ∧ (4 : Word).bits 12 4 = mapped.core % 16 ∧
    (mapped.regs.forecast.bits 16 8 + mapped.regs.forecast.bits 0 16 = 0 ∧
      (let s : State := { mapped with regs := { mapped.regs with forecast := 5 } }; s.regs.forecast.bits 16 8 + s.regs.forecast.bits 0 16 ≠ 0)) ∧
    (there (sampling.dbg.sessions[0]?) (fun x => x.lcore = sampling.lcore ∧ x.ctx.toNat = 0 ∧ x.gen = (sampling.at 0).gen ∧ x.period ≠ 0 ∧
      x.period ≤ sampling.units.coreCycles - x.last) = true) := by decide

/-! ### Words of the specification's worked encodings, chapter by chapter -/

theorem test_words_encoding :
    decode 0x0040 0x0 = .ok .nop ∧ decode 0x1240 0x0 = .ok .halt ∧ decode 0x480A 0x2890 = .ok (.add 10 10 9) ∧
    decode 0x480A 0x2891 = .ok (.sub 10 10 9) ∧ decode 0x480A 0x9090 = .ok (.add 10 36 9) ∧ decode 0x480A 0x2A80 = .ok (.add 10 10 40) ∧
    decode 0x4C09 0x27FF = .ok (.addi 9 9 0x3FF) ∧ decode 0x4C09 0x25FF = .ok (.addi 9 9 511) ∧
    decode 0x8E4C 0x3E8 = .ok (.ldi26 12 1000) ∧ decode 0xCE8C 0x123456789 = .ok (.ldi64 12 0x123456789) ∧
    decode 0x9089 0x3FFFFFE = .ok (.bnz 9 0x3FFFFFE) ∧ decode 0xE841 0x1 = .ok (.mzero 1 .none) ∧
    decode 0xE841 0x8601434100000001 = .ok (.mzero 1 ⟨true, 12, 2, true, 13, 1⟩) := by decide

theorem test_words_integer :
    decode 0x4845 0x1870 = .ok (.mul 5 6 7) ∧ decode 0x4845 0x1872 = .ok (.mulhu 5 6 7) ∧ decode 0x4885 0x1870 = .ok (.div 5 6 7) ∧
    decode 0x4885 0x1871 = .ok (.divu 5 6 7) ∧ decode 0x4905 0x1873 = .ok (.andn 5 6 7) ∧ decode 0x4985 0x1802 = .ok (.popc 5 6) ∧
    decode 0x4A05 0x18F0 = .ok (.sext 5 6 15) ∧ decode 0x4B05 0x1873 = .ok (.shadd 5 6 7 3) ∧ decode 0x4BC5 0x1874 = .ok (.cmp 5 6 7 4) ∧
    decode 0x4D05 0x1803 = .ok (.shli 5 6 3) ∧ decode 0x4D85 0x183F = .ok (.srai 5 6 63) ∧ decode 0x8B85 0x18720000 = .ok (.sel 5 6 7 8) ∧
    decode 0x8A85 0x1800080B = .ok (.bfx 5 6 8 11) ∧ decode 0x8A85 0x1800088B = .ok (.bfxS 5 6 8 11) ∧
    decode 0x8E05 0x18BFFFFD = .ok (.cmpi 5 6 2 0x3FFFFD) := by decide

theorem test_words_control :
    decode 0x9049 0x21 = .ok (.bz 9 33) ∧ decode 0x9208 0x3FFFFF6 = .ok (.loop 8 0x3FFFFF6) ∧
    decode 0x9006 0x1CBFFFFA = .ok (.br 6 7 2 0x3FFFFA) ∧ decode 0x9006 0x1DBFFFFA = .ok (.br 6 7 6 0x3FFFFA) ∧
    decode 0x90C0 0x100 = .ok (.j 0x100) ∧ decode 0x911F 0x100 = .ok (.jal 31 0x100) ∧ decode 0x5140 0x7C00 = .ok (.jr 31) ∧
    decode 0x519F 0x3000 = .ok (.jalr 31 12) ∧ decode 0x91C4 0x20900000 = .ok (.jtab 4 8 9) ∧
    decode 0x5280 0x5 = .ok (.brk 5) := by decide

theorem test_words_float :
    decode 0x9405 0x10300700 = .ok (.fadd 5 4 3 7) ∧ decode 0x9405 0x10300000 = .ok (.fadd 5 4 3 0) ∧
    decode 0x9545 0x10300700 = .ok (.fdiv 5 4 3 7) ∧ decode 0x94C5 0x10308700 = .ok (.fma 5 4 3 2 7) ∧
    decode 0x9585 0x10000100 = .ok (.fsqrt 5 4 1) ∧ decode 0x95C5 0x10300100 = .ok (.fmax 5 4 3) ∧
    decode 0x9605 0x10400100 = .ok (.fsgnNeg 5 4 4) ∧ decode 0x9647 0x10300100 = .ok (.fcmp 7 4 3 1) ∧
    decode 0x5687 0x1000 = .ok (.fclass 7 4 0) ∧ decode 0x5687 0x1002 = .ok (.fclass 7 4 2) ∧ decode 0x5703 0x1400 = .ok (.fmovFF 3 5) ∧
    decode 0x5703 0x1401 = .ok (.fmovFG 3 5) ∧ decode 0xD741 0x40400000 = .ok (.fldi 1 0x40400000) ∧
    decode 0x96C6 0x14000050 = .ok (.fcvt 6 5 0 5 0) ∧ decode 0x96C3 0x08000706 = .ok (.fcvt 3 2 7 0 6) ∧
    decode 0x96C7 0x140001A0 = .ok (.fcvt 7 5 1 10 0) ∧ decode 0x9787 0x14500050 = .ok (.fsr 7 5 5 5 0) ∧
    decode 0x9787 0x100 = .ok (.fsrDraw 7) ∧ decode 0x97C2 0x04000005 = .ok (.fscl 2 1 0 5) := by decide

theorem test_words_vector :
    decode 0x9801 0x08300002 = .ok (.vadd ⟨1, 2, 3, false, false, 0, 2⟩ 0) ∧
    decode 0x9801 0x08300102 = .ok (.vsub ⟨1, 2, 3, false, false, 0, 2⟩ 0) ∧
    decode 0x9801 0x08300202 = .ok (.vadd ⟨1, 2, 3, false, false, 0, 2⟩ 1) ∧
    decode 0x9801 0x0830000E = .ok (.vadd ⟨1, 2, 3, false, false, 3, 2⟩ 0) ∧
    decode 0x9801 0x0830002E = .ok (.vadd ⟨1, 2, 3, false, true, 3, 2⟩ 0) ∧
    decode 0x9801 0x08500082 = .ok (.vadd ⟨1, 2, 5, true, false, 0, 2⟩ 0) ∧
    decode 0x9801 0x0A800082 = .ok (.vadd ⟨1, 2, 40, true, false, 0, 2⟩ 0) ∧
    decode 0x9801 0x08300000 = .ok (.vadd ⟨1, 2, 3, false, false, 0, 0⟩ 0) ∧
    decode 0x9884 0x14600202 = .ok (.vmacc ⟨4, 5, 6, false, false, 0, 2⟩ 1) ∧
    decode 0x99C2 0x14600202 = .ok (.vcmp ⟨2, 5, 6, false, false, 0, 2⟩ false 2) ∧
    decode 0x9C84 0x1461C700 = .ok (.vfma ⟨4, 5, 6, false, false, 0, 0⟩ 7 7) ∧
    decode 0x9C84 0x1461C002 = .ok (.vfma ⟨4, 5, 6, false, false, 0, 2⟩ 7 0) ∧
    decode 0x9BC7 0x10900182 = .ok (.vrshr ⟨7, 4, 9, true, false, 0, 2⟩ 1 false) ∧
    decode 0x9BC7 0x10900582 = .ok (.vrshr ⟨7, 4, 9, true, false, 0, 2⟩ 1 true) ∧
    decode 0x9D06 0x14005730 = .ok (.vcvt 6 5 1 false 7 2 3 0) ∧ decode 0x5DC1 0x0830 = .ok (.kopAnd 1 2 3) ∧
    decode 0x5E05 0x0402 = .ok (.kpop 5 1 2) ∧ decode 0xB803 0x18400040 = .ok (.vld 3 6 0 2 64) ∧
    decode 0xB803 0x19400040 = .ok (.vld 3 6 2 2 64) ∧ decode 0xB843 0x18400040 = .ok (.vst 3 6 0 2 64) ∧
    decode 0xB883 0x1870000A = .ok (.vlds 3 6 7 2 2) ∧ decode 0xB8C3 0x18800202 = .ok (.vldx 3 6 8 2 0 2) := by decide

theorem test_words_memory :
    decode 0xA005 0x1B000010 = .ok (.ld 5 6 3 false 16) ∧ decode 0xA005 0x1A000010 = .ok (.ld 5 6 2 false 16) ∧
    decode 0xA005 0x1A800010 = .ok (.ld 5 6 2 true 16) ∧ decode 0xA005 0x1A7FFFFC = .ok (.ld 5 6 2 false 0x7FFFFC) ∧
    decode 0xA045 0x1B000010 = .ok (.st 5 6 3 16) ∧ decode 0xA045 0x1B800010 = .ok (.stA 5 6 3 16) ∧
    decode 0xA085 0x19000008 = .ok (.ldfe 5 6 8) ∧ decode 0xA085 0x1A000008 = .ok (.ldfeE 5 6 8) ∧
    decode 0xA0C5 0x1B000008 = .ok (.stfe 5 6 8) ∧ decode 0xA345 0x1A000010 = .ok (.spld 5 6 2 false 16) ∧
    decode 0xA3C5 0x19000010 = .ok (.leaG 5 6 16) ∧ decode 0xA200 0x1A000040 = .ok (.prefX 6 64) ∧ decode 0x6100 0x1800 = .ok (.feset 6) ∧
    decode 0x6100 0x1801 = .ok (.feclr 6) ∧ decode 0xA145 0x18700003 = .ok (.amoAdd 5 6 7 3 false) ∧
    decode 0xA145 0x18700503 = .ok (.amoMin 5 6 7 3 false) ∧ decode 0xA140 0x18700007 = .ok (.amoAdd 0 6 7 3 true) ∧
    decode 0xA185 0x18700002 = .ok (.amofAdd 5 6 7 2 false) ∧ decode 0xA1C5 0x18720003 = .ok (.cas 5 6 7 8 3) ∧
    decode 0xA240 0x18700500 = .ok (.seal 6 7 5) ∧ decode 0xA280 0x18700500 = .ok (.unseal 6 7 5) ∧
    decode 0x62C5 0x1800 = .ok (.sealq 5 6) ∧ decode 0x6300 0x1870 = .ok (.hgive 6 7) ∧
    decode 0x6305 0x1801 = .ok (.htake 5 6) := by decide

theorem test_words_fences :
    decode 0x6400 0x0803 = .ok (.fence 3) ∧ decode 0x6400 0x0403 = .ok (.fenceSt 3) ∧ decode 0x6400 0x0005 = .ok (.fenceLd 5) ∧
    decode 0x6400 0x0C04 = .ok (.fenceEng 4) ∧ decode 0x6400 0x0809 = .ok (.fence 9) ∧ decode 0x6440 0x0004 = .ok (.bar 4) ∧
    decode 0x64C0 0x1875 = .ok (.icinv 6 7 5) ∧ decode 0xA485 0x18000400 = .ok (.barvAdd 5 6 4) ∧
    decode 0xA485 0x18000402 = .ok (.barvMax 5 6 4) ∧ decode 0x2500 0x0 = .ok .dsync ∧ decode 0x2540 0x0 = .ok .tsync := by decide

theorem test_words_matrix :
    decode 0xE881 0x400380 = .ok (.mmaBf16 ⟨1, 0, 4, 0, 3, 2, false, false, false, false⟩ .none) ∧
    decode 0xE881 0x400080 = .ok (.mmaBf16 ⟨1, 0, 4, 0, 0, 2, false, false, false, false⟩ .none) ∧
    decode 0xE881 0x400384 = .ok (.mmaBf16 ⟨1, 0, 4, 0, 3, 2, false, false, true, false⟩ .none) ∧
    decode 0xE881 0x8601434100400380 = .ok (.mmaBf16 ⟨1, 0, 4, 0, 3, 2, false, false, false, false⟩ ⟨true, 12, 2, true, 13, 1⟩) ∧
    decode 0xE902 0x0450C3B0 = .ok (.mmaE4m3 ⟨2, 1, 5, 3, 3, 2, true, true, false, false⟩ .none) ∧
    decode 0xE804 0x02000024 = .ok (.tld 4 32 0 9 false .none) ∧ decode 0xE804 0x02000026 = .ok (.tld 4 32 0 9 true .none) ∧
    decode 0xE804 0x02000025 = .ok (.tst 4 32 0 9 false .none) ∧ decode 0xE843 0x0 = .ok (.tzero 3 .none) ∧
    decode 0xEB41 0x80280000 = .ok (.mst 1 8 0 10 false false .none) ∧
    decode 0xEB43 0x80050041 = .ok (.mrd ⟨3, 8, 0, 0, 5, false, 0, false, 1⟩ .none) ∧
    decode 0xEB43 0x80051041 = .ok (.mrd ⟨3, 8, 0, 0, 5, false, 8, false, 1⟩ .none) ∧ decode 0x6B80 0x0 = .ok .mwait ∧
    decode 0x6B80 0x0401 = .ok (.mwaitAcc 1) ∧ decode 0x6B85 0x0402 = .ok (.mstat 5 1) ∧
    decode 0xABC5 0x187201A2 = .ok (.mcmd 5 6 7 8 1 0xA2) ∧ decode 0xABC0 0x18000000 = .ok (.mcap 6) := by decide

theorem test_words_engines :
    decode 0xEC00 0x0C420000 = .ok (.cpy 3 4 2 false false .none) ∧
    decode 0xEC00 0x43410C420001 = .ok (.cpy 3 4 2 false true ⟨false, 0, 0, true, 13, 1⟩) ∧
    decode 0xEC40 0x0C420000 = .ok (.cpyr 3 4 2 false 0 0 false .none) ∧
    decode 0xEC40 0x0C422A00 = .ok (.cpyr 3 4 2 false 2 10 false .none) ∧ decode 0xEC80 0x0C61C000 = .ok (.gath 3 6 7 false false .none) ∧
    decode 0xEC80 0x0C602000 = .ok (.gathQ 3 6 false false .none) ∧
    decode 0xED00 0x410100000015 = .ok (.pull 0 0 5 true ⟨false, 0, 0, true, 4, 1⟩) ∧ decode 0xACC9 0x14620000 = .ok (.kick 9 5 6 8) ∧
    decode 0xAEC0 0x1C000500 = .ok (.lyt 7 5) ∧ decode 0x6F05 0x1401 = .ok (.lytq 5 5 1) ∧ decode 0x6D80 0x5 = .ok (.qfence 5) ∧
    decode 0xADC0 0x000C0002 = .ok (.sinc 3 2) ∧ decode 0xAE00 0x00100001 = .ok (.swait 4 1) ∧
    decode 0xAE07 0x00110001 = .ok (.swaitNb 7 4 1) ∧ decode 0x6E47 0x00C8 = .ok (.sget 7 200) ∧
    decode 0xAE80 0x03200000 = .ok (.sset 200 0) ∧ decode 0xAE80 0x1B210000 = .ok (.ssetReg 6 200) := by decide

theorem test_words_events :
    decode 0xF145 0x18200000 = .ok (.esend 5 6 2 .none) ∧ decode 0xF145 0x424118200000 = .ok (.esend 5 6 2 ⟨false, 0, 0, true, 9, 1⟩) ∧
    decode 0xF185 0x18828000 = .ok (.esendv 5 6 8 5 .none) ∧ decode 0xF185 0x188D8000 = .ok (.esendv 5 6 8 27 .none) ∧
    decode 0xF005 0x18700001 = .ok (.onew 5 6 7 true .none) ∧ decode 0xF045 0x0 = .ok (.odel 5 false .none) ∧
    decode 0xF205 0x18700000 = .ok (.efan 5 6 7 .none) ∧ decode 0xF305 0x180C0000 = .ok (.esread 5 6 3 false .none) ∧
    decode 0xF305 0x18020000 = .ok (.esread 5 6 0 true .none) ∧ decode 0xB080 0x18700000 = .ok (.ocfgLeak 6 7) ∧
    decode 0xB080 0x18700100 = .ok (.ocfgTheta 6 7) ∧ decode 0xB0C4 0x18000000 = .ok (.oget 4 6) ∧
    decode 0xB0C2 0x18000300 = .ok (.ogetW 2 6 0) ∧ decode 0xB0C4 0x18000800 = .ok (.oput 4 6) ∧
    decode 0xB104 0x18700000 = .ok (.eslot 4 6 7) ∧ decode 0xB100 0x18700200 = .ok (.eslotFree 6 7) ∧
    decode 0xB1C5 0x18700000 = .ok (.edamp 5 6 7 0 false false 0) ∧ decode 0xB1C5 0x1870C100 = .ok (.edamp 5 6 7 3 true false 0) ∧
    decode 0xB2C5 0x18700000 = .ok (.esnap 5 6 7) ∧ decode 0xB2C5 0x100 = .ok (.esnapClose 5) ∧
    decode 0xB380 0x18708300 = .ok (.hnd 6 7 2 3) ∧ decode 0x7245 0x1800 = .ok (.etick 5 6) ∧ decode 0x7245 0x1801 = .ok (.etickSet 5 6) ∧
    decode 0x7345 0x1 = .ok (.cvqRes 5) ∧ decode 0x73C5 0x1 = .ok (.eholdRel 5) ∧ decode 0x3285 0x0 = .ok (.enow 5) := by decide

theorem test_words_collective :
    decode 0xA605 0x14 = .ok (.cbrAny 5 false 20) ∧ decode 0xA605 0x04000014 = .ok (.cbrAll 5 false 20) ∧
    decode 0xA605 0x08000014 = .ok (.cbrAny 5 true 20) ∧ decode 0xA605 0x0C000014 = .ok (.cbrAll 5 true 20) ∧
    decode 0xA647 0x20000000 = .ok (.credAdd 7 8) ∧ decode 0xA647 0x20000200 = .ok (.credMax 7 8) ∧
    decode 0xA585 0x18700500 = .ok (.cjoin 5 6 7 5) ∧ decode 0xA585 0x18700800 = .ok (.cjoin 5 6 7 8) ∧
    decode 0x65C5 0x0 = .ok (.cleave 5) ∧ decode 0x6685 0x2 = .ok (.cstatSpec 5) := by decide

theorem test_words_tasks :
    decode 0x7485 0x1800 = .ok (.qclaim 5 6) ∧ decode 0x7505 0x1800 = .ok (.qsteal 5 6) ∧ decode 0x74C5 0x1870 = .ok (.qpub 5 6 7) ∧
    decode 0x7545 0x1803 = .ok (.qlenFail 5 6) ∧ decode 0x7585 0x1871 = .ok (.qresetBind 5 6 7) ∧ decode 0x7440 0x1800 = .ok (.tdec 6) ∧
    decode 0x75C5 0x1801 = .ok (.fcastQ 5 6) ∧ decode 0x7600 0x0 = .ok .tstamp ∧ decode 0x7605 0x1 = .ok (.tstampNow 5) ∧
    decode 0xB409 0x14300000 = .ok (.tnew 9 5 3) := by decide

theorem test_words_traps :
    decode 0x40C0 0x7 = .ok (.sysc 7) ∧ decode 0x4080 0x1403 = .ok (.trap 5 3) ∧ decode 0x4145 0x1 = .ok (.rdc 5 1) ∧
    decode 0x4147 0x2 = .ok (.rdc 7 2) ∧ decode 0x4180 0x1840 = .ok (.wrc 6 0x40) ∧ decode 0x0100 0x0 = .ok .rte ∧
    decode 0x0200 0x0 = .ok .wfi ∧ decode 0x81C0 0x18700500 = .ok (.tlbinv 6 7 5) ∧ decode 0x81C0 0x1500 = .ok (.tlbinvAll 5) ∧
    decode 0x8285 0x18700109 = .ok (.migr 5 6 7 true 9) ∧ decode 0x4245 0x1870 = .ok (.hcall 5 6 7) ∧
    decode 0x42C5 0x1870 = .ok (.ssave 5 6 7) ∧ decode 0x42C5 0x0071 = .ok (.ssaveCore 5 7) ∧ decode 0x42C5 0x2 = .ok (.ssaveAck 5) ∧
    decode 0x4305 0x1870 = .ok (.srest 5 6 7) ∧ decode 0x4345 0x1800 = .ok (.resync 5 6) := by decide
/-- Words that the chapters call borderline: the reason they give (R45). -/
theorem test_words_refused :
    decode 0xE841 0x600000000000001 = .error .reservedField ∧ decode 0x4D05 0x1843 = .error .reservedField ∧
    decode 0x9405 0x10300500 = .error .reservedValue ∧ decode 0x96C3 0x0800076F = .error .reservedValue ∧
    decode 0xB8C3 0x18800201 = .error .reservedValue ∧ decode 0xA005 0x1B800010 = .error .reservedValue ∧
    decode 0xA145 0x18700007 = .error .reservedField ∧ decode 0xA240 0x18700A00 = .error .reservedValue ∧
    decode 0x6440 0x9 = .error .reservedValue ∧ decode 0x6400 0x1000 = .error .reservedValue ∧
    decode 0x6440 0x404 = .error .reservedField ∧ decode 0xE881 0x4003C0 = .error .reservedValue ∧
    decode 0xEC00 0xC400000 = .error .reservedValue ∧ decode 0x6E47 0x100 = .error .reservedField ∧
    decode 0x6D80 0x0 = .error .reservedValue ∧ decode 0xF185 0x188E8000 = .error .reservedValue ∧
    decode 0x7345 0xD = .error .reservedValue ∧ decode 0xB0C4 0x18008000 = .error .reservedField ∧
    decode 0xA605 0x10000000 = .error .reservedField ∧ decode 0xA585 0x18700000 = .error .reservedValue ∧
    decode 0xA647 0x20000500 = .error .reservedValue ∧ decode 0x7440 0x1802 = .error .reservedValue ∧
    decode 0x7600 0x1800 = .error .reservedField ∧ decode 0x4145 0x13 = .error .reservedValue ∧
    decode 0x40C0 0x407 = .error .reservedField := by decide

/-! ### Terms that are no instructions -/

/-- An enabled bit of 0 beside a semaphore. -/
def badSync : Sync := ⟨false, 1, 0, false, 0, 0⟩
def badArgs : MmaArgs := ⟨0, 0, 0, 1, 0, 0, false, false, false, false⟩
def badShape : MmaArgs := ⟨0, 0, 0, 0, 0, 3, false, false, false, false⟩

/-- Each check of well-formedness refuses a term, of every instruction that has the check. -/
theorem test_illformed_system : ∀ i ∈ ([.rdc 5 0x13, .wrc 5 0x13, .wrc 5 0, .tlbinv 5 6 10, .tlbinvAll 10, .migr 5 6 7 false 1,
    .start 5 6 7 0 0 0, .startNb 5 6 7 5 0 0, .startAt 5 6 7 8 1 5 0, .startAtNb 5 6 7 8 0 0 0, .grow 5 4 0, .growNb 5 0 0, .shrink 40 0,
    .bfx 5 6 32 32, .bfxS 5 6 63 1, .bfi 5 6 1 63, .cmp 5 6 7 8, .cmpi 5 6 8 0, .br 5 6 8 0, .illop 0x20] : List Instr), i.wf = false := by decide

theorem test_illformed_float : ∀ i ∈ ([.fadd 5 6 7 5, .fsub 5 6 7 6, .fmul 5 6 7 5, .fma 5 6 7 8 5, .fnma 5 6 7 8 6, .fdiv 5 6 7 5, .fsqrt 5 6 5,
    .fcmp 5 6 7 5, .fclass 5 6 8, .fcvt 5 6 5 0 1, .fcvt 5 6 0 6 0, .fcvt 5 6 0 8 9, .fsr 5 6 7 6 0, .fsr 5 6 7 8 9, .fscl 5 6 0 0] : List Instr),
    i.wf = false := by decide

theorem test_illformed_vector : ∀ i ∈ ([.vadd ⟨1, 2, 3, false, false, 0, 0⟩ 3, .vsub ⟨1, 2, 3, false, false, 0, 0⟩ 3,
    .vmacc ⟨1, 2, 3, false, false, 0, 0⟩ 3, .vrshr ⟨1, 2, 3, false, false, 0, 0⟩ 3 false, .vdot ⟨1, 2, 3, false, 0, 2⟩ 16, .vdot ⟨1, 2, 3, false, 0, 0⟩ 0,
    .vdot ⟨1, 2, 3, false, 0, 2⟩ 3, .vdot ⟨1, 2, 3, false, 0, 1⟩ 8, .vdot ⟨1, 2, 3, false, 0, 2⟩ 13, .vcmp ⟨1, 2, 3, false, false, 0, 0⟩ true 8,
    .vcmp ⟨1, 2, 3, false, false, 0, 0⟩ false 8, .vcmp ⟨1, 2, 3, false, false, 0, 3⟩ true 0, .vcmp ⟨1, 2, 3, false, false, 0, 0⟩ true 5,
    .vredadd 1 2 0 0 true true, .vredmin 1 2 0 3 false true, .vredmax 1 2 0 0 true true, .vfadd ⟨1, 2, 3, false, false, 0, 3⟩ 0,
    .vfsub ⟨1, 2, 3, false, false, 0, 0⟩ 5, .vfmul ⟨1, 2, 3, false, false, 0, 3⟩ 0, .vfma ⟨1, 2, 3, false, false, 0, 0⟩ 4 6,
    .vfnma ⟨1, 2, 3, false, false, 0, 3⟩ 4 0, .vfmin ⟨1, 2, 3, false, false, 0, 3⟩, .vfmax ⟨1, 2, 3, false, false, 0, 3⟩, .vcvt 1 2 0 false 5 0 0 1,
    .vcvt 1 2 0 false 0 0 6 0, .vcvt 1 2 0 false 0 4 0 3, .vpack ⟨1, 2, 3, false, 0, 0⟩ 0, .vpack ⟨1, 2, 3, false, 0, 1⟩ 3,
    .vunpack ⟨1, 2, false, 0, 0⟩ false false, .vldx 1 2 3 0 0 1, .vstx 1 2 3 0 0 0] : List Instr), i.wf = false := by decide

theorem test_illformed_memory : ∀ i ∈ ([.ld 5 6 3 true 0, .spld 5 6 3 true 0, .amoAdd 5 6 7 3 true, .amoAnd 0 6 7 1 true, .amoOr 5 6 7 3 true,
    .amoXor 5 6 7 0 false, .amoSwap 5 6 7 3 true, .amoMin 5 6 7 1 false, .amoMax 5 6 7 3 true, .amoMinu 5 6 7 3 true, .amoMaxu 5 6 7 1 false,
    .amofAdd 5 6 7 0 true, .amofMin 5 6 7 3 false, .amofMax 5 6 7 0 true, .cas 5 6 7 8 1, .seal 5 6 10, .unseal 5 6 10, .fenceLd 10, .fenceSt 10, .fence 10,
    .fenceEng 10, .bar 9, .barvAdd 5 6 9, .barvMin 5 6 9, .barvMax 5 6 9, .barvMinu 5 6 9, .barvMaxu 5 6 9, .barvAnd 5 6 9, .barvOr 5 6 9,
    .barvXor 5 6 9, .icinv 5 6 10, .cjoin 5 6 7 0, .cjoin 5 6 7 9] : List Instr), i.wf = false := by decide

theorem test_illformed_matrix :
    (∀ f ∈ ([.mmaBf16, .mmaF16, .mmaE4m3, .mmaE5e4, .mmaE4e5, .mmaI8, .mmaUi8i8, .mmaE2m1, .mmaTw8i8, .mmaTw8e4, .mmaTw8bf, .mmaStream 0xA2] :
      List (MmaArgs → Sync → Instr)), (f badArgs .none).wf = false ∧ (f badShape .none).wf = false ∧ (f { badShape with mc := 0 } badSync).wf = false) ∧
    ∀ i ∈ ([.tld 1 0 0 0 false badSync, .tst 1 0 0 0 false badSync, .tzero 1 badSync, .mzero 1 badSync, .mmaStream 0xA2 ⟨0, 0, 1, 0, 0, 0, false, false, false, false⟩ .none,
      .mrd ⟨1, 0, 0, 0, 0, false, 0, false, 0⟩ badSync, .mrd ⟨1, 5, 0, 0, 0, false, 0, false, 0⟩ .none, .mrd ⟨1, 0, 5, 0, 0, false, 0, false, 0⟩ .none,
      .mrd ⟨1, 12, 0, 0, 0, false, 1, false, 0⟩ .none, .mrd ⟨1, 0, 0, 4, 0, false, 0, false, 0⟩ .none, .mst 1 0 0 0 false false badSync, .mst 1 5 0 0 false false .none,
      .mst 1 0 5 0 false false .none, .mstIn 1 12 0 0 false false badSync, .mstIn 1 0 0 0 false false .none, .mcmd 5 6 7 8 0 0x9F] : List Instr), i.wf = false := by
  decide

theorem test_illformed_queued : ∀ i ∈ ([.cpy 0 0 1 false false badSync, .cpy 0 0 0 false false .none, .cpy 0 0 10 false false .none, .cpyr 0 0 1 false 0 0 false badSync,
    .cpyr 0 0 0 false 0 0 false .none, .cpyr 0 0 1 false 3 0 false .none, .gath 0 0 0 false false badSync, .gathQ 0 0 false false badSync, .pack 0 0 0 false badSync,
    .pull 0 0 0 false badSync, .qfence 0, .onew 5 6 7 false badSync, .odel 5 false badSync, .ogetW 5 6 28, .oputW 5 6 28, .esend 5 6 7 badSync,
    .esendv 5 6 7 0 badSync, .esendv 5 6 7 28 .none, .edamp 5 6 7 1 false false 0, .efan 5 6 7 badSync, .esread 5 6 0 false badSync] : List Instr),
    i.wf = false := by decide

/-- A well-formed term beside each. -/
theorem test_wellformed : ∀ i ∈ ([.rdc 5 0x12, .migr 5 6 7 true 1, .start 5 6 7 4 4 3, .grow 5 32 32, .bfx 5 6 32 31, .cmp 5 6 7 7, .fadd 5 6 7 4, .fcvt 5 6 7 5 0,
    .vcvt 1 2 0 false 0 3 0 3, .ld 5 6 3 false 0, .ld 5 6 2 true 0, .amoAdd 0 6 7 3 true, .bar 8, .cjoin 5 6 7 8, .mzero 1 ⟨true, 1, 0, true, 2, 0⟩, .qfence 1,
    .mmaBf16 ⟨0, 0, 0, 1, 0, 2, true, false, false, false⟩ .none, .illop 0] : List Instr), i.wf = true := by decide

/-! ### Fetch, encoding and steps -/

theorem test_witness_FetchChecks :
    opcodeAssigned (BitVec.ofNat 8 (0x0000 / 64)) = false ∧ opcodeAssigned (BitVec.ofNat 8 (0x0801 / 64)) = true ∧
    0x0801 / 16384 % 4 ≠ (opcodeFormat (0x0801 / 64 % 256)).tc ∧ decode 0x480A 0x2890 = .ok (.add 10 10 9) ∧
    (mapped.at 0).line = none ∧ passes (mapped.fetchLine 0 (mapped.at 0).pc) (fun x => lineFault x.2.bytes = none ∧ isHead (mapped.at 0).pc x.2.heads = true ∧
      lineHead x.2.bytes 0 = 0x40) = true ∧
    (let s := ctl mapped fun c => { c with pc := 0x800002 }; passes (s.fetchLine 0 (s.at 0).pc) (fun _ => true) = false) ∧
    (let s := ctl mapped fun c => { c with pc := 0x10004 }
     passes (s.fetchLine 0 (s.at 0).pc) (fun x => lineFault x.2.bytes = none ∧ isHead (s.at 0).pc x.2.heads = false) = true) ∧
    (let s := ctl mapped fun c => { c with pc := 0x20002 }; passes (s.fetchLine 0 (s.at 0).pc) (fun x => (lineFault x.2.bytes).isSome) = true) := by decide

theorem test_witness_EncodeDecode :
    (Instr.add 10 10 9).wf = true ∧ there (Instr.add 10 10 9).encode (fun c => c.head = 0x480A ∧ c.tail = 0x2890) = true ∧
    (Instr.mzero 1 ⟨true, 12, 2, true, 13, 1⟩).wf = true ∧ (Instr.mzero 1 ⟨true, 12, 2, true, 13, 1⟩).encode.isSome = true := by decide

/-- A test that a state passes whatever the time of a step. -/
theorem clock_passes {s : State} {p : State → Bool} (zero : p (s.clockBy 0) = true)
    (more : p (s.clockBy ((Config.cycles s.tick).pred + 1)) = true) : p s.clock = true := by
  unfold State.clock
  cases h : Config.cycles s.tick with
  | zero => exact zero
  | succ n => rw [h] at more; exact more

/-- Nothing else can move, and this is the choice of the context that issues. -/
noncomputable abbrev Moves (c : Option (Fin 11)) (s : State) : Bool := s.enabled.isEmpty && s.chosen == c && s.dueSems.isEmpty

theorem test_witness_StepRunsDecoded :
    (mapped.inbox = [] ∧ (Moves (some 0) mapped.clock && (mapped.clock.interruptOf 0).isNone) = true) ∧
    (let s : State := { State.reset with inbox := [.powerCap] }; s.inbox.length = 1 ∧ Moves none s.clock = true) ∧
    (let s := State.reset.asked ⟨0, State.reset.ownBase + 2 ^ 33, .access (.write [(0, 1)]), true, false⟩
     s.inbox = [] ∧ (s.clock.enabled.length == 1 && s.clock.chosen == none) = true) ∧
    (State.reset.inbox = [] ∧ Moves none State.reset.clock = true) ∧
    (let s := ctl mapped fun c => { c with status := 0x805 }; (Moves (some 0) s.clock && (s.clock.interruptOf 0).isSome) = true) :=
  ⟨⟨rfl, clock_passes (p := fun s => Moves (some 0) s && (s.interruptOf 0).isNone) (by decide) (by decide)⟩,
    ⟨rfl, clock_passes (by decide) (by decide)⟩,
    ⟨rfl, clock_passes (p := fun s => s.enabled.length == 1 && s.chosen == none) (by decide) (by decide)⟩,
    ⟨rfl, clock_passes (by decide) (by decide)⟩,
    clock_passes (p := fun s => Moves (some 0) s && (s.interruptOf 0).isSome) (by decide) (by decide)⟩

/-- Contexts that an interrupt reaches: PREEMPT before DELAYED before HOSTDB, IE and TH, and by the block (R344). -/
theorem test_witness_interrupts :
    (let s := ctl mapped fun c => { c with status := 0xE05 }
     let held (w : Wait) (n : Word) : State := ctl mapped fun c => { c with status := n, block := some ⟨w, 0, []⟩ }
     s.interruptOf 0 = some 32 ∧ (held .park 0x605).interruptOf 0 = some 22 ∧ (held .wfi 0x405).interruptOf 0 = some 33 ∧
       (held .park 0x401).interruptOf 0 = none ∧ (held .park 0xE15).interruptOf 0 = none ∧ (held (.bar 1 none) 0xE05).interruptOf 0 = some 32 ∧
       (held (.bar 1 none) 0x605).interruptOf 0 = none ∧ (held (.reply [3] [] .nothing) 0xE05).interruptOf 0 = none ∧
       (held (.fe [] [] .nothing) 0xE05).interruptOf 0 = some 32 ∧ (mapped.at 1).live = false ∧ mapped.interruptOf 1 = none) ∧
    (let s := speculating []; s.ctx.spec ≠ [] ∧ (s.modifyAt 0 fun c => { c with status := 0xE05 }).interruptOf 0 = some 32) ∧
    (let t := (ctl mapped fun c => { c with status := 0x405, block := some ⟨.wfi, 0, []⟩ }).takeInterrupt 0 33
     t.ctx.epc = mapped.ctx.next ∧ t.ctx.cause = 2 ^ 63 + 33 ∧ t.ctx.status = 0x1B ∧ t.ctx.pc = mapped.regs.tvec ∧ t.ctx.block = none) := by
  decide

/-- The attempt of a context that only blocks leaves STEP standing; one that issued does not. -/
theorem test_witness_step_kept :
    (let d : Debug := { mapped.dbg with step := some 0 }
     let s := ctl mapped fun c => { c with block := some ⟨.queue 4, 0, []⟩ }
     (Claims.stepKept s 0 d).dbg.step = some 0 ∧ (Claims.stepKept mapped 0 d).dbg.step = none) := by
  refine ⟨?_, ?_⟩
  · unfold Claims.stepKept; rw [if_pos ⟨rfl, _, rfl, rfl⟩]
  · unfold Claims.stepKept; rw [if_neg (by rintro ⟨_, b, h, _⟩; exact absurd (show (none : Option Block) = some b from h) (by simp))]; rfl

theorem test_witness_StepKeepsMemory : mapped.mem.wf = true ∧ cellsWf mapped.spad.cells = true := by decide

/-! ### Single steps, with results worked out from the rules -/

/-- The value of a scalar register after an instruction. -/
noncomputable def regAfter (i : Instr) (s : State) (n : Nat) : Word := (after i s).readG (BitVec.ofNat 6 n)

/-- A floating register set. -/
def withF (l : List (Nat × Nat)) : State :=
  ctl mapped fun c => { c with f := l.foldl (fun g p => upd g p.1 (BitVec.ofNat 64 p.2)) c.f }

noncomputable def fAfter (i : Instr) (s : State) (n : Nat) : Word := (after i s).readF (BitVec.ofNat 6 n)

/-- The table of R82. -/
theorem test_division_R82 :
    (let s := withG [(6, 2 ^ 64 - 7), (7, 2)]
     regAfter (.div 5 6 7) s 5 = -3 ∧ regAfter (.rem 5 6 7) s 5 = -1 ∧ regAfter (.divu 5 6 7) s 5 = 0x7FFFFFFFFFFFFFFC ∧ regAfter (.remu 5 6 7) s 5 = 1) ∧
    (let s := withG [(6, 7), (7, 2 ^ 64 - 2)]
     regAfter (.div 5 6 7) s 5 = -3 ∧ regAfter (.rem 5 6 7) s 5 = 1 ∧ regAfter (.divu 5 6 7) s 5 = 0 ∧ regAfter (.remu 5 6 7) s 5 = 7) ∧
    (let s := withG [(6, 2 ^ 63), (7, 2 ^ 64 - 1)]
     regAfter (.div 5 6 7) s 5 = 0x8000000000000000 ∧ regAfter (.rem 5 6 7) s 5 = 0 ∧ regAfter (.divu 5 6 7) s 5 = 0 ∧
       regAfter (.remu 5 6 7) s 5 = 0x8000000000000000) ∧
    (let s := withG [(6, 9)]
     regAfter (.div 5 6 7) s 5 = -1 ∧ regAfter (.rem 5 6 7) s 5 = 9 ∧ regAfter (.divu 5 6 7) s 5 = -1 ∧ regAfter (.remu 5 6 7) s 5 = 9) := by decide

/-- A wrap, the high half of a product, a shift by more than the width, and a write that register 0 discards (R79 to R89). -/
theorem test_integer_steps :
    (let s := withG [(6, 2 ^ 64 - 1), (7, 65)]
     regAfter (.add 5 6 6) s 5 = -2 ∧ regAfter (.mulh 5 6 6) s 5 = 0 ∧ regAfter (.mulhu 5 6 6) s 5 = -2 ∧ regAfter (.shl 5 6 7) s 5 = -2 ∧
       regAfter (.sra 6 6 7) s 6 = -1 ∧ regAfter (.bfx 5 7 0 6) s 5 = 65 ∧ regAfter (.bfxS 5 7 0 6) s 5 = -63 ∧ regAfter (.popc 5 6) s 5 = 64 ∧
       regAfter (.cmp 5 6 7 2) s 5 = 1 ∧ regAfter (.cmp 5 6 7 4) s 5 = 0) ∧
    (let t := after (.add 5 6 6) mapped; t.ctx.pc = 0x10042) := by decide

/-- FP32: 1 + 2^-24 rounds to even and is inexact; the largest overflows; a division by zero sets DZ (R111 to R115). -/
theorem test_float_steps :
    (let s := withF [(1, 0x3F800000), (2, 0x33800000), (3, 0x7F7FFFFF), (4, 0), (5, 0x7F800001)]
     fAfter (.fadd 6 1 2 0) s 6 = 0x3F800000 ∧ fAfter (.fadd 6 1 2 2) s 6 = 0x3F800001 ∧ fAfter (.fadd 6 3 3 0) s 6 = 0x7F800000 ∧
       fAfter (.fadd 6 3 3 1) s 6 = 0x7F7FFFFF ∧ fAfter (.fdiv 6 1 4 0) s 6 = 0x7F800000 ∧ fAfter (.fsqrt 6 1 0) s 6 = 0x3F800000 ∧
       fAfter (.fma 6 3 3 1 0) s 6 = 0x7F800000 ∧ fAfter (.fmax 6 1 5) s 6 = 0x3F800000 ∧ regAfter (.fclass 5 5 0) s 5 = 0x100 ∧
       (after (.fdiv 6 1 4 0) s).ctx.frm = 0x800 ∧ (after (.fadd 6 1 2 0) s).ctx.frm = 0x100) := by decide

/-- A byte view: a saturating sum; a mask keeps what is inactive (R134, R136). -/
theorem test_vector_steps :
    (let s := ctl mapped fun c => { c with v := (upd (upd c.v 2 0x7F01) 3 0x0102), k := upd c.k 1 1 }
     (after (.vadd ⟨1, 2, 3, false, false, 0, 0⟩ 1) s).readV 1 = 0x7F03 ∧ (after (.vadd ⟨1, 2, 3, false, false, 0, 0⟩ 0) s).readV 1 = 0x8003 ∧
       (after (.vadd ⟨2, 2, 3, false, false, 1, 0⟩ 0) s).readV 2 = 0x7F03 ∧ (after (.vadd ⟨2, 2, 3, false, true, 1, 0⟩ 0) s).readV 2 = 0x0003) := by decide

/-- A store, and a load of what was stored; sign extension; an atomic's old value (R159, R169, R174). -/
theorem test_memory_steps :
    (let s := withG [(5, 0x8899AABBCCDDEEFF), (6, 0x20000), (7, 2)]
     let t : State := { after (.st 5 6 3 0) s with tlb := [] }
     t.mem.byte 0x20000 = 0xFF ∧ t.mem.byte 0x20007 = 0x88 ∧ t.mem.byte 0x20008 = 0 ∧ regAfter (.ld 8 6 2 true 0) t 8 = 0xFFFFFFFFCCDDEEFF ∧
       regAfter (.ld 8 6 2 false 0) t 8 = 0xCCDDEEFF ∧ regAfter (.ld 8 6 0 true 1) t 8 = -18 ∧
       regAfter (.amoAdd 8 6 7 3 false) t 8 = 0x8899AABBCCDDEEFF ∧ (after (.amoAdd 8 6 7 3 false) t).mem.byte 0x20000 = 1) := by decide

/-- A trap saves the pc, the cause and the privilege, and goes to TVEC (R341, R342); `rte` returns (R348). -/
theorem test_trap_steps :
    (let s : State := { mapped with regs := { mapped.regs with tvec := 0x10002 } }
     let t := after (.sysc 7) (ctl s fun c => { c with status := 0 })
     t.ctx.pc = 0x10002 ∧ t.ctx.epc = 0x10042 ∧ t.ctx.cause.bits 0 8 = 12 ∧ t.ctx.status.bit 0 = true ∧ t.ctx.finfo = 7 ∧
       (after .rte t).ctx.pc = 0x10042 ∧ (after .rte t).ctx.status.bit 0 = false) := by decide

/-- The one head of a line goes on at the next line: a branch is taken, `loop` counts down, and `jal` links (R94 to R97). -/
theorem test_control_steps :
    (let s := withG [(6, 5), (7, 6)]
     (after (.br 6 7 2 0) s).ctx.pc = 0x10002 ∧ (after (.br 7 6 2 0) s).ctx.pc = 0x10042 ∧ (after (.loop 6 0) s).ctx.pc = 0x10002 ∧
       regAfter (.loop 6 0) s 6 = 4 ∧ regAfter (.jal 31 0) s 31 = 0x10042) := by decide

/-- Semaphores saturate (R254); a released barrier of one context lets it go on (R202). -/
theorem test_semaphore_steps :
    (let s := mapped.putSem 3 65535
     (after (.sinc 3 1) s).sem 3 = 65535 ∧ (after (.sinc 3 1) s).regs.semstat = 0x103 ∧ regAfter (.sget 5 3) s 5 = 65535) ∧
    ((after (.barrierRelease 1) atBar).ctx.block = none ∧ regAfter (.barrierRelease 1) atBarv 5 = 7) := by decide

/-! ### Witnesses of the clauses not met above -/

/-- An identification of a set `cut` beside `cur` is no instruction (R276, R43). -/
theorem test_esread_refused : decode 0xF305 0x180E0000 = .error .reservedField ∧ (Instr.esread 5 6 3 true .none).wf = false := by decide

theorem test_witness_contexts_more :
    (let s := ctl mapped fun c => { c with landing := [30] }
     Issues s [] ∧ s.ctx.draining (min s.ctx.vn (8 / 8)) = true ∧ mapped.ctx.draining (min mapped.ctx.vn (8 / 8)) = false) ∧
    (mapped.cur = 0 ∧ mapped.dbg.sessions = [] ∧ Issues mapped []) ∧
    (let s := ctl mapped fun c => { c with block := some ⟨.idle, 0, []⟩ }; (s.at 0).live = true ∧ (s.at 0).block = some ⟨.idle, 0, []⟩) ∧
    (let s := ctl mapped fun c => { c with gang := some ⟨false, 3⟩ }
     s.ctx.gang = some ⟨false, 3⟩ ∧ ([1] : List Nat) = (Gang.others ⟨false, 3⟩ s.core)) ∧
    (let s := withG [(6, 1)]
     Issues s [.wG 5] ∧ s.inFlight = 0 ∧ (∀ c ∈ s.eng.copy, c.started = false) ∧
       (s.asked ⟨0, s.ownBase + 2 ^ 33, .access (.read 8), false, false⟩).inFlight ≠ 0) := by decide

theorem test_witness_memory_more :
    (let s := speculating [(5, 77), (6, 0x1000)]
     let s : State := { s with spad := { s.spad with poison := [0x400] } }
     s.canIssue .free [.rG 0 5, .rG 1 6] false = true ∧ s.ctx.holds = true ∧ s.ctx.hold = [] ∧ s.spadBad 0x1000 2 = true ∧
       (∃ j < 4, heldByte true (0x1000 / 4 * 4 + j) s.ctx.hold = none) ∧
       (let t := s.hold [⟨true, 0x1000, 0x1000, here, listed 0x01020304 4, false, true⟩]
        t.spadBad 0x1000 2 = true ∧ ∀ j < 4, (heldByte true (0x1000 / 4 * 4 + j) t.ctx.hold).isSome = true)) ∧
    (let s := withG [(6, 0x20000)]; ∀ e ∈ s.mem.retry, e.ga / 8 ≠ 0x20000 / 8) ∧
    (let s := spread [(6, 0x20000), (8, 0x1FFFF8)]
     let addr (j : Nat) : Word := s.readG 8 + BitVec.ofNat 64 (8 * j)
     s.elementsWait 0 3 addr = false ∧
       (let x := ({ s with mem := s.mem.write (s.ownBase + 0x4008) 8 0 } : State).translateElems 0xE0 8 .load addr (s.elements 0 3)
        x.1.map (·.1) = [0] ∧ x.2.isSome = true ∧ (x.2.map (·.vstart)) = some (some 1))) ∧
    (let parts : List (List (Nat × Nat × Nat × Nat)) := [[(0, 0, 0, 8), (1, 0, 8, 8)]]
     (parts.flatten.flatMap fun q => (List.range q.2.2.2).map (q.1 * 8 + q.2.1 + ·)).Nodup ∧ ∀ r ∈ [Reply.data 5], ∃ v, r = Reply.data v) := by
  refine ⟨by decide, by decide, by decide, by decide, ?_⟩
  intro r h
  simp only [List.mem_singleton] at h
  exact ⟨5, h⟩

theorem test_witness_fences_more :
    (let r : Request := ⟨7, 0, 0, 0x200000, 0, here, .access .tdec, true, false, 0, [], .sent, 0⟩
     let q : Request := ⟨8, 0, 0, 0, 0, here, .queue 5 .len, true, false, 0, [], .sent, 0⟩
     let s : State := { mapped with net := [r, q] }
     r ∈ s.net ∧ r.ctx = s.cur ∧ r.gen = s.ctx.gen ∧ r.stage ≠ .answered ∧ s.storesClear s.cur 10 = false) ∧
    (mapped.storesClear mapped.cur 10 = true ∧ Issues mapped []) ∧
    (let s := ctl mapped fun c => { c with pending := some ⟨0, false, 17, 0, 0x20000, 0⟩ }
     s.storesClear s.cur 10 = true ∧ s.ctx.spec = [] ∧ s.ctx.report.isSome = true) ∧
    (let l : Line := ⟨0x10000, 0x10000, []⟩; let s : State := { mapped with lines := [l] }
     l ∈ s.lines ∧ ¬ (2 ^ 20 ≤ (0 : Word).toNat ∨ (0 : Word) ≠ 0 ∧ (0 : Word).toNat < l.va.toNat + 64)) := by decide

/-- Two contexts of an episode, the field 1: the second starts the next one. -/
def twoArrived : State :=
  ((ctl (mapped.startHelper 1 1 0 0 here 0) fun c => { c with block := some ⟨.bar 1 (some (5, .add, 7)), 0, []⟩ }).modifyAt 1 fun c =>
    { c with block := some ⟨.bar 1 (some (6, .add, 9)), 1, []⟩ }).setBarrier 1 fun b =>
      { b with field := 1, signalled := true, members := [(0, 0)], waiting := [(1, 0)] }

/-- An arrival fills a gap, joins the episode or waits for the next; the episode withdraws its signal with a member's arrival. -/
theorem test_witness_barriers_more :
    (twoArrived.arrivedAt 1 = [0] ∧ (twoArrived.barrier 1).signalled = true ∧
      twoArrived.contributions [0] ++ (twoArrived.barrier 1).vals = ([7] : List Word).map (RedOp.add, ·) ∧ (5 : Field) ≠ 0 ∧
      twoArrived.barField 1 = 1 ∧ (1 : BitVec 4).toNat ≤ 8) ∧
    (let b : Barrier := ⟨false, 2, [], [], [], [], [0]⟩
     b.waiting = [] ∧ 0 ∈ b.gaps ∧ 1 ∉ b.gaps ∧ b.members.length + b.gaps.length < (b.arrive 1 0 2).field ∧
       (b.arrive 1 0 2).members = [(1, 0)] ∧ (b.arrive 0 0 2).gaps = [] ∧
       (let c : Barrier := { b with field := 1 }
        (c.arrive 1 0 1).field ≤ c.members.length + c.gaps.length ∧ (c.arrive 1 0 1).waiting = [(1, 0)])) ∧
    (let b := twoArrived.barrier 1
     b.members.any (·.1 == 0) = true ∧ (b.members.filter (·.1 != 0)).length + 1 + b.gaps.length = b.field ∧
       ((twoArrived.withdraw 0 1 true).barrier 1).gaps = [0] ∧ ((twoArrived.withdraw 0 1 true).barrier 1).waiting = [(1, 0)]) ∧
    (let s : State := { twoArrived with regs := { twoArrived.regs with barcfg := 0 } }
     s.barField 1 = 0 ∧ (s.barrier 1).waiting.map (·.1) = [1] ∧ 1 ∉ s.arrivedAt 1 ∧ (s.at 1).live = true ∧
       (s.at 1).block = some ⟨.bar 1 (some (6, .add, 9)), 1, []⟩) := by decide

theorem test_barrier_release_step : (after (.barrierRelease 1) twoArrived).ctx.block = none ∧ regAfter (.barrierRelease 1) twoArrived 5 = 7 ∧
    ((after (.barrierRelease 1) twoArrived).at 1).block.isSome = true := by decide

/-- A group of two whose last episode, of number 0, has resolved. -/
noncomputable def resolved : State :=
  { grouped [] with groups := (grouped []).groups.map fun g => { g with seq := 1, result := some (0, none, 0) } }

theorem test_witness_collective_more :
    there (resolved.group 3 0) (fun g => g.broken = none ∧ g.arrivals = [] ∧ g.seq ≠ 0 ∧ (g.result.map (·.1)) = some 0 ∧ g.seq = 1) = true ∧
    there ((grouped []).group 3 0) (fun g => g.members.Nodup ∧ g.arrivals.length < 2) = true := by decide

/-- A streaming multiply at the head of the queue, the unit active. -/
noncomputable def streamReady : State :=
  (after (.mmaStream 0xA2 tiny .none) (shaped 2 2 0 [square 2, square 3] 64)).withMx fun m =>
    { m with active := true, streamEnd := 0, queue := m.queue.map fun c => { c with ready := some 0 } }

theorem test_witness_matrix_more :
    there streamReady.mxReady (fun x => x.2.1.what.streams = true ∧ x.2.1.ready = some 0 ∧ x.1 = []) = true ∧
    (let s := streamReady.withMx fun m => { m with active := false }
     s.dbg.clusterHalted = false ∧ s.mx.active = false ∧ s.mx.streamEnd ≤ s.mx.boundary + 4 ∧ max 0 (s.mx.streamEnd - 1) < s.mx.boundary + 4) ∧
    (let s := mapped.withMx fun m => { m with active := true, streamEnd := 9 }; s.mx.boundary + 4 < s.mx.streamEnd) ∧
    (mapped.regs.fillcnt.bits 0 32 ≠ 2 ^ 32 - 1 ∧ cellsWf mapped.spad.cells = true ∧ mapped.spadBad 0x1000 2 = false) ∧
    (pairOf 0xA7 = some ⟨8, 8, 64, 1, false⟩ ∧ there (pairOf 0xA2) (fun p => p.kind = 0) = true ∧ mstMc 0 ≠ 3 ∧ mstNc 0 ≤ 3) ∧
    (Claims.apart ⟨0x1000, 0⟩ 2 ⟨0x1010, 0⟩ 2 ∧ (0 : Nat) < 2) := by
  refine ⟨by decide, by decide, by decide, by decide, by decide, ?_, by decide⟩
  unfold Claims.apart; decide

theorem test_witness_engines_more :
    (let l := row 3 1
     l.space = 1 ∧ mapped.spad.poison = [] ∧ cellsWf mapped.spad.cells = true ∧ (0 : Nat) ≤ boxSize [0x40000000000] ∧
       (there (l.locate (boxSource [0x40000000000] 0)) fun p => inSpad p.addr) = true) ∧
    (([0, 1, 2] : List Nat).map bankOf).Nodup ∧
    (let s := withLayouts (spread []) [row 3 0]
     let v : Via := ⟨s.ctx.root, true, 0xB0⟩
     passes (s.engPieces v 0x20000 8 .load) (fun ps => ps.length = 1 ∧ ps.all fun p => p.n = 8 ∧ s.moved p.ga = p.ga ∧
       s.mem.poisoned p.ga 8 = false ∧ gaSpace p.ga = 0 ∧ s.mem.isSealed p.ga = false) = true ∧ s.mem.wf = true) ∧
    (let q : Piece := ⟨0, 1, 0x20000, ⟨0, 0, 0, 0, []⟩⟩; gaSpace q.ga = 0 ∧ mapped.engHome q true = none ∧ mapped.moved q.ga = q.ga) ∧
    ((10 : Nat) < 2 ^ 32 ∧ (7 : Nat) < 2 ^ 64) := by decide

theorem test_witness_semaphores_more :
    (let s := ctl mapped fun c => { c with block := some ⟨.sem 3 2, 0, []⟩ }
     (s.at 0).live = true ∧ (s.at 0).block = some ⟨.sem 3 2, 0, []⟩ ∧ (∀ j : Fin 11, j ≠ 0 → (s.at j).block = none) ∧
       s.sem 3 < 2 ∧ 2 ≤ (s.putSem 3 2).sem 3 ∧ s.eng.copy = [] ∧ s.mx.queue = []) := by decide

/-- Object 3 of the core, with so many state words, its slot 0 in a state, sent to by object 9 of generation 0. -/
def slotted (tag : Nat) : State := (withObject 1 []).setTag 3 0 tag

/-- An event of one word for it. -/
def oneEvent (ret : Bool) : Ev := ⟨3, 0, 0, 9, false, 0, 5, [0x3F800000], ret, 0⟩

theorem test_witness_delete_more : ((withObject 4 []).delete 3).1.seqNo = (withObject 4 []).seqNo := by decide

theorem test_witness_slots_more : (let s := slotted (2 ^ 62 + 9)
    dirSt (s.dir 3) = 1 ∧ dirGen (s.dir 3) = (oneEvent false).dgen.toNat ∧ hdNs (s.hd 3 0) = 2 ∧ hdSw (s.hd 3 0) = 1 ∧ hdKind (s.hd 3 0) ≠ 2 ∧
      slice (s.tagOf 3 0) 62 2 = 1 ∧ slice (s.tagOf 3 0) 0 41 = (oneEvent false).src.toNat ∧ slice (s.tagOf 3 0) 41 1 = (oneEvent false).n.toNat ∧
      slice (s.tagOf 3 0) 54 8 = (oneEvent false).sgen.toNat ∧ slice ((slotted (2 ^ 62 + 8)).tagOf 3 0) 0 41 ≠ (oneEvent false).src.toNat ∧
      slice ((slotted (2 ^ 63 + 2 ^ 54 + 9)).tagOf 3 0) 62 2 = 2 ∧ slice ((slotted (2 ^ 63 + 2 ^ 54 + 9)).tagOf 3 0) 54 8 ≠ (oneEvent false).sgen.toNat) := by
  decide

theorem test_witness_shadow_more :
    (let s : State := { withObject 1 [] with regs := { mapped.regs with esnap := BitVec.ofNat 64 (2 ^ 40 + 7) } }
    s.regs.esnap.bit 40 = true ∧ s.regs.esnap.bits 0 32 = 7 ∧ slice (s.hd 3 0) 38 2 = 0 ∧ slice (s.hd 3 0) 40 8 = s.regs.esnap.bits 32 8 ∧
      slice ((s.shadow 3 9).hd 3 0) 38 2 = 1 ∧ (withObject 1 []).regs.esnap.bit 40 = false) := by decide

theorem test_witness_queue_more : (let s := withObject 1 []
    dirQ (s.dir 3) = 0 ∧ dirQ ((s.setQ 3 3).dir 3) = 3 ∧ dirQ ((s.setQ 3 1).dir 3) = 1 ∧ s.drone.residual.length < 64 ∧ s.regs.etcfg.bit 16 = false ∧
      dirSt (s.dir 3) ≠ 2 ∧ (s.handler (hdType (s.hd 3 0))).valid = false ∧ slice (s.hd 3 0) 36 1 = 0) := by decide

theorem test_witness_banks_more : bankGt 0x3F800000 0 = true ∧ bankGt 0 0x3F800000 = false ∧ bankGe 0 0 = true ∧
    bankGt ((withObject 1 []).resid 3) 0 = false ∧ bankGt (((withObject 1 []).setResid 3 0x3F800000).resid 3) 0 = true := by decide

theorem test_witness_residual_more : (let q := (List.replicate 64 ((5 : BitVec 12), (0 : BitVec 32), 0))
    let s := (withObject 1 []).withDrone fun d => { d with residual := q }
    64 ≤ s.drone.residual.length ∧ s.drone.residual.getLast? = some (5, 0, 0)) := by decide

theorem test_witness_spread_more : (let s : State := { mapped with launch := { mapped.launch with nx := 0 } }; s.jobCores ≤ 5) ∧
    (let s : State := { mapped with launch := { mapped.launch with nx := 1, ny := 1 } }; 5 < s.jobCores) := by decide

theorem test_witness_event_unit_more : mapped.startableHandler = none ∧ mapped.eng.event = [] ∧ mapped.writingBack = false := by decide

theorem test_witness_pending_more :
    (let s := (withObject 1 []).withDrone fun d => { d with pending := List.replicate pendingDepth ⟨0, false, oneEvent false⟩ }
    pendingDepth ≤ s.drone.pending.length) := Nat.le_of_eq (List.length_replicate (n := pendingDepth)).symm

theorem test_witness_tasks_more :
    (let s := spread [(6, 0x20000), (10, 0x200000)]
     passes (s.translate s.cur (s.readG 6) 8 .atomic 0xD1 0) (fun t => s.ownSlice t.ga = true ∧ s.deadHome t.ga = none) = true ∧
       passes (s.translate s.cur (s.readG 10) 8 .atomic 0xD1 0) (fun t => s.ownSlice t.ga = false ∧ s.deadHome t.ga = none ∧ gaSpace t.ga = 0) = true) ∧
    (mapped.silent 0x20000 = false ∧ mapped.closedAt (gaPkg 0x20000) (gaCore 0x20000) = none ∧ mapped.launch.acked = false ∧
      (let s : State := { mapped with mem := { mapped.mem with frozen := [granule 0x20000] } }
       s.silent 0x20000 = false ∧ s.mem.frozen.contains (granule 0x20000) = true) ∧
      (let s : State := { mapped with mem := { mapped.mem with sealed := [granule 0x20000] } }; (s.recordError 0x20000).isSome = true)) ∧
    (let s : State := { mapped with mem := mapped.mem.write 0x20020 8 (2 ^ 36 + 2 ^ 45) }
     let one := { s with mem := s.mem.write 0x20018 8 (2 ^ 32) }
     recState (s.taskWord 0x20000 4) = 1 ∧ (recPred (s.taskWord 0x20000 3) + 2 ^ 32 - 1) % 2 ^ 32 ≠ 0 ∧
       (recPred (one.taskWord 0x20000 3) + 2 ^ 32 - 1) % 2 ^ 32 = 0) ∧
    (let s : State := { mapped with queues := [aQueue] }
     let bad : State := { s with mem := { s.mem with poison := [0x40000 / 8] } }
     s.mem.poisoned (s.moved (aQueue.base + 64 * (aQueue.head.toNat % 2 ^ aQueue.log2))) 8 = false ∧
       bad.mem.poisoned (bad.moved (aQueue.base + 64 * (aQueue.head.toNat % 2 ^ aQueue.log2))) 8 = true ∧
       s.peek (aQueue.base + 8) 8 % 2 ^ 32 = (0 : BitVec 32).toNat ∧ s.peek (aQueue.base + 8) 8 % 2 ^ 32 ≠ (1 : BitVec 32).toNat) ∧
    (let s := helper.modifyAt 1 fun c => { c with qlast := BitVec.ofNat 64 (2 ^ 63 + 5 * 2 ^ 32) }
     (s.at 1).live = true ∧ (s.at 1).works 5 = true ∧
       (let t := helper.modifyAt 1 fun c => { c with block := some ⟨.reply [4] [] (.claim 5 5), 0, []⟩ }
        (t.at 1).works 5 = false ∧ (t.at 1).block = some ⟨.reply [4] [] (.claim 5 5), 0, []⟩)) := by decide

theorem test_witness_messages_more :
    (let s : State := { mapped with dbg := { mapped.dbg with clusterHalted := true } }; s.dbg.clusterHalted = true ∧ mapped.dbg.clusterHalted = false) ∧
    (let s := ctl (mapped.startHelper 1 1 0 0 here 0) fun c => { c with block := some ⟨.save 5 1 0x20000, 0, []⟩ }
     (s.at 0).live = true ∧ (s.at 0).block = some ⟨.save 5 1 0x20000, 0, []⟩ ∧ s.stopped 1 = true ∧ s.atQuiet 1 = true ∧ (s.at 1).live = true ∧
       s.atQuiet 2 = true ∧ (s.at 2).live = false ∧ (∀ i : Fin 11, i ≠ 0 → (s.at i).block = none) ∧
       (let t := s.modifyAt 1 fun c => { c with block := some ⟨.park, 0, []⟩ }; t.stopped 1 = true ∧ t.atQuiet 1 = false)) ∧
    (let s : State := { mapped with mem := { mapped.mem with frozen := [granule 0x20000] } }
     gaSpace 0x20000 = 0 ∧ s.unserved 0x20000 = false ∧ s.moved 0x20000 = 0x20000 ∧ s.mem.frozen.contains (granule 0x20000) = true) ∧
    (let s : State := { mapped with guard := { mapped.guard with closedClusters := [0] } }; (s.closedAt (gaPkg 0x20000) (gaCore 0x20000)).isSome = true) ∧
    (let r : ForeignReq := ⟨0x20000, .read 8, 7⟩; let s : State := { mapped with rnrs := [r] }; s.rnrs.contains r = true) ∧
    (let q : Request := ⟨5, 0, 0, 0, 0, here, .event 9 (oneEvent false), false, false, 64, [], .listed, 0⟩
     let s : State := { mapped with net := [q] }
     s.net.find? (·.id == 5) = some q ∧ q.stage = .listed ∧ q.msg = .event 9 (oneEvent false) ∧ (9 : Word).toNat ≠ s.lcore.toNat ∧
       ∀ c ∈ s.eng.event, c.req ≠ some 5) ∧
    (let q : Request := ⟨5, 0, 0, 0x200000, 0, here, .access (.read 8), false, false, 64, [], .refused, 0⟩
     let s : State := { mapped with net := [q] }
     s.net.find? (·.id == 5) = some q ∧ q.stage = .refused ∧ s.regs.rnrlim.bits 0 8 ≤ q.tries ∧ ∀ x ∈ s.net, ∀ ids, x.stage ≠ .after ids) ∧
    (let s := after (.hcall 5 6 7) mapped
     let s : State := { s with service := { s.service with queue := [.interrupt 3], unacked := 1 } }
     s.service.queue = .interrupt 3 :: [] ∧ s.service.unacked ≠ 0 ∧ mapped.service.queue = []) := by
  refine ⟨by decide, by decide, by decide, by decide, by decide, ⟨by decide, by decide, rfl, by decide, by decide⟩,
    ⟨by decide, by decide, by decide, ?_⟩, by decide⟩
  intro x h ids
  simp only [List.mem_singleton] at h
  subst h
  simp

theorem test_witness_steps_more :
    (mapped.leaderLine 0 = none ∧ (mapped.at 0).line = none) ∧
    (let l : Line := ⟨0x10000, 0x10000, []⟩; let s := ctl mapped fun c => { c with line := some l }; s.leaderLine 0 = none ∧ (s.at 0).line = some l) ∧
    mapped.clock.dueSems.isEmpty = true :=
  ⟨⟨rfl, rfl⟩, ⟨rfl, rfl⟩, clock_passes (p := fun s => s.dueSems.isEmpty) (by decide) (by decide)⟩

theorem test_witness_choice_more : mapped.chosenOf [0] = none ∧ ({ mapped with stalled := true } : State).stalled = true := ⟨rfl, rfl⟩

/-! ### Witnesses of the clauses on operands, contexts and their waits -/

theorem test_witness_operands :
    (mapped.useFault (.rG 1 8) = none ∧ helper.useFault (.rG 1 8) = some 1 ∧ mapped.useFault (.rG 1 32) = some 2 ∧ mapped.useFault (.wG 35) = none ∧
      mapped.useFault (.wG 36) = some 2 ∧ mapped.useFault (.rG 1 39) = none ∧ mapped.useFault (.wG 42) = some 0 ∧
      mapped.useFault (.rG 1 43) = some 0 ∧ mapped.useFault (.wG 43) = none ∧ mapped.useFault (.rG 1 40) = none ∧ mapped.useFault (.rG 1 44) = some 0 ∧
      helper.useFault (.rV 0 8) = some 1 ∧ mapped.useFault (.rV 0 34) = none ∧ mapped.useFault (.wV 34) = some 0 ∧ mapped.useFault (.rV 0 36) = some 0 ∧
      mapped.useFault ⟨0, .f, 16, true, false⟩ = some 0 ∧ mapped.useFault ⟨0, .t, 7, true, false⟩ = none) ∧
    (Claims.channelThere mapped 3 true ∧ ¬ Claims.channelThere mapped 3 false ∧ Claims.channelThere mapped 0 true) ∧
    (nth mapped.slots 1 [] = [] ∧ (mapped.writeG 41 7).sent = [.channel 1 (neighbour mapped.quadMode mapped.core 1) 7] ∧
      nth (mapped.writeG 33 7).ctx.stage 1 [] = [7]) ∧
    (let s := mapped.withEng fun e => { e with ret := upd e.ret 1 [7, 9] }
     (∀ j : Fin 11, j ≠ s.cur → (s.at j).block = none) ∧ nth s.eng.ret 1 [] = [7, 9] ∧ s.readG 37 = 7 ∧ nth (s.consume [5]).eng.ret 1 [] = [9]) ∧
    (let s : State := { mapped with chans := upd mapped.chans 5 [7, 9] }
     nth s.chans 5 [] = [7, 9] ∧ s.readV 33 = 7 ∧ nth (s.consume [13]).chans 5 [] = [9] ∧ (5 : Field).toNat < 36) := by
  unfold Claims.channelThere; decide

theorem test_witness_issue_held :
    (let s := speculating []
     s.ctx.spec.length = 1 ∧ (∀ u ∈ ([.wG 5] : List Use), s.useFault u = none) ∧ (Use.wG 5).special = false ∧ (Use.wG 32).special = true ∧
       Config.windowLength ≤ (s.modifyAt 0 fun c => { c with spec := c.spec.map fun p => { p with issued := 1024 } }).ctx.spec.head?.elim 0 (·.issued)) ∧
    (let s := ctl mapped fun c => { c with hold := [⟨false, 0x20000, 0x20000, here, [(0, 1)], false, true⟩] }; s.ctx.spec = [] ∧ s.ctx.hold ≠ []) ∧
    (sources [.rG 1 36] = [4] ∧ mapped.entry 4 = none ∧ sources [.rG 1 41] = [9] ∧ mapped.entry 9 = none ∧ sources [.wG 32] = []) ∧
    (let s := ctl mapped fun c => { c with stage := upd c.stage 0 (List.replicate 16 0) }
     (∀ u ∈ [Use.wG 32], s.useFault u = none) ∧ Config.stageDepth ≤ (nth s.ctx.stage 0 []).length) ∧
    (let s : State := { mapped with away := upd mapped.away 1 4, chans := mapped.chans }
     (∀ u ∈ [Use.wG 41], s.useFault u = none) ∧ Config.channelDepth ≤ s.chanLoad s.cur 1) := by decide

/-- The control context with a wait. -/
def held (s : State) (w : Wait) : State := ctl s fun c => { c with block := some ⟨w, 0, []⟩ }

/-- The control context alone waits in this block. -/
abbrev HeldAlone (s : State) (w : Wait) : Prop :=
  (s.at 0).live = true ∧ (s.at 0).block = some ⟨w, 0, []⟩ ∧ ∀ j : Fin 11, j ≠ 0 → (s.at j).block = none

/-- A `start` that waits is granted with a free helper and granules, and is held without. -/
theorem test_witness_starts_more :
    (let s := held mapped (.start 5 here 9 none 1 1 2); HeldAlone s (.start 5 here 9 none 1 1 2) ∧ s.fits 1 1 = true ∧
      (s.at 1).live = false ∧ s.lowestFree = some 1 ∧ (s.grant.at 1).pri = 2 ∧ s.grant.readG 5 = 1) ∧
    (let s := held (mapped.startHelper 1 28 4 0 here 0) (.start 5 here 9 (some 2) 1 1 2); HeldAlone s (.start 5 here 9 (some 2) 1 1 2) ∧ s.fits 1 1 = false) ∧
    (let s := (withG [(6, 0x10002), (8, 1)]).startHelper 1 1 1 0 here 0
     Issues s [.wG 5, .rG 1 6, .rG 2 7, .rG 3 8] ∧ s.cur = 0 ∧ s.checkTarget (s.readG 6) = none ∧ s.readG 8 = BitVec.ofNat 64 (1 : Fin 11).val ∧ (s.at 1).live = true) ∧
    (let s : State := { held (mapped.startHelper 1 1 0 0 here 0) (.cwait 5 1 1) with cur := 1 }
     s.ctx.hobj.bit 40 = false ∧ s.dbg.sessions = [] ∧ (0 : Fin 11) ≠ s.cur ∧ (s.at 0).block = some ⟨.cwait 5 s.cur.val s.ctx.gen, 0, []⟩ ∧
       (∀ i : Fin 11, i ≠ s.cur → i ≠ 0 → (s.at i).block = none) ∧ nth (s.depart.at 0).g 5 0 = 1) := by decide

/-- What a `wake` ends, withdraws and leaves alone, and the grant of a `grow`. -/
theorem test_witness_waits_more :
    (HeldAlone (held mapped .wfi) .wfi ∧ HeldAlone (held mapped .idle) .idle ∧ HeldAlone (held mapped (.sem 3 2)) (.sem 3 2) ∧
      (∀ d n v, Wait.sem 3 2 ≠ .grow d n v) ∧ (∀ d c m, Wait.sem 3 2 ≠ .gang d c m) ∧ ((held mapped (.sem 3 2)).wake 0).ctx.token = true) ∧
    (let s := held mapped (.gang 5 false 3); HeldAlone s (.gang 5 false 3) ∧ (s.wake 0).ctx.block = none ∧ (s.wake 0).ctx.token = false) ∧
    (let s := held (ctl (mapped.startHelper 1 29 0 0 here 0) fun c => { c with sn := 1, vn := 0 }) (.grow 5 4 0)
     HeldAlone s (.grow 5 4 0) ∧ s.fits (4 - (s.at 0).sn) (0 - (s.at 0).vn) = false ∧ (s.wake 0).ctx.sn = 1 ∧
       s.firstBlocked Wait.forPool = some (0, ⟨.grow 5 4 0, 0, []⟩)) ∧
    (let s := held (ctl mapped fun c => { c with sn := 1, vn := 0 }) (.grow 5 4 0)
     HeldAlone s (.grow 5 4 0) ∧ s.fits (4 - (s.at 0).sn) (0 - (s.at 0).vn) = true ∧ (s.grant.at 0).sn = 4 ∧ s.grant.readG 5 = 1) ∧
    (5 : Field) ≠ 0 ∧ (5 : Field).toNat < 32 := by
  refine ⟨⟨by decide, by decide, by decide, by simp, by simp, by decide⟩, by decide, by decide, by decide, by decide, by decide⟩

theorem test_witness_images_more :
    ((0x13 : Nat) ≤ 0x39 ∧ 0x39 < 0x3A ∧ 31 < 32 ∧ 15 < 16 ∧ 7 < 8) ∧
    (let s := (withG [(7, 0x20000), (9, 1)]).startHelper 1 1 0 0 here 7
     passes (s.imageFor (s.readG 7) 4096 .load 0x0C) (fun x => (x.1.readG 9).toNat = (1 : Fin 11).val ∧ (x.1.at 1).live = true) = true) ∧
    (let s := withG [(7, 0x20000), (9, 1)]
     let s : State := { s with mem := s.mem.write 0x20050 8 (2 ^ 63) }
     passes (s.imageFor (s.readG 7) 4096 .load 0x0C) (fun x => (x.1.imageAt x.2 10).bit 63 = true) = true) := by decide

/-- Stores behind an adaptive one to the same byte, and to a word with an error inside a window (R161, R167). -/
theorem test_witness_stores_more :
    (let s := (spread [(5, 77), (6, 0x200000)]).asked ⟨0x200000, State.reset.ownBase + 2 ^ 33, .access (.write [(0, 1)]), true, true⟩
     Issues s [.rG 0 5, .rG 1 6] ∧ s.ctx.holds = false ∧
       passes (s.translateAll .store 0x81 0 (.plain 8) (pieces 9 (s.readG 6) 8)) (fun ps => ps.any fun p => s.overtakes [(p.ga, p.n)]) = true) ∧
    (let s := speculating [(5, 77), (6, 0x20001)]
     let s : State := { s with mem := { s.mem with poison := [0x20000 / 8] } }
     s.canIssue .free [.rG 0 5, .rG 1 6] false = true ∧ s.ctx.holds = true ∧
       passes (s.translateAll .store 0x81 0 (.plain 1) (pieces 9 (s.readG 6) 1)) (fun ps => ps.length = 1 ∧ ps.all fun p => s.ownSlice p.ga ∧
         0 < p.n ∧ p.n < 8 ∧ s.mem.poison.contains (s.moved p.ga / 8) ∧ (List.range 8).any fun j => (heldByte false (p.ga / 8 * 8 + j) s.ctx.hold).isNone) = true) ∧
    (let s := speculating [(5, 77), (6, 0x20000)]
     passes (s.translateAll .store 0x81 0 (.plain 8) (pieces 9 (s.readG 6) 8)) (fun ps => ps.all fun p => s.ownSlice p.ga) = true ∧ s.mem.poison = [] ∧
       (s.ctx.hold.filter (·.head)).length < Config.holdDepth ∧ s.ctx.sentLoads = ([], [], 0, none) ∧
       (let x := s.translateElems 0xE1 8 .store (fun j => s.readG 6 + BitVec.ofNat 64 (8 * j)) (s.elements 0 3)
        x.2 = none ∧ (s.ctx.hold.filter (·.head)).length + (messagesOf x.1).length ≤ Config.holdDepth)) := by decide

/-- A granule's seal on its way is waited for at its home's scope and at the scope of its `seal` (R198). -/
theorem test_witness_seals_more :
    (let r : Request := ⟨7, 0, 0, 2 ^ 62, 0, here, .access .unseal, true, false, 0, [], .after [], 2⟩
     let s : State := { mapped with net := [r] }
     r ∈ s.net ∧ r.ctx = s.cur ∧ r.gen = s.ctx.gen ∧ r.posted = true ∧ r.stage ≠ .answered ∧ r.scope ≠ 0 ∧ r.scope ≤ 2 ∧ s.inScope r.ga 2 = false ∧
       s.storesClear s.cur 2 = false ∧ s.storesClear s.cur 1 = true) := by decide

/-- An arrival that comes before its group's entry joins it; one too many breaks it; a late one is the entry's own time-out. -/
theorem test_witness_arrivals_more :
    (let s := spread [(30, 3), (29, 2)]
     let s : State := { s with strays := [⟨3, 0, 0, 2, .cred .add 7⟩] }
     Issues s [.wG 5, .rG 1 30, .rG 2 29] ∧ s.ctx.inGroup = false ∧ s.readG 29 ≠ 0 ∧ (s.readG 29).toNat < 2 ^ 33 ∧ s.group 3 0 = none ∧ (2 : BitVec 33) ≠ 0 ∧
       there ((after (.cjoin 5 30 29 0) s).group 3 0) (fun g => g.members = [0] ∧ g.arrivals = [(0, 2, .cred .add 7)]) = true ∧
       (after (.cjoin 5 30 29 0) s).strays = []) ∧
    (let s := speculating []
     there (s.group 3 0) (fun g => g.broken = none ∧ g.arrivals.length = 1 ∧ g.seq = 0 ∧
       (g.arrivals.all fun x => x.1 = 0 ∧ sameKind x.2.2 (.any true))) = true ∧
       (after (.collectiveArrival 3 0 0 1 (.any true)) s).ctx.cause.bits 0 8 = 21 ∧ .breakGroup 3 0 2 ∈ (after (.collectiveArrival 3 0 0 1 (.any true)) s).sent ∧
       there ((after (.collectiveArrival 3 0 0 2 (.any true)) s).group 3 0) (fun g => g.broken = none ∧ g.arrivals.length = 2) = true) ∧
    (let s := (ctl (speculating []) fun c => { c with ctimeo := 1 })
     let s : State := { s with units := { s.units with pcyc := 2000 } }
     there (s.group 3 0) (fun g => (0 : Fin 11) ∈ g.members) = true ∧ (s.at 0).brk = 0 ∧ (s.at 0).voted = true ∧ (s.at 0).ctimeo.bits 0 24 ≠ 0 ∧
       (s.at 0).ctimeo.bits 0 24 * 1250 < (s.units.pcyc - (s.at 0).arrived).toNat ∧ .timeout 3 0 ∈ (after (.cbtimeo 3 0) s).sent) := by decide

/-- A matrix command of context 0 that has started. -/
def mxCmd (what : MxOp) (rpt failed : Bool) (y : Sync) (note : Option (BitVec 29 × BitVec 8)) : MxCmd :=
  ⟨9, 7, 0xA1, what, y, rpt, if failed then some (0, 0) else none, note, true, none, failed, 0, none, []⟩

/-- Return queue `q` full. -/
def fullReturn (s : State) (q : Nat) : State := s.withEng fun e => { e with ret := upd e.ret q (List.replicate 64 1) }

/-- A completion makes its record, its signal and its notes, and waits while q6 is full; a failed one is an error of its context. -/
theorem test_witness_matrix_ends :
    (let c := mxCmd (.mzero 3) true false ⟨false, 0, 0, true, 13, 2⟩ (some (mapped.lcore, 4))
     let s := mapped.withMx fun m => { m with queue := [c] }
     let t := after (.matrixCommandComplete 9) s
     splitAt 9 [] s.mx.queue = some ([], c, []) ∧ c.started = true ∧ c.ran = none ∧ c.what.streams = false ∧
       (nth s.eng.ret 2 []).length < Config.queueDepth 6 ∧ t.mx.queue = [] ∧ t.sem 13 = 2 ∧ t.sem 4 = 1 ∧
       nth t.eng.ret 2 [] = [Claims.statusRecord c 0]) ∧
    (let c := mxCmd (.mzero 3) true false .none (some (9, 4))
     let s := fullReturn (mapped.withMx fun m => { m with queue := [c] }) 2
     Config.queueDepth 6 ≤ (nth s.eng.ret 2 []).length ∧ (9 : BitVec 29) ≠ s.lcore ∧ (after (.matrixCommandComplete 9) s).mx.queue.map MxCmd.id = [9]) ∧
    (let c := mxCmd (.mzero 3) false true .none none
     let s := mapped.withMx fun m => { m with queue := [c] }
     c.failed = true ∧ c.owner = some (0, 0) ∧ (after (.matrixCommandComplete 9) s).ctx.imprecise.length = 1) := by decide

/-- A tile of two rows and two columns of 16 bits, at an entry that holds them. -/
def tiled : State :=
  let s := withLayouts mapped [square 2]
  { s with
    regs := { s.regs with tshape := .replicate 8 0x20202 }
    spad := { s.spad with cells := [(0x0, 0x34), (0x1, 0x12)] } }

theorem test_witness_tiles :
    (let s := tiled
     let u := (s.runMx 0xA0 (.tld 1 (s.layout 0) 0 0 false)).1
     shapeRows (s.shape 1) = 2 ∧ shapeCols (s.shape 1) = 2 ∧ ewBits (shapeEw (s.shape 1)) * shapeCols (s.shape 1) ≤ 512 ∧
       there ((s.layout 0).locate [0, 0]) (fun p => p.nibble < 2 ∧ s.spadElem (s.layout 0).es p % 2 ^ 16 =
         vecElem (nth (nth u.mx.tiles 1 (.replicate 64 0)) 0 0) 16 0) = true) ∧
    (let s := tiled.withMx fun m => { m with tiles := upd m.tiles 1 ((Vector.replicate 64 0).set 1 0x5678) }
     let u := (s.runMx 0xA0 (.tst 1 (s.layout 0) 0 0 false)).1
     cellsWf s.spad.cells = true ∧ there ((s.layout 0).locate [0, 1]) (fun p => s.spadBad p.addr.toNat (esBytes (s.layout 0).es) = false ∧
       u.spadElem (s.layout 0).es p = 0x5678) = true) := by decide

/-- A command for this core while its cluster is closed, and while it has no power. -/
theorem test_witness_targets_more :
    (let s : State := { mapped with guard := { mapped.guard with closedClusters := [0] } }; (s.closedAt s.pkg s.core).isSome = true) ∧
    (let s : State := { mapped with guard := { mapped.guard with offClusters := [0] } }; s.closedAt s.pkg s.core = none ∧ s.ownOff = true) ∧
    mapped.closedAt mapped.pkg mapped.core = none ∧ mapped.ownOff = false := by decide

/-- A streaming command behind another whose last column has passed, and one that the unit reaches before it is ready. -/
theorem test_witness_streams_more :
    there streamReady.mxReady (fun x => x.2.1.what.streams = true ∧ streamReady.mx.active = true ∧ streamReady.streamCycle ≤ streamReady.units.pcyc.toNat) = true ∧
    (let s := streamReady.withMx fun m => { m with streamEnd := 1250 }
     there s.mxReady (fun x => there x.2.1.ready fun r => r.toNat < s.streamCycle) = true) ∧
    (let s := streamReady.withMx fun m => { m with active := false }
     s.streamCycle ≤ s.mx.boundary + 4 ∧ there s.mxReady (fun x => there x.2.1.ready fun r => r.toNat < s.mx.boundary + 4) = true ∧
       0 < allowance s.units.rampup 3 s.guard.capped) := by decide

/-- An engine command of context 0 that has started. -/
def engCmd (what : EngOp) (rpt : Bool) (y : Sync) (fault : Option TrapInfo) (word : Option Word) (tries : Nat) : EngCmd :=
  ⟨9, 7, 0xB0, what, y, rpt, some (0, 0), mapped.ctx.root, true, true, false, 0, 0, fault, [], 0, false, word, tries, []⟩

/-- The copy queue with such a command at its head, or the gather queue. -/
def copying (s : State) (c : EngCmd) : State := s.withEng fun e => { e with copy := [c] }
def gathering (s : State) (c : EngCmd) : State := s.withEng fun e => { e with gather := [c] }

/-- A command of no elements ends with its record, its signal and its acknowledgement; one that failed is an error of its context;
one whose q4 is full waits; and one whose element its home refuses tries again. -/
theorem test_witness_engine_ends :
    (let n : Notice := ⟨0, 0, true, 4, 9⟩
     let c := engCmd (.pull (row 1 1) 0 0 (some n)) true ⟨false, 0, 0, true, 13, 2⟩ none none 0
     let s := copying mapped c
     s.eng.queueOf false = [c] ∧ c.started = true ∧ c.finished = false ∧ s.dbg.clusterHalted = false ∧ s.backsOff c = false ∧ c.what.size ≤ 0 ∧
       (nth s.eng.ret 0 []).length < Config.queueDepth 4 ∧
       (let c := { c with ran := true }
        let t := after (.engineCommandComplete false) (copying mapped c)
        c.finished = true ∧ t.eng.copy = [] ∧ nth t.eng.ret 0 [] = [Claims.completionRecord c] ∧ t.sem 13 = 2 ∧ t.sent = [.semaphore 9 4 1])) ∧
    (let c := { engCmd (.cpy (row 3 1) (row 3 1) [1] 0) true .none (some ⟨17, 0, some 8, 0, none⟩) none 0 with ran := true }
     let s := copying mapped c
     let t := after (.engineCommandComplete false) s
     c.finished = true ∧ t.eng.copy = [] ∧ nth t.eng.ret 0 [] = [Claims.completionRecord c] ∧ t.ctx.imprecise.length = 1 ∧
       (after (.engineCommandComplete false) (fullReturn s 0)).eng.copy.map EngCmd.id = [9] ∧
       Config.queueDepth 4 ≤ (nth (fullReturn s 0).eng.ret 0 []).length) ∧
    (let c := engCmd (.cpy (row 3 1) (row 3 1) [1] 0) false .none none none 3
     (3 : Nat) < mapped.regs.rnrlim.bits 0 8 ∧ c.tries = 3) := by decide

/-- A `gath.q` whose engine holds a word, and one that reads its next. -/
theorem test_witness_gathers :
    (let c := engCmd (.gathQ (row 3 1) (row 3 1) (BitVec.ofNat 64 1) 0) false .none none (some 5) 0
     let s := gathering mapped c
     s.eng.gather = [c] ∧ c.finished = false ∧ s.dbg.clusterHalted = false ∧ c.word = some 5 ∧ (nth s.eng.ret 1 []).length < Config.queueDepth 5 ∧
       nth s.pumpGather.eng.ret 1 [] = [5] ∧ Config.queueDepth 5 ≤ (nth (fullReturn s 1).eng.ret 1 []).length ∧
       (fullReturn s 1).pumpGather.eng.gather.map (·.word) = [some 5]) ∧
    (let c := engCmd (.gathQ (row 3 1) (row 3 1) (BitVec.ofNat 64 1) 0) false .none none none 0
     let s := gathering mapped c
     s.backsOff c = false ∧ passes (s.gathered ⟨c.root, c.pl, c.op.toNat⟩ (row 3 1) (row 3 1) (BitVec.ofNat 64 1) 0) (fun x => x.2 = 0) = true ∧
       nth s.pumpGather.eng.ret 1 [] = [0] ∧ s.spad.poison = [] ∧ (row 3 1).rank = 1 ∧
       there ((row 3 1).locate [gathIc (BitVec.ofNat 64 1) + 0]) (fun p => inSpad p.addr) = true) := by decide

/-! ### Witnesses of the clauses on the Drone, tasks and queues -/

/-- An object that may be created where nothing stands in the way; one with an entry in its fan-out table, whose deletion sends a
retraction. -/
theorem test_witness_creations :
    (let s := withG []
     s.closedAt s.pkg s.core = none ∧ s.ownOff = false ∧ dirSt (s.dir 3) = 0 ∧ s.mem.wf = true ∧ s.migrations = [] ∧ 0x30000 % 32 = 0 ∧
       0x30000 + recordSize 4 2 ≤ 2 ^ 24 ∧ (s.dirAddr 3 + 8 ≤ s.ownBase + 0x30000 ∨ s.ownBase + 0x30000 + recordSize 4 2 ≤ s.dirAddr 3) ∧
       s.mem.sealed = [] ∧ s.mem.poison = []) ∧
    (let s := withObject 4 []
     let s := s.setHd 3 3 (putBits (putBits (s.hd 3 3) 48 16 1) 0 24 0x50000)
     let s := (s.poke (s.ownBase + 0x50000) 8 5)
     dirSt (s.dir 3) = 1 ∧ s.seqNo < (s.delete 3).1.seqNo ∧ (s.delete 3).1.net.length = 1) := by decide

/-- Damping in the handler of an object, and outside one. -/
theorem test_witness_damping :
    (let s := (withObject 4 []).withDrone fun d => { d with handlers := upd d.handlers 0 ⟨true, here, 1, 0, 0, 0, 0, 0x3F000000, false⟩ }
     let s := ctl (s.setQ 3 3) fun c => { c with hobj := BitVec.ofNat 64 (2 ^ 40 + 3) }
     let d := s.dir (s.ctx.hobj.bits 0 12)
     s.ctx.hobj.bit 40 = true ∧ dirQ d = 3 ∧ dirSt d = 1 ∧ dirGen d = s.ctx.hobj.bits 32 8 ∧
       s.beta = (s.handler (hdType (s.hd (s.ctx.hobj.bits 0 12) 0))).damp.toNat ∧ (ctl s fun c => { c with hobj := 0 }).beta = 0) ∧
    (∀ x ∈ [(0x3F800000 : Nat), 0x40000000, 0x3F000000], ∃ n m e, fp32.read x = .fin n m e) ∧
    (dampOne false 0x3F000000 0x3F800000 0x40400000).1 = 0x40000000 := by
  refine ⟨by decide, ?_, by decide⟩
  intro x h
  simp only [List.mem_cons, List.not_mem_nil, or_false] at h
  rcases h with rfl | rfl | rfl <;> exact ⟨_, _, _, rfl⟩

/-- An event that the pending unit has no room for, that another refusal preceded, and the words that an `esread` pushes. -/
theorem test_witness_front_end_more :
    (let s := (withObject 1 []).withDrone fun d => { d with pending := List.replicate pendingDepth ⟨0, false, oneEvent false⟩ }
     s.closedAt s.pkg s.core = none ∧ s.ownOff = false) ∧
    (let s : State := { withObject 1 [] with evRnrs := [oneEvent false] }
     s.evRnrs.contains (oneEvent false) = true ∧ s.drone.pending.length < pendingDepth) ∧
    (let cmd (started : Bool) (results : List Word) (fault : Option Nat) : EvCmd :=
       ⟨9, 7, 0xC1, .odel 0 3, ⟨false, 0, 0, true, 13, 2⟩, true, some (0, 0), started, none, results, fault, []⟩
     let s (c : EvCmd) : State := mapped.withEng fun e => { e with event := [c] }
     let a := s (cmd true [] none)
     let b := s (cmd true [] (some 19))
     let d := s (cmd true [5, 6] none)
     a.eng.event = [cmd true [] none] ∧ (after .eventQueueCommandComplete a).sem 13 = 2 ∧ (after .eventQueueCommandComplete a).eng.event = [] ∧
       (after .eventQueueCommandComplete b).ctx.imprecise.length = 1 ∧
       (nth d.eng.ret 3 []).length < Config.queueDepth 7 ∧ nth d.pumpEvent.eng.ret 3 [] = [5] ∧
       Config.queueDepth 7 ≤ (nth (fullReturn d 3).eng.ret 3 []).length ∧
       (cmd false [] none).started = false ∧ (mapped.met (cmd false [] none).y) = true) := by
  refine ⟨by decide, by decide, by decide⟩

/-- Records behind the context's own adaptive stores; refused, in error, armed already, not well formed, and free to arm. -/
theorem test_witness_records_more :
    (let s := (spread [(6, 0x200000)]).asked ⟨0x200000, State.reset.ownBase + 2 ^ 33, .access (.write [(0, 1)]), true, true⟩
     Issues s [.rG 1 6] ∧ (s.readG 6).toNat % 64 = 0 ∧
       passes (s.translate s.cur (s.readG 6) 8 .atomic 0xD1 0) (fun t => s.overtakes [(t.ga, 64)] = true ∧ gaSpace t.ga = 0) = true ∧
       passes (s.translate s.cur (s.readG 6) 8 .atomic 0xD0 0) (fun t => s.overtakes [(t.ga, 64)] = true ∧ gaSpace t.ga = 0) = true) ∧
    (let s : State := { mapped with launch := { mapped.launch with acked := true } }
     s.silent 0x20000 = false ∧ s.closedAt (gaPkg 0x20000) (gaCore 0x20000) = none ∧ s.launch.acked = true ∧ s.ownSlice 0x20000 = true) ∧
    (let at' (w : Nat) : State := { mapped with mem := mapped.mem.write 0x20020 8 w }
     recState ((at' (3 * 2 ^ 45)).taskWord 0x20000 4) = 3 ∧ recState ((at' (2 * 2 ^ 45)).taskWord 0x20000 4) = 2 ∧
       4 < recSn ((at' (5 * 2 ^ 36)).taskWord 0x20000 4) ∧
       (let w := (at' (2 ^ 36)).taskWord 0x20000 4
        recState w = 0 ∧ ¬ (recSn w = 0 ∨ 4 < recSn w ∨ 4 < recVn w) ∧ (at' (2 ^ 36)).mem.wf = true ∧ (at' (2 ^ 36)).migrations = [] ∧
          (at' (2 ^ 36)).recordError 0x20000 = none ∧ (5 : Word).bits 0 32 ≠ 0 ∧ (0 : Word).bits 0 32 = 0)) ∧
    (mapped.ownSlice 0x20000 = true ∧ mapped.ownSlice (State.reset.ownBase + 2 ^ 33) = false ∧ gaPkg 0x20000 = mapped.pkg ∧
      gaPkg (sliceBase 16 0) ≠ mapped.pkg ∧ nth mapped.tasks.chains 0 [] = [] ∧ mapped.tasks.used < 64 ∧
      (let s : State := { mapped with tasks := { mapped.tasks with chains := .replicate 4 [0x30000] } }; nth s.tasks.chains 0 [] ≠ [])) := by decide

/-- A queue's slots at homes that answer, that are closed, and that hold an error; what a termination notice reaches. -/
theorem test_witness_queues_more :
    (let s : State := { mapped with queues := [aQueue] }
     let place := aQueue.base + 64 * (aQueue.head.toNat % 2 ^ aQueue.log2)
     let tail := aQueue.base + 64 * (aQueue.tail.toNat % 2 ^ aQueue.log2)
     let bad : State := { s with mem := { s.mem with poison := [0x40000 / 8] } }
     let dead : State := { s with launch := { s.launch with failed := [0] } }
     s.homeError (s.moved place) 8 true = none ∧ (bad.homeError (bad.moved place) 8 true).isSome = true ∧ s.homeError (s.moved tail) 64 false = none ∧
       (s.closedAt s.pkg s.core = none ∧ s.ownOff = false) ∧ s.mem.wf = true ∧ s.migrations = [] ∧ place % 64 = 0 ∧ tail % 64 = 0 ∧
       s.mem.isSealed place = false ∧ s.mem.isSealed tail = false ∧ (dead.homeError (dead.moved tail) 64 false).isSome = true ∧
       s.homeError (s.moved (place + 8)) 8 true = none ∧ (7 : Word) ≠ 0) ∧
    (let s := helper.modifyAt 1 fun c => { c with qlast := BitVec.ofNat 64 (2 ^ 63 + 5 * 2 ^ 32) }
     (s.at 1).works 5 = true ∧ (s.at 1).block = none ∧
       there (((after (.terminationNotice 5) s).at 1).block) (fun b => b.wait = .ending) = true ∧
       (let t := s.modifyAt 1 fun c => { c with block := some ⟨.ending, 0, []⟩ }
        (t.at 1).spec = [] ∧ ((after (.terminationNotice 5) t).at 1).block = some ⟨.ending, 0, []⟩)) := by
  refine ⟨by decide, by decide⟩

/-! ### Witnesses of the clauses on translations, migrations and the host -/

/-- The machine with this entry as the leaf of its first 2 MiB. -/
def leafAt (e : Nat) : State := { mapped with mem := mapped.mem.write 0x4000 8 e }

/-- The tables and entries of its walk. -/
def tableOf (n : Nat) : Nat := (n + 1) * 0x1000
def entryOf (n : Nat) : Nat := tableOf (n + 1) + 1

abbrev WalksTo (s : State) (e : Option Nat) : Prop :=
  s.walkWaits 0x20000 = false ∧ tableOf 0 = (s.at 0).root.bits 12 52 * 2 ^ 12 ∧ s.tlb = [] ∧ s.tableRead (tableOf 3) = e ∧
    ∀ j < 3, s.tableRead (tableOf j) = some (entryOf j) ∧ (entryOf j).testBit 0 = true ∧ (entryOf j).testBit 1 = false ∧
      tableOf (j + 1) = entryOf j / 2 ^ 8 * 2 ^ 8

theorem test_witness_walks :
    (∀ j < 3, ¬ Claims.illFormed j (entryOf j)) ∧ (∀ b : Nat, 56 < b → b < 64 → (0x20000 : Word).bit b = (0x20000 : Word).bit 56) ∧
    Word.bit (BitVec.ofNat 64 (2 ^ 60)) 60 ≠ Word.bit (BitVec.ofNat 64 (2 ^ 60)) 56 ∧
    WalksTo (leafAt 0x3F) (some 0x3F) ∧ WalksTo (leafAt 0) (some 0) ∧
    WalksTo { leafAt 0x3F with mem := { (leafAt 0x3F).mem with poison := [0x800] } } none ∧ WalksTo (leafAt 0x1003F) (some 0x1003F) ∧
    Claims.illFormed 3 0x1003F ∧ ¬ Claims.illFormed 3 0x3F ∧ ¬ Claims.illFormed 3 0x7F ∧ ¬ Claims.illFormed 3 0xBF ∧
    ¬ Claims.illFormed 3 (sliceBase 16 0 + 0x3F) := by
  refine ⟨?_, ?_, by decide, by decide, by decide, by decide, by decide, ?_, ?_, ?_, ?_, ?_⟩
  · intro j h
    have : j = 0 ∨ j = 1 ∨ j = 2 := by omega
    rcases this with rfl | rfl | rfl <;> simp only [Claims.illFormed] <;> rw [if_neg (by decide)] <;> decide
  · intro b h1 h2
    have h : ∀ b : Fin 64, 56 < b.val → (0x20000 : Word).bit b.val = (0x20000 : Word).bit 56 := by decide
    exact h ⟨b, h2⟩ h1
  all_goals simp only [Claims.illFormed]; rw [if_pos (by decide)]; decide

/-- What the checks of a leaf meet: another job's package, a page of no user access, a kind not allowed, a seal, a watch. -/
theorem test_witness_leaves :
    (let s := leafAt 0x3F
     s.jobPackage (gaPkg 0x20000) = true ∧ s.jobPackage (gaPkg (sliceBase 16 0)) = false ∧ (s.at 0).pl = true ∧ ((0x1F : Nat).testBit 5) = false ∧
       (ctl s fun c => { c with status := 0 }).ctx.pl = false ∧ Claims.permits .load 0x3F ∧ ¬ Claims.permits .store 0x37 ∧ (0x7F : Nat).testBit 6 = true ∧
       passes (s.translate 0 0x20000 8 .load 0x80 0) (fun t => t.ga = 0x20000 ∧ t.x.leaf = 0x3F ∧ t.x.level = 3 ∧ t.x.size = 2 ^ 21) = true) ∧
    (let s := leafAt 0xBF
     let s : State := { s with units := { s.units with wfa := upd s.units.wfa 0 0x20001, wfm := upd s.units.wfm 0 1 } }
     (0xBF : Nat).testBit 7 = true ∧ Claims.watches s .load 0x20000 0 ∧ ¬ Claims.watches s .store 0x20000 0 ∧
       passes (s.translate 0 0x20000 8 .load 0x80 0) (fun _ => true) = false) := by
  unfold Claims.permits Claims.watches; decide

/-- A translation that the TLBs hold is one when they hold it in this step. -/
theorem test_witness_held_translation :
    let x : Xlate := ⟨0, 2 ^ 21, 0x3F, 3, []⟩
    let s : State := { mapped with tlb := [x] }
    s.walkWaits 0x20000 = false ∧ s.leaving x = false ∧
      (s.tlb.find? fun x => x.base ≤ 0x20000 && 0x20000 < x.base + x.size && Config.tlbHeld s.tick && !s.leaving x) =
        if Config.tlbHeld s.tick then some x else none := by
  intro x s
  refine ⟨by decide, by decide, ?_⟩
  have l : ∀ b, (s.tlb.find? fun x => x.base ≤ 0x20000 && 0x20000 < x.base + x.size && b && !s.leaving x) = if b then some x else none := by decide
  exact l _

theorem test_witness_table_reads :
    gaSpace 0x4000 = 0 ∧ mapped.moved 0x4000 = 0x4000 ∧ mapped.deadHome 0x4000 = none ∧ mapped.closedAt (gaPkg 0x4000) (gaCore 0x4000) = none ∧
    mapped.mem.poisoned 0x4000 8 = false ∧ ({ mapped with mem := { mapped.mem with poison := [0x800] } } : State).mem.poisoned 0x4000 8 = true := by decide

/-- A migration beside another; and the ends of one, with a semaphore of its sender. -/
theorem test_witness_migrations_more :
    (let x (sem : Option (BitVec 8)) (frozen : Bool) (sender : BitVec 29) : Migration :=
       ⟨⟨0x10000, 0x103F, 2 ^ 62, 0x100000, 16, sem, sender⟩, [], 0, frozen, !frozen⟩
     let s (m : Migration) : State := { mapped with migrations := [m] }
     (∃ y ∈ (s (x none true 0)).migrations, y.m.va = 0x10000) ∧ (∃ y ∈ (s (x none true 0)).migrations, y.m.new = 0x100000) ∧
       there ((s (x (some 4) false 0)).migration 0x10000) (fun m => m.forwarding = true ∧ m.m.sem = some 4 ∧ m.m.sender = mapped.lcore) = true ∧
       there ((s (x (some 4) false 9)).migration 0x10000) (fun m => m.m.sender ≠ mapped.lcore) = true ∧
       (s (x (some 4) false 0)).shotDown 0x10000 = true ∧ (after (.migrationComplete 0x10000) (s (x (some 4) false 0))).sem 4 = 1 ∧
       there ((s (x none true 0)).migration 0x10000) (fun m => m.frozen = true ∧ m.forwarding = false) = true) ∧ (5 : Nat) ≤ 16 := by decide

/-- A request of the host that its home refuses: tried again, or at its limit. -/
theorem test_witness_host_retries :
    (let s (n : Nat) : State := { mapped with mem := { mapped.mem with frozen := [granule 0x20000] }
                                              service := { mapped.service with waiting := [⟨9, 0x20000, .read 8, n⟩] } }
     (s 0).hostRefused ⟨9, 0x20000, .read 8, 0⟩ = true ∧ (0 : Nat) + 1 < 64 ∧ (s 63).hostRefused ⟨9, 0x20000, .read 8, 63⟩ = true ∧ (64 : Nat) ≤ 63 + 1 ∧
       Claims.hostDrained (s 63)) ∧
    (let q : Request := ⟨5, 0, 0, sliceBase 0 16, 0, here, .access (.read 8), false, false, 0, [], .sent, 0⟩
     let s : State := { mapped with net := [{ q with posted := true, msg := .shootdown 0 0 0 }] }
     mapped.core / 16 = 0 ∧ s.net.length = 1) := by
  unfold Claims.hostDrained; decide

/-- The debug modules and the management port: halted contexts, refused accesses, sessions and a cluster without power. -/
theorem test_witness_debug_more :
    (let s := debugged (some .cluster)
     s.takesHalt 0 = true ∧ s.takesHalt 1 = false ∧ s.ownOff = false ∧ ¬ Claims.portBusy s ∧
       (let t := ctl s fun c => { c with block := some ⟨.park, 0, []⟩ }; (t.at 0).live = true ∧ t.takesHalt 0 = t.waitOver 0 .park) ∧
       (let t : State := { s with guard := { s.guard with offClusters := [0] } }; t.ownOff = true ∧ t.dbg.halted ≠ none)) ∧
    (let s := debugged none
     let t : State := { s with mem := { s.mem with frozen := [granule 0x20000] } }
     t.hostStatus 0x20000 true = 0 ∧ t.hostStatus 0x20000 false = 0 ∧ Claims.refusesHost t 0x20000 ∧
       there (t.patchPlace 0 0x20000) (fun x => granule x.2 = granule 0x20000 ∧ x.1.testBit 6 = false) = true) ∧
    (let s : State := { debugged none with service := { mapped.service with waiting := [⟨0, 0x20000, .portRead 8, 0⟩] } }; Claims.portBusy s) ∧
    (let s : State := { debugged none with dbg := { mapped.dbg with sessions := List.replicate 16 ⟨0, 0, 0, 0x40000, 12, 0xFF, 0, 0, [], 0⟩ } }
     16 ≤ s.dbg.sessions.length ∧ s.traceCluster 0 = some (s.core / 16)) ∧
    (let s : State := { mapped with launch := { mapped.launch with preemptHeld := true } }; s.launch.preemptHeld = true) ∧
    (8 : Nat) ≤ 8 ∧ (1000 : BitVec 12).toNat ≤ 3000 := by
  unfold Claims.portBusy Claims.refusesHost; decide

end Sys2Proof.Tests
end

section
/-!
PROOFS. The scalar family (R79 to R97): the integer instructions and the transfers of control. Each function of the model is
tied to the function that its statement names, and the rule of its form carries that over to the instruction.
-/

namespace Sys2Proof.Machine

/-! ### How the forms end -/

/-- An instruction of class `free` whose body ends with `f` whenever `P` holds completes with `f` whenever `P` holds. -/
theorem completesIf_of_issue {i : Instr} {op : Nat} {uses : List Use} {body : State → Effect} {P : State → Prop} {f : State → State}
    (hi : ∀ s, exec i s = s.issue op .free uses body) (hb : ∀ s, P s → body s = .done (f s)) (hc : ∀ s, (f s).cur = s.cur) :
    CompletesIf i .free uses false P f :=
  fun s h hP => (hi s).trans (s.issue_done (f s) op .free uses body h (hb s hP) (hc s))

theorem completes_of_issue {i : Instr} {op : Nat} {uses : List Use} {f : State → State}
    (hi : ∀ s, exec i s = s.issue op .free uses fun s => .done (f s)) (hc : ∀ s, (f s).cur = s.cur) :
    Completes i .free uses false f :=
  fun s h => completesIf_of_issue (P := fun _ => True) hi (fun _ _ => rfl) hc s h trivial

/-- An instruction of class `free` whose body transfers with `f` to `t` whenever `P` holds goes there. -/
theorem goesIf_of_issue {i : Instr} {op : Nat} {uses : List Use} {body : State → Effect} {P : State → Prop} {f : State → State}
    {t : State → Word} (hi : ∀ s, exec i s = s.issue op .free uses body) (hb : ∀ s, P s → body s = .jump (f s) (t s)) :
    GoesIf i .free uses false P f t := by
  intro s h hP
  rw [hi, s.issue_of_canIssue op .free uses body h, hb s hP]

theorem unary_of_scalar1 {i : Field → Field → Instr} {op : Nat} {f g : Word → Word}
    (hi : ∀ d a s, exec (i d a) s = scalar1 op f d a s) (h : ∀ x, f x = g x) : Unary i g := by
  obtain rfl : f = g := funext h
  exact fun d a => completes_of_issue (hi d a) fun s => s.writeG_cur d _

theorem binary_of_scalar2 {i : Field → Field → Field → Instr} {op : Nat} {f g : Word → Word → Word}
    (hi : ∀ d a b s, exec (i d a b) s = scalar2 op f d a b s) (h : ∀ x y, f x y = g x y) : Binary i g := by
  obtain rfl : f = g := funext fun x => funext (h x)
  exact fun d a b => completes_of_issue (hi d a b) fun s => s.writeG_cur d _

/-! ### Division (R82) -/

/-- R82's corner, as the claims write its condition for signed operands. -/
theorem division_corner_iff (a b : Word) :
    (true && a == BitVec.intMin 64 && b == BitVec.allOnes 64) = true ↔ a = BitVec.intMin 64 ∧ b = BitVec.allOnes 64 := by
  rw [Bool.true_and, Bool.and_eq_true, beq_iff_eq, beq_iff_eq]

/-- The quotient of the most negative number by -1 is cut to the most negative number, so R82's corner is no exception. -/
theorem quotS_eq_quotient (a b : Word) : quotS a b = Claims.quotient true a b := by
  unfold quotS Claims.quotient
  by_cases hb : b = 0
  · rw [if_pos hb, if_pos hb]
  · rw [if_neg hb, if_neg hb]
    split
    · next h => obtain ⟨rfl, rfl⟩ := (division_corner_iff a b).mp h; decide
    · rfl

theorem quotU_eq_quotient (a b : Word) : quotU a b = Claims.quotient false a b := by
  simp [quotU, Claims.quotient]

theorem remS_eq_remainder (a b : Word) : remS a b = Claims.remainder true a b := by
  unfold remS Claims.remainder
  by_cases hb : b = 0
  · rw [if_pos hb, if_pos hb]
  · rw [if_neg hb, if_neg hb]
    split
    · next h => obtain ⟨rfl, rfl⟩ := (division_corner_iff a b).mp h; decide
    · rfl

theorem remU_eq_remainder (a b : Word) : remU a b = Claims.remainder false a b := by
  simp [remU, Claims.remainder]

theorem quotS_mul_add_remS (a b : Word) (hb : b ≠ 0) : quotS a b * b + remS a b = a := by
  rw [quotS, remS, if_neg hb, if_neg hb]
  calc BitVec.ofInt 64 (a.toInt.tdiv b.toInt) * b + BitVec.ofInt 64 (a.toInt.tmod b.toInt)
      = BitVec.ofInt 64 (a.toInt.tdiv b.toInt * b.toInt + a.toInt.tmod b.toInt) := by
        rw [BitVec.ofInt_add, BitVec.ofInt_mul, BitVec.ofInt_toInt]
    _ = a := by rw [Int.tdiv_mul_add_tmod, BitVec.ofInt_toInt]

theorem quotU_mul_add_remU (a b : Word) (hb : b ≠ 0) : quotU a b * b + remU a b = a := by
  rw [quotU, remU, if_neg hb, if_neg hb]
  calc BitVec.ofNat 64 (a.toNat / b.toNat) * b + BitVec.ofNat 64 (a.toNat % b.toNat)
      = BitVec.ofNat 64 (a.toNat / b.toNat * b.toNat + a.toNat % b.toNat) := by
        rw [BitVec.ofNat_add, BitVec.ofNat_mul, BitVec.ofNat_toNat 64 b, BitVec.setWidth_eq]
    _ = a := by rw [Nat.div_add_mod', BitVec.ofNat_toNat, BitVec.setWidth_eq]

theorem quotient_mul_add_remainder (signed : Bool) (a b : Word) (hb : b ≠ 0) :
    Claims.quotient signed a b * b + Claims.remainder signed a b = a := by
  cases signed with
  | true => rw [← quotS_eq_quotient, ← remS_eq_remainder, quotS_mul_add_remS a b hb]
  | false => rw [← quotU_eq_quotient, ← remU_eq_remainder, quotU_mul_add_remU a b hb]

/-- Settles O1: each function of the model is R81's or R82's, the corner of the signed division included. -/
theorem integerArithmetic : Obligations.IntegerArithmetic :=
  ⟨binary_of_scalar2 exec_add fun _ _ => rfl,
    binary_of_scalar2 exec_sub fun _ _ => rfl,
    binary_of_scalar2 exec_mul fun _ _ => rfl,
    binary_of_scalar2 exec_mulh fun _ _ => rfl,
    binary_of_scalar2 exec_mulhu fun _ _ => rfl,
    binary_of_scalar2 exec_div quotS_eq_quotient,
    binary_of_scalar2 exec_divu quotU_eq_quotient,
    binary_of_scalar2 exec_rem remS_eq_remainder,
    binary_of_scalar2 exec_remu remU_eq_remainder,
    quotient_mul_add_remainder⟩

/-! ### Shifts (R83) -/

theorem rotL_eq_or (x y : Word) : rotL x y = (x <<< (y.toNat % 64)) ||| (x >>> (64 - y.toNat % 64)) := by
  rw [rotL, BitVec.rotateLeft_def, Nat.mod_mod]

/-- The amount of an immediate form is its six bits. -/
theorem toNat_zeroExtend_mod_64 (n : BitVec 6) : (n.zeroExtend 64).toNat % 64 = n.toNat := by
  rw [BitVec.toNat_setWidth]; omega

theorem shiftL_imm (x : Word) (n : BitVec 6) : shiftL x (n.zeroExtend 64) = x <<< n.toNat := by
  rw [shiftL, toNat_zeroExtend_mod_64]

theorem shiftR_imm (x : Word) (n : BitVec 6) : shiftR x (n.zeroExtend 64) = x >>> n.toNat := by
  rw [shiftR, toNat_zeroExtend_mod_64]

theorem shiftRA_imm (x : Word) (n : BitVec 6) : shiftRA x (n.zeroExtend 64) = x.sshiftRight n.toNat := by
  rw [shiftRA, toNat_zeroExtend_mod_64]

theorem rotL_imm (x : Word) (n : BitVec 6) : rotL x (n.zeroExtend 64) = (x <<< n.toNat) ||| (x >>> (64 - n.toNat)) := by
  rw [rotL_eq_or, toNat_zeroExtend_mod_64]

/-- Settles O2: the register forms cut the amount to six bits, and the immediate forms hold just those. -/
theorem integerLogic : Obligations.IntegerLogic :=
  ⟨binary_of_scalar2 exec_and fun _ _ => rfl,
    binary_of_scalar2 exec_or fun _ _ => rfl,
    binary_of_scalar2 exec_xor fun _ _ => rfl,
    binary_of_scalar2 exec_andn fun _ _ => rfl,
    binary_of_scalar2 exec_orn fun _ _ => rfl,
    binary_of_scalar2 exec_shl fun _ _ => rfl,
    binary_of_scalar2 exec_shr fun _ _ => rfl,
    binary_of_scalar2 exec_sra fun _ _ => rfl,
    binary_of_scalar2 exec_rot rotL_eq_or,
    fun n =>
      ⟨unary_of_scalar1 (fun d a => exec_shli d a n) (shiftL_imm · n),
        unary_of_scalar1 (fun d a => exec_shri d a n) (shiftR_imm · n),
        unary_of_scalar1 (fun d a => exec_srai d a n) (shiftRA_imm · n),
        unary_of_scalar1 (fun d a => exec_roti d a n) (rotL_imm · n)⟩⟩

/-! ### Counts (R84) -/

theorem lt_two_pow_bitLen (m : Nat) : m < 2 ^ bitLen m := by
  unfold bitLen
  split
  · next h => subst h; decide
  · exact Nat.lt_log2_self

theorem testBit_pred_bitLen (m : Nat) (h : 0 < bitLen m) : m.testBit (bitLen m - 1) = true := by
  unfold bitLen at h ⊢
  split at h
  · exact absurd h (lt_irrefl 0)
  · next hm => rw [if_neg hm]; exact Nat.testBit_log2 hm

theorem bitLen_le (m n : Nat) (h : m < 2 ^ n) : bitLen m ≤ n := by
  unfold bitLen
  split
  · exact Nat.zero_le n
  · next hm => exact (Nat.log2_lt hm).mpr h

theorem leadingZeros_bitLen (x : Word) : Claims.LeadingZeros x (64 - bitLen x.toNat) := by
  have hle : bitLen x.toNat ≤ 64 := bitLen_le _ _ x.isLt
  refine ⟨Nat.sub_le 64 _, fun i hi => ?_, fun h => ?_⟩
  · apply Nat.testBit_lt_two_pow
    exact (lt_two_pow_bitLen x.toNat).trans_le (Nat.pow_le_pow_right (by decide) (by omega))
  · have e : 63 - (64 - bitLen x.toNat) = bitLen x.toNat - 1 := by omega
    rw [e]
    exact testBit_pred_bitLen x.toNat (by omega)

/-- The search for the lowest one bit stops at it, and passes zero bits alone. -/
theorem lowestOne_spec (x : Word) (n i : Nat) :
    lowestOne x n i ≤ i + n ∧ (∀ j, i ≤ j → j < lowestOne x n i → x.getLsbD j = false) ∧
      (lowestOne x n i < i + n → x.getLsbD (lowestOne x n i) = true) := by
  induction n generalizing i with
  | zero => exact ⟨le_rfl, fun j h1 h2 => absurd h2 (not_lt.mpr h1), fun h => absurd h (lt_irrefl i)⟩
  | succ n ih =>
    by_cases hx : x.getLsbD i = true
    · rw [lowestOne, if_pos hx]
      exact ⟨Nat.le_add_right i _, fun j h1 h2 => absurd h2 (not_lt.mpr h1), fun _ => hx⟩
    · obtain ⟨hle, hzero, hone⟩ := ih (i + 1)
      rw [lowestOne, if_neg hx]
      refine ⟨by omega, fun j h1 h2 => ?_, fun h => hone (by omega)⟩
      rcases Nat.eq_or_lt_of_le h1 with rfl | h1
      · exact Bool.eq_false_iff.mpr hx
      · exact hzero j h1 h2

theorem trailingZeros_lowestOne (x : Word) : Claims.TrailingZeros x (lowestOne x 64 0) := by
  obtain ⟨hle, hzero, hone⟩ := lowestOne_spec x 64 0
  exact ⟨hle, fun i => hzero i (Nat.zero_le i), hone⟩

theorem countOnes_eq_countP (x : Word) : countOnes x = BitVec.ofNat 64 ((List.range 64).countP x.getLsbD) := by
  rw [countOnes, onesOf, List.countP_eq_length_filter]

theorem absolute_eq_ite (x : Word) : absolute x = if x.toInt < 0 then -x else x := by
  simp [absolute, BitVec.slt_iff_toInt_lt]

/-! ### Minima and maxima (R85) -/

theorem minS_eq_ite (x y : Word) : minS x y = if x.toInt ≤ y.toInt then x else y := by
  simp only [minS, BitVec.slt_iff_toInt_lt, ← not_le, ite_not]

theorem maxS_eq_ite (x y : Word) : maxS x y = if x.toInt ≤ y.toInt then y else x := by
  rcases lt_trichotomy x.toInt y.toInt with h | h | h
  · rw [maxS, if_pos (BitVec.slt_iff_toInt_lt.mpr h), if_pos h.le]
  · obtain rfl := BitVec.eq_of_toInt_eq h
    rw [maxS, ite_self, ite_self]
  · rw [maxS, if_neg (mt BitVec.slt_iff_toInt_lt.mp h.not_gt), if_neg h.not_ge]

theorem minU_eq_ite (x y : Word) : minU x y = if x.toNat ≤ y.toNat then x else y := by
  simp only [minU, BitVec.ult_iff_toNat_lt, ← not_le, ite_not]

theorem maxU_eq_ite (x y : Word) : maxU x y = if x.toNat ≤ y.toNat then y else x := by
  rcases lt_trichotomy x.toNat y.toNat with h | h | h
  · rw [maxU, if_pos (BitVec.ult_iff_toNat_lt.mpr h), if_pos h.le]
  · obtain rfl := BitVec.eq_of_toNat_eq h
    rw [maxU, ite_self, ite_self]
  · rw [maxU, if_neg (mt BitVec.ult_iff_toNat_lt.mp h.not_gt), if_neg h.not_ge]

/-! ### Fields (R86, R87) -/

theorem signExt_eq_setWidth (x : Word) (n : Nat) : signExt x n = (x.setWidth n).signExtend 64 := by
  rw [signExt, BitVec.ofNat_toNat]

theorem zeroExt_eq_setWidth (x : Word) (n : Nat) : zeroExt x n = (x.setWidth n).setWidth 64 := by
  rw [zeroExt, ← BitVec.toNat_setWidth, BitVec.ofNat_toNat]

/-- The low bits of a word shifted down are the field that starts at the shift. -/
theorem setWidth_ushiftRight_eq_extractLsb' (x : Word) (pos n : Nat) : (x >>> pos).setWidth n = x.extractLsb' pos n := by
  rw [← BitVec.ofNat_toNat, BitVec.toNat_ushiftRight]; rfl

theorem twoPow_eq_ofNat (n : Nat) : BitVec.twoPow 64 n = BitVec.ofNat 64 (2 ^ n) := by
  apply BitVec.eq_of_toNat_eq
  rw [BitVec.toNat_twoPow, BitVec.toNat_ofNat]

/-- The mask of a field of `n` bits at `pos`. -/
theorem ofNat_fieldMask (pos n : Nat) : BitVec.ofNat 64 ((2 ^ n - 1) * 2 ^ pos) = ((1 : Word) <<< n - 1) <<< pos := by
  have ones : (1 : Word) <<< n - 1 = BitVec.ofNat 64 (2 ^ n - 1) :=
    calc (1 : Word) <<< n - 1 = BitVec.ofNat 64 (2 ^ n) - BitVec.ofNat 64 1 := by rw [← twoPow_eq_ofNat]; rfl
      _ = BitVec.ofNat 64 (2 ^ n - 1) := BitVec.ofNat_sub_ofNat_of_le _ _ (by decide) Nat.one_le_two_pow
  rw [ones, BitVec.shiftLeft_eq_mul_twoPow, twoPow_eq_ofNat, BitVec.ofNat_mul]

theorem deposit_eq_mask (d a : Word) (pos n : Nat) :
    deposit d a pos n =
      (d &&& ~~~(((1 : Word) <<< n - 1) <<< pos)) ||| ((a <<< pos) &&& (((1 : Word) <<< n - 1) <<< pos)) := by
  rw [deposit, ofNat_fieldMask]

theorem bfi_completes (pos len : BitVec 6) (d a : Field) :
    Completes (.bfi d a pos len) .free [.rwG d, .rG 1 a] false fun s =>
      s.writeG d (deposit (s.readG d) (s.readG a) pos.toNat (len.toNat + 1)) :=
  completes_of_issue (exec_bfi d a pos len) fun s => s.writeG_cur d _

theorem sel_completes (d a b c : Field) :
    Completes (.sel d a b c) .free [.wG d, .rG 1 a, .rG 2 b, .rG 3 c] false fun s =>
      s.writeG d (if s.readG a = 0 then s.readG c else s.readG b) :=
  completes_of_issue (exec_sel d a b c) fun s => s.writeG_cur d _

/-- Settles O3: the counts by the bits they pass, the fields by their masks. -/
theorem integerFields : Obligations.IntegerFields := by
  refine ⟨⟨_, leadingZeros_bitLen, unary_of_scalar1 exec_clz fun _ => rfl⟩,
    ⟨_, trailingZeros_lowestOne, unary_of_scalar1 exec_ctz fun _ => rfl⟩,
    unary_of_scalar1 exec_popc countOnes_eq_countP,
    unary_of_scalar1 exec_abs absolute_eq_ite,
    binary_of_scalar2 exec_min minS_eq_ite,
    binary_of_scalar2 exec_max maxS_eq_ite,
    binary_of_scalar2 exec_minu minU_eq_ite,
    binary_of_scalar2 exec_maxu maxU_eq_ite,
    fun n => ⟨unary_of_scalar1 (fun d a => exec_sext d a n) (signExt_eq_setWidth · _),
      unary_of_scalar1 (fun d a => exec_zext d a n) (zeroExt_eq_setWidth · _)⟩,
    fun pos len => ⟨unary_of_scalar1 (fun d a => exec_bfx d a pos len) fun x => ?_,
      unary_of_scalar1 (fun d a => exec_bfxS d a pos len) fun x => ?_, fun d a => ?_⟩,
    fun n => binary_of_scalar2 (fun d a b => exec_shadd d a b n) fun _ _ => rfl,
    unary_of_scalar1 exec_mov fun _ => rfl,
    fun d a b c => ?_⟩
  · rw [zeroExt_eq_setWidth, setWidth_ushiftRight_eq_extractLsb']
  · rw [signExt_eq_setWidth, setWidth_ushiftRight_eq_extractLsb']
  · simpa only [deposit_eq_mask] using bfi_completes pos len d a
  · simpa only [ne_eq, ite_not] using sel_completes d a b c

/-! ### Comparisons and immediates (R79, R89 to R91) -/

/-- Code by code, in the order of R79. -/
theorem holds_eq_condHolds (c : BitVec 4) (x y : Word) : Claims.holds c x y = condHolds c x y := by
  unfold Claims.holds condHolds
  generalize c.toNat = n
  match n with
  | 0 => rfl
  | 1 => exact decide_not
  | 2 => rfl
  | 3 => exact (decide_eq_decide.mpr not_lt.symm).trans decide_not
  | 4 => rfl
  | 5 => exact (decide_eq_decide.mpr not_lt.symm).trans decide_not
  | 6 => rfl
  | _ + 7 => exact decide_not

/-- Settles O4: a comparison writes whether R79's condition holds, and an immediate is extended with its sign. -/
theorem integerImmediates : Obligations.IntegerImmediates := by
  refine ⟨fun c _ => ⟨binary_of_scalar2 (fun d a b => exec_cmp d a b c) fun x y => ?_,
      fun i => unary_of_scalar1 (fun d a => exec_cmpi d a c i) fun x => ?_⟩,
    fun i => ⟨unary_of_scalar1 (fun d a => exec_addi d a i) fun _ => rfl,
      unary_of_scalar1 (fun d a => exec_andi d a i) fun _ => rfl,
      unary_of_scalar1 (fun d a => exec_ori d a i) fun _ => rfl,
      unary_of_scalar1 (fun d a => exec_xori d a i) fun _ => rfl⟩,
    fun d i => completes_of_issue (exec_ldi26 d i) fun s => s.writeG_cur d _,
    fun d i => completes_of_issue (exec_ldi64 d i) fun s => s.writeG_cur d _⟩
  · rw [holds_eq_condHolds]; rfl
  · rw [holds_eq_condHolds]; rfl

/-! ### Transfers of control (R93 to R97) -/

theorem State.transfer_of_reachable {s : State} {t : Word} (h : Claims.reachable s t) : s.transfer t = .jump s t := by
  have h : s.checkTarget t = none := h
  rw [transfer, h]

theorem State.link_of_reachable {s : State} {t : Word} (d : Field) (h : Claims.reachable s t) :
    s.link d t = .jump (s.writeG d s.ctx.next) t := by
  have h : s.checkTarget t = none := h
  rw [link, h]

theorem State.branch_false (s : State) (off : Word) : s.branch false off = .done s.diverge := rfl

theorem State.branch_true_of_reachable {s : State} {off : Word} (h : Claims.reachable s.diverge (s.target off)) :
    s.branch true off = .jump s.diverge (s.target off) :=
  State.transfer_of_reachable h

section Branches

variable {i : Instr} {op n : Nat} {uses : List Use} {taken : State → Bool} {off : BitVec n}
  (hi : ∀ s, exec i s = s.issue op .free uses fun s => s.branch (taken s) (off.signExtend 64))
include hi

/-- A branch that is not taken completes (R94). -/
theorem branch_completes {P : State → Prop} (hP : ∀ s, P s → taken s = false) : CompletesIf i .free uses false P State.diverge :=
  completesIf_of_issue hi (fun s h => by rw [hP s h, State.branch_false]) State.diverge_cur

/-- A branch that is taken goes to its target (R93, R94). -/
theorem branch_goes {P : State → Prop} (hP : ∀ s, P s → taken s = true) :
    GoesIf i .free uses false (fun s => P s ∧ Claims.reachable s.diverge (Claims.target off s)) State.diverge (Claims.target off) :=
  goesIf_of_issue hi fun s ⟨h, hr⟩ => by rw [hP s h, State.branch_true_of_reachable hr]; rfl

end Branches

/-- Settles O6: what the body of each transfer comes to, by whether it is taken, where its target passes R93's checks. -/
theorem transfersComplete : Obligations.TransfersComplete := by
  refine ⟨fun d a c i _ => ⟨branch_completes (exec_br d a c i) fun s h => ?_, branch_goes (exec_br d a c i) fun s h => ?_⟩,
    fun d i => ⟨branch_completes (exec_bz d i) fun s h => beq_false_of_ne h,
      branch_goes (exec_bz d i) fun s h => beq_iff_eq.mpr h,
      branch_completes (exec_bnz d i) fun s h => bne_eq_false_iff_eq.mpr h,
      branch_goes (exec_bnz d i) fun s h => bne_iff_ne.mpr h,
      goesIf_of_issue (exec_j i) fun _ => State.transfer_of_reachable,
      goesIf_of_issue (exec_jal d i) fun _ => State.link_of_reachable d⟩,
    fun d a => ⟨goesIf_of_issue (exec_jr a) fun _ => State.transfer_of_reachable,
      goesIf_of_issue (exec_jalr d a) fun _ => State.link_of_reachable d⟩⟩
  · rw [← holds_eq_condHolds, h]
  · rw [← holds_eq_condHolds, h]

end Sys2Proof.Machine
end
